-- ==== Sys2Proof/Word.lean ====
section
/-! DEFINITION. The word types of the Z4 (R26, R101, R137): 64-bit scalar registers, 32-bit lanes and
instruction words, bytes, register numbers. -/

namespace Sys2Proof

/-- A scalar register value (R26: `X[i]` is a 64-bit value). -/
abbrev Word := BitVec 64

/-- A 32-bit vector lane (R206) or an instruction word (R136). -/
abbrev Lane := BitVec 32

/-- A byte of memory. -/
abbrev Byte := BitVec 8

/-- A 5-bit register number (R137). -/
abbrev Reg := Fin 32

/-- The mask field m3 of a V-format word (R138): 0 unmasked, 1 to 7 the mask register x25 to x31. -/
abbrev Mask := Fin 8

/-- A word from a natural number, modulo 2^64. -/
def Word.ofNat (n : Nat) : Word := BitVec.ofNat 64 n

/-- A word from an integer, modulo 2^64. -/
def Word.ofInt (n : Int) : Word := BitVec.ofInt 64 n

end Sys2Proof
end

