-- ==== Sys2Proof/Types.lean ====
section
/-! DEFINITION. The closed sets of names that instruction fields and machine events range over: rounding modes,
element types, formats, hints, scopes, and the records that the outside world hands to the machine. -/

namespace Sys2Proof

/-- A rounding field (R138). `dyn` takes the mode of CSR `frm` (R107). -/
inductive RM where
  | rne | rz | rdn | rup | sr | dyn
  deriving DecidableEq, Repr

/-- A scalar or vector floating-point type (R148, R155). -/
inductive FT where
  | f64 | f32 | f16 | bf16
  deriving DecidableEq, Repr

/-- A type of the scalar conversions (R148). -/
inductive NumT where
  | f64 | f32 | f16 | bf16 | i64 | n64 | i32 | n32
  deriving DecidableEq, Repr

/-- A vector integer type (R153). -/
inductive IT where
  | i8 | i16 | i32 | i64 | n8 | n16 | n32 | n64
  deriving DecidableEq, Repr

/-- A type of the exact reductions and lane-group operations (R156). -/
inductive RT where
  | f64 | f32 | f16 | bf16 | i32 | n32 | i64 | n64
  deriving DecidableEq, Repr

/-- A retention hint (R68, R138). -/
inductive Hint where
  | hd | hs | hk | hb
  deriving DecidableEq, Repr

/-- A scope (R95, R144). -/
inductive Scope where
  | core | floe | die | pkg | sys
  deriving DecidableEq, Repr

/-- The kind of a scalar load (R149). -/
inductive LdK where
  | i8 | i16 | i32 | i64 | n8 | n16 | n32
  deriving DecidableEq, Repr

/-- The kind of a scalar store (R149). -/
inductive StK where
  | i8 | i16 | i32 | i64
  deriving DecidableEq, Repr

/-- The size of an acquire load (R150). -/
inductive AqZ where
  | i32 | n32 | i64
  deriving DecidableEq, Repr

/-- The size of a release store or of an integer atomic (R150). -/
inductive AmZ where
  | i32 | i64
  deriving DecidableEq, Repr

/-- The format of `famoadd`, in the order of its size codes (R150). -/
inductive FaZ where
  | f32 | f64 | f16 | bf16
  deriving DecidableEq, Repr

/-- An element width (R152, R157). -/
inductive EW where
  | w8 | w16 | w32 | w64
  deriving DecidableEq, Repr

/-- A format code (R104); code 15 is reserved and has no name. -/
inductive Fmt where
  | fp64 | fp32 | fp16 | bf16 | e4m3 | e5m2 | e3m2 | e2m3 | e2m1 | qg8 | qg4 | i8 | i16 | i32 | e8m0
  deriving DecidableEq, Repr

/-- Where a thread runs: a core by its number (R7) and one of its four slots (R38). -/
structure Loc where
  core : Nat
  slot : Nat
  deriving DecidableEq, Repr

/-- One tenant's entry in the tenant table that Chirnaore holds (R36, R61, R80, R267, R329). -/
structure TenantCfg where
  id       : Nat
  x0       : Nat
  y0       : Nat
  wlog     : Nat
  hlog     : Nat
  /-- The domains the tenant may read (R80). -/
  rd       : List Nat
  /-- The domains the tenant may write (R80). -/
  wr       : List Nat
  /-- The domains the tenant may execute (R80). -/
  ex       : List Nat
  /-- Its range of every die scratchpad (R61). -/
  spBase   : Nat
  spLen    : Nat
  /-- Its range of address groups, first and count (R267). -/
  gFirst   : Nat
  gCount   : Nat
  /-- Whether it holds the memory-management right (R329). -/
  mm       : Bool
  /-- Its memory-management request ring and page-table mapping (R325, R329). -/
  mmRing   : Nat
  ptMap    : Nat
  deriving DecidableEq, Repr

/-- What Chirnaore sets up when it starts (R332, R78, R82, R296, R324, R359, R371, R66). -/
structure BootCfg where
  ver      : BitVec 32
  node     : Nat
  root     : Nat
  firnGiB  : Nat
  /-- By die, the size in MiB of the overflow area and of its part for the pool's spill (R48, R359). -/
  ovf      : List (Nat × Nat)
  tenants  : List TenantCfg
  ramp     : List Nat
  aperture : Nat
  hostRd   : List Nat
  hostWr   : List Nat
  /-- Free frames for expansions: address and size in bytes (R82). -/
  frames   : List (Nat × Nat)
  /-- Error-log bases of the four compute dies and the moraine die (R325, R371). -/
  logs     : List Nat
  /-- Whether a checkpoint target is named (R335). -/
  ckpt     : Bool
  deriving DecidableEq, Repr

/-- What follows the verification of an image (R332, R333): Chirnaore's tables, or a failure to train the memory. -/
inductive BootResult where
  | accepted (cfg : BootCfg)
  | training
  deriving DecidableEq, Repr

/-- Where a memory-management request comes from (R329): a packet on a submission ring, or a tenant's request ring. -/
inductive MmSrc where
  | ring (r : Nat)
  | tenant (t : Nat)
  deriving DecidableEq, Repr

/-- What Chirnaore's scrub or an access finds in a memory or register file (R366 to R370). -/
inductive Finding where
  /-- Correctable errors in the granule at a storage key (R366): the unit code of R371, the core concerned (0xFFFF for none), the
  correlation number of the work that met them, and how many are merged. -/
  | corrected (unit key core corr count : Nat)
  /-- An uncorrectable error in the granule at a storage key (R367). -/
  | poisoned (unit key core corr : Nat)
  /-- An uncorrectable error in a sector that a core's L1D or L1I holds (R367), by its address. -/
  | l1 (core a : Nat) (inst : Bool) (corr : Nat)
  /-- An uncorrectable error in an accumulator tile byte (R367). -/
  | tile (floe tile off : Nat)
  /-- An uncorrectable error in a lane-slice granule of a slot's claim (R367). -/
  | slice (loc : Loc) (off : Nat)
  /-- An uncorrectable error in a synchronisation object or rime record (R369). -/
  | object (handle : Nat)
  /-- An uncorrectable error in a pooled or parked continuation record (R370). -/
  | record (tid : Nat)
  /-- An uncorrectable error in a die's partial statistics of a record (R370). -/
  | partialStat (die handle : Nat)
  /-- A register-file parity error met by a slot, and whether the replay met it again (R368). -/
  | parity (loc : Loc) (again : Bool)
  /-- A parity error in a vector register file, killing every thread with a granule of the floe (R368). -/
  | vparity (floe : Nat)
  /-- A scrub finds the slot of a freed poisoned object clean (R369). -/
  | clean (handle : Nat)
  /-- An uncorrectable error in a price register of a bank (R380). -/
  | bank (b : Nat)
  deriving DecidableEq, Repr

/-- The reduction or access that arrives from another package (R98, R190). -/
inductive PeerAccess where
  | load (pa size : Nat)
  | store (pa : Nat) (bytes : List Byte)
  | amo (op : Nat) (pa size : Nat) (expect val : Nat)
  | red (op : Nat) (fmt : Fmt) (pa : Nat) (val : Nat)
  | writeBack (pa : Nat) (bytes : List (Nat × Byte))
  deriving DecidableEq, Repr

/-- A member entry of an address group (R267). -/
structure Member where
  base : Nat
  node : Nat
  floe : Nat
  deriving DecidableEq, Repr

/-- The fields of a collective parameter block on which members must agree, with the rank that issues it (R272). -/
structure BlockKey where
  op     : Nat
  /-- The hint, on which blocks need not agree (R302). -/
  alg    : Nat
  dtype  : Nat
  rtype  : Nat
  rop    : Nat
  count  : Nat
  chunk  : Nat
  nranks : Nat
  root   : Nat
  /-- The stitch map's eight 64-bit words, for op 6 (R278). -/
  smap   : List Word
  rank   : Nat
  /-- For op 5, this rank's vtab entries: soff, scount, roff, rcount (R270). -/
  vtab   : List (Nat × Nat × Nat × Nat)
  deriving DecidableEq, Repr

/-- A block or report that reaches the coordinating expander: from this package (by the block's address) or from
another package's expander (R300, R389), a descriptor as its 64 bytes (R388). -/
inductive Forward where
  | own (addr : Nat)
  | peer (node floe : Nat) (key : BlockKey)
  | peerMc (node : Nat) (desc : BitVec 512)
  deriving DecidableEq, Repr

/-- A stream of packets of a plan, by the ranks between which it runs (R302, R304). -/
inductive Flow where
  /-- Rank `i`'s data for rank `j`; from a rank to itself, what it forms for itself without crossing a fabric port. -/
  | direct (i j : Nat)
  /-- Ring: the finished segment, or the data of rank `i`, from rank `r` to the next. -/
  | ring (r i : Nat)
  /-- Ring: the partial of segment `j` from rank `r` to the next. -/
  | ringPart (r j : Nat)
  /-- Tree: rank `i`'s data from rank `r` to its parent. -/
  | up (r i : Nat)
  /-- Tree: the partial of rank `r`'s subtree to its parent. -/
  | upPart (r : Nat)
  /-- The switch multicast of a root's data or of results; the results of the reduction point for rank `i`. -/
  | cast (i : Nat)
  /-- In-switch: rank `r`'s elements to its package's switch. -/
  | give (r : Nat)
  /-- In-switch: the partials of a package's members to the reduction point. -/
  | merged (node : Nat)
  deriving DecidableEq, Repr

/-- What the outside world or the scheduler chooses for a step of another agent (R6): a host's offsets and bytes, which
ring, launch, slot or unit acts, what a link or a scrub found. An event reads the fields its rule names and no others. -/
structure Input where
  /-- BAR offset, aperture offset or tile offset (R323 to R325). -/
  off    : Nat := 0
  len    : Nat := 0
  value  : Word := 0
  bytes  : List Byte := []
  /-- Submission ring (R326). -/
  ring   : Nat := 0
  core   : Nat := 0
  loc    : Loc := ⟨0, 0⟩
  lid    : Nat := 0
  tenant : Nat := 0
  floe   : Nat := 0
  /-- Stream port, matrix engine or fabric port. -/
  port   : Nat := 0
  handle : Nat := 0
  die    : Nat := 0
  group  : Nat := 0
  rank   : Nat := 0
  node   : Nat := 0
  seq    : Nat := 0
  island : Nat := 0
  addr   : Nat := 0
  chunk  : Nat := 0
  bank   : Nat := 0
  /-- An outcome: a flit's CRC holds, a retrain succeeds, an island is gated. -/
  good   : Bool := false
  err    : Nat := 0
  ms     : Nat := 0
  offset : Int := 0
  /-- A remote member's data, none when the member is in this package (R302). -/
  data   : Option (List Byte) := none
  list   : Option (List Member) := none
  boot   : BootResult := .training
  cfg    : Option TenantCfg := none
  /-- The domains that host accesses may read and write, as Chirnaore fills them at a reconfiguration (R324). -/
  hostRd : List Nat := []
  hostWr : List Nat := []
  src    : MmSrc := .ring 0
  fwd    : Forward := .own 0
  /-- The stream that a packet belongs to, the algorithm of a plan that another package coordinates (R302), the timestamp that a
  packet carries (R92), and the flits that a link acknowledges. -/
  flow   : Flow := .direct 0 0
  alg    : Nat := 0
  ts     : Nat := 0
  ack    : Nat := 0
  found  : Finding := .corrected 0 0 0xFFFF 0 1
  access : PeerAccess := .load 0 0
  word   : Lane := 0
  deriving DecidableEq, Repr

end Sys2Proof
end

