-- ==== Sys2Proof/Syntax.lean ====
section
/-! DEFINITION. The instructions and machine events of the Z4: a constructor for every row of spec/opcode_table.json.
A row with a word carries the row's fields; the stall count W, which every word has and no meaning reads, stands beside
the instruction in `Word32` (R136). The rows without a word are steps of the other agents (R6): what the outside world or
the scheduler chooses for them stands in the state's `input`. The constructors with fields come first (Lean compiles no
constructor with fields past the 245th), and a fence has one constructor for each of its five scopes (R144). -/

namespace Sys2Proof

/-- The steps of the machine (spec/opcode_table.json). -/
inductive Instr where
  /-- SUSP (R46): Parks the thread's record on a barrier object or event line for a target phase and frees the slot. -/
  | susp (a b : Reg)
  /-- SPAWN (R195): Writes a continuation record for a target address into a ready pool and returns OK or FULL. -/
  | spawn (d a : Reg)
  /-- PAUSE (R194): Marks the slot paused for n cycles. -/
  | pause (n : BitVec 14)
  /-- SYS (R198): Traps SYS with n in xval. -/
  | sys (n : BitVec 14)
  /-- CSRRW (R201): Swaps a CSR with a register. -/
  | csrrw (d a : Reg) (c : BitVec 12)
  /-- CSRRS (R201): Reads a CSR and sets the bits given in a register. -/
  | csrrs (d a : Reg) (c : BitVec 12)
  /-- CSRRC (R201): Reads a CSR and clears the bits given in a register. -/
  | csrrc (d a : Reg) (c : BitVec 12)
  /-- J (R177): Jumps by a signed word offset. -/
  | j (o : BitVec 24)
  /-- JAL (R177): Jumps by a signed word offset and links the return address in x1. -/
  | jal (o : BitVec 24)
  /-- JALR (R177): Jumps to a register plus a byte offset, links in xd, and traps MISALIGN on an unaligned target. -/
  | jalr (d a : Reg) (i : BitVec 14)
  /-- BEQ (R178): Branches when two registers are equal. -/
  | beq (a b : Reg) (o : BitVec 14)
  /-- BNE (R178): Branches when two registers differ. -/
  | bne (a b : Reg) (o : BitVec 14)
  /-- BLT (R178): Branches on signed less-than. -/
  | blt (a b : Reg) (o : BitVec 14)
  /-- BGE (R178): Branches on signed greater-or-equal. -/
  | bge (a b : Reg) (o : BitVec 14)
  /-- BLTU (R178): Branches on unsigned less-than. -/
  | bltu (a b : Reg) (o : BitVec 14)
  /-- BGEU (R178): Branches on unsigned greater-or-equal. -/
  | bgeu (a b : Reg) (o : BitVec 14)
  /-- BBS (R178): Branches when a selected bit of a register is 1. -/
  | bbs (a : Reg) (n : BitVec 6) (o : BitVec 12)
  /-- BBC (R178): Branches when a selected bit of a register is 0. -/
  | bbc (a : Reg) (n : BitVec 6) (o : BitVec 12)
  /-- REP (R180): Repeats the next n words the number of times held in a register. -/
  | rep (a : Reg) (n : BitVec 12)
  /-- LPIN (R182): Snapshots the next n words into the slot's loop-buffer region and pins them. -/
  | lpin (n : BitVec 12)
  /-- ADD (R171): 64-bit wrapping addition. -/
  | add (d a b : Reg)
  /-- SUB (R171): 64-bit wrapping subtraction. -/
  | sub (d a b : Reg)
  /-- AND (R171): Bitwise and. -/
  | and (d a b : Reg)
  /-- OR (R171): Bitwise or. -/
  | or (d a b : Reg)
  /-- XOR (R171): Bitwise exclusive or. -/
  | xor (d a b : Reg)
  /-- SLL (R171): Logical shift left by the low 6 bits of xb. -/
  | sll (d a b : Reg)
  /-- SRL (R171): Logical shift right. -/
  | srl (d a b : Reg)
  /-- SRA (R171): Arithmetic shift right. -/
  | sra (d a b : Reg)
  /-- SLT (R171): Sets 1 on signed less-than. -/
  | slt (d a b : Reg)
  /-- SLTU (R171): Sets 1 on unsigned less-than. -/
  | sltu (d a b : Reg)
  /-- MIN (R171): Signed minimum. -/
  | min (d a b : Reg)
  /-- MAX (R171): Signed maximum. -/
  | max (d a b : Reg)
  /-- MINU (R171): Unsigned minimum. -/
  | minu (d a b : Reg)
  /-- MAXU (R171): Unsigned maximum. -/
  | maxu (d a b : Reg)
  /-- ADDW (R171): 32-bit addition, sign-extended. -/
  | addw (d a b : Reg)
  /-- SUBW (R171): 32-bit subtraction, sign-extended. -/
  | subw (d a b : Reg)
  /-- SLLW (R171): 32-bit shift left, sign-extended. -/
  | sllw (d a b : Reg)
  /-- SRLW (R171): 32-bit logical shift right, sign-extended. -/
  | srlw (d a b : Reg)
  /-- SRAW (R171): 32-bit arithmetic shift right, sign-extended. -/
  | sraw (d a b : Reg)
  /-- CLZ (R171): Counts leading zeros. -/
  | clz (d a : Reg)
  /-- CTZ (R171): Counts trailing zeros. -/
  | ctz (d a : Reg)
  /-- POPC (R171): Counts one bits. -/
  | popc (d a : Reg)
  /-- MUL (R172): Low 64 bits of the product. -/
  | mul (d a b : Reg)
  /-- MULH (R172): High half of the signed 128-bit product. -/
  | mulh (d a b : Reg)
  /-- MULHU (R172): High half of the unsigned product. -/
  | mulhu (d a b : Reg)
  /-- MULHSU (R172): High half of the signed-by-unsigned product. -/
  | mulhsu (d a b : Reg)
  /-- DIV (R172): Signed truncating division that never traps. -/
  | div (d a b : Reg)
  /-- DIVU (R172): Unsigned division. -/
  | divu (d a b : Reg)
  /-- REM (R172): Signed remainder. -/
  | rem (d a b : Reg)
  /-- REMU (R172): Unsigned remainder. -/
  | remu (d a b : Reg)
  /-- MULW (R172): 32-bit product, sign-extended. -/
  | mulw (d a b : Reg)
  /-- DIVW (R172): 32-bit signed division. -/
  | divw (d a b : Reg)
  /-- DIVUW (R172): 32-bit unsigned division. -/
  | divuw (d a b : Reg)
  /-- REMW (R172): 32-bit signed remainder. -/
  | remw (d a b : Reg)
  /-- REMUW (R172): 32-bit unsigned remainder. -/
  | remuw (d a b : Reg)
  /-- ADDI (R173): Adds a signed immediate. -/
  | addi (d a : Reg) (i : BitVec 14)
  /-- ANDI (R173): Bitwise and with an immediate. -/
  | andi (d a : Reg) (i : BitVec 14)
  /-- ORI (R173): Bitwise or with an immediate. -/
  | ori (d a : Reg) (i : BitVec 14)
  /-- XORI (R173): Bitwise exclusive or with an immediate. -/
  | xori (d a : Reg) (i : BitVec 14)
  /-- SLTI (R173): Sets 1 when the register is less than a signed immediate. -/
  | slti (d a : Reg) (i : BitVec 14)
  /-- SLLI (R173): Shift left by an immediate amount. -/
  | slli (d a : Reg) (n : BitVec 6)
  /-- SRLI (R173): Logical shift right by an immediate amount. -/
  | srli (d a : Reg) (n : BitVec 6)
  /-- SRAI (R173): Arithmetic shift right by an immediate amount. -/
  | srai (d a : Reg) (n : BitVec 6)
  /-- LUI (R173): Loads bits 31:13 of a sign-extended constant. -/
  | lui (d : Reg) (i : BitVec 19)
  /-- AUIPC (R173): Adds an upper constant to the PC. -/
  | auipc (d : Reg) (i : BitVec 19)
  /-- FADD (R174): Scalar FP addition rounded once. -/
  | fadd (d a b : Reg) (r : RM) (t : FT)
  /-- FSUB (R174): Scalar FP subtraction. -/
  | fsub (d a b : Reg) (r : RM) (t : FT)
  /-- FMUL (R174): Scalar FP multiplication. -/
  | fmul (d a b : Reg) (r : RM) (t : FT)
  /-- FDIV (R174): Scalar FP division, interlocked. -/
  | fdiv (d a b : Reg) (r : RM) (t : FT)
  /-- FSQRT (R174): Scalar FP square root, interlocked. -/
  | fsqrt (d a : Reg) (r : RM) (t : FT)
  /-- FMA (R174): Fused multiply-add into xd with one rounding. -/
  | fma (d a b : Reg) (r : RM) (t : FT)
  /-- FMIN (R175): IEEE 754-2019 minimum. -/
  | fmin (d a b : Reg) (t : FT)
  /-- FMAX (R175): IEEE 754-2019 maximum. -/
  | fmax (d a b : Reg) (t : FT)
  /-- FEQ (R175): FP equality compare. -/
  | feq (d a b : Reg) (t : FT)
  /-- FLT (R175): FP less-than compare. -/
  | flt (d a b : Reg) (t : FT)
  /-- FLE (R175): FP less-or-equal compare. -/
  | fle (d a b : Reg) (t : FT)
  /-- FCVT (R176): Converts between scalar FP and integer types. -/
  | fcvt (d a : Reg) (u : NumT) (r : RM) (t : NumT)
  /-- LD (R183): Loads and extends 1, 2, 4 or 8 bytes. -/
  | ld (d a : Reg) (k : LdK) (h : Hint) (o : BitVec 9)
  /-- PF (R184): Prefetches a 128-byte sector without effect on values. -/
  | pf (a : Reg) (h : Hint) (o : BitVec 9)
  /-- ST (R183): Stores 1, 2, 4 or 8 bytes. -/
  | st (s a : Reg) (k : StK) (h : Hint) (o : BitVec 9)
  /-- LD_ACQ (R185): Load that acts as an acquire at a scope and renews at the home on HC memory. -/
  | ldAcq (d a : Reg) (h : Hint) (z : AqZ) (s : Scope)
  /-- ST_REL (R185): Store preceded by a release at a scope. -/
  | stRel (a b : Reg) (h : Hint) (z : AmZ) (s : Scope)
  /-- AMOADD (R186): Atomic wrapping add returning the old value. -/
  | amoadd (d a b : Reg) (h : Hint) (z : AmZ)
  /-- AMOAND (R186): Atomic and. -/
  | amoand (d a b : Reg) (h : Hint) (z : AmZ)
  /-- AMOOR (R186): Atomic or. -/
  | amoor (d a b : Reg) (h : Hint) (z : AmZ)
  /-- AMOXOR (R186): Atomic exclusive or. -/
  | amoxor (d a b : Reg) (h : Hint) (z : AmZ)
  /-- AMOMIN (R186): Atomic signed minimum. -/
  | amomin (d a b : Reg) (h : Hint) (z : AmZ)
  /-- AMOMAX (R186): Atomic signed maximum. -/
  | amomax (d a b : Reg) (h : Hint) (z : AmZ)
  /-- AMOMINU (R186): Atomic unsigned minimum. -/
  | amominu (d a b : Reg) (h : Hint) (z : AmZ)
  /-- AMOMAXU (R186): Atomic unsigned maximum. -/
  | amomaxu (d a b : Reg) (h : Hint) (z : AmZ)
  /-- AMOSWAP (R186): Atomic swap. -/
  | amoswap (d a b : Reg) (h : Hint) (z : AmZ)
  /-- AMOCAS (R186): Atomic compare-and-swap against the old xd. -/
  | amocas (d a b : Reg) (h : Hint) (z : AmZ)
  /-- FAMOADD (R187): Order-sensitive FP atomic add at a core-scratch or floe-shared bank. -/
  | famoadd (d a b : Reg) (h : Hint) (z : FaZ)
  /-- RED_ADD (R189): Reduction store adding exactly at the home's reduction unit. -/
  | redAdd (a b : Reg) (h : Hint) (f : Fmt)
  /-- RED_MIN (R189): Reduction store of the minimum. -/
  | redMin (a b : Reg) (h : Hint) (f : Fmt)
  /-- RED_MAX (R189): Reduction store of the maximum. -/
  | redMax (a b : Reg) (h : Hint) (f : Fmt)
  /-- CWB (R192): Writes back dirty SWC bytes of a range and keeps the copies clean. -/
  | cwb (a b : Reg) (s : Scope)
  /-- CINV (R192): Drops SWC copies of a range and loses their dirty bytes. -/
  | cinv (a b : Reg) (s : Scope)
  /-- CWBINV (R192): Writes back and then drops SWC copies of a range. -/
  | cwbinv (a b : Reg) (s : Scope)
  /-- VLD (R212): Contiguous vector load. -/
  | vld (d a : Reg) (m : Mask) (h : Hint) (z : EW)
  /-- VLDS (R212): Strided vector load. -/
  | vlds (d a b : Reg) (m : Mask) (h : Hint) (z : EW)
  /-- VLDX (R212): Indexed vector load. -/
  | vldx (d a b : Reg) (m : Mask) (h : Hint) (z : EW)
  /-- VLDL (R215): Loads each lane from its own lane slice. -/
  | vldl (d a : Reg) (m : Mask) (h : Hint) (z : EW)
  /-- VST (R212): Contiguous vector store. -/
  | vst (d a : Reg) (m : Mask) (h : Hint) (z : EW)
  /-- VSTS (R212): Strided vector store. -/
  | vsts (d a b : Reg) (m : Mask) (h : Hint) (z : EW)
  /-- VSTX (R212): Indexed vector store. -/
  | vstx (d a b : Reg) (m : Mask) (h : Hint) (z : EW)
  /-- VSTL (R215): Stores each lane into its own lane slice. -/
  | vstl (d a : Reg) (m : Mask) (h : Hint) (z : EW)
  /-- VADD (R221): Element-wise integer addition. -/
  | vadd (d a b : Reg) (m : Mask) (t : IT)
  /-- VSUB (R221): Element-wise integer subtraction. -/
  | vsub (d a b : Reg) (m : Mask) (t : IT)
  /-- VMUL (R221): Element-wise low product. -/
  | vmul (d a b : Reg) (m : Mask) (t : IT)
  /-- VMULH (R221): Element-wise high product. -/
  | vmulh (d a b : Reg) (m : Mask) (t : IT)
  /-- VMIN (R221): Element-wise minimum. -/
  | vmin (d a b : Reg) (m : Mask) (t : IT)
  /-- VMAX (R221): Element-wise maximum. -/
  | vmax (d a b : Reg) (m : Mask) (t : IT)
  /-- VADDS (R221): Saturating addition. -/
  | vadds (d a b : Reg) (m : Mask) (t : IT)
  /-- VSUBS (R221): Saturating subtraction. -/
  | vsubs (d a b : Reg) (m : Mask) (t : IT)
  /-- VAND (R221): Element-wise and. -/
  | vand (d a b : Reg) (m : Mask) (t : IT)
  /-- VOR (R221): Element-wise or. -/
  | vor (d a b : Reg) (m : Mask) (t : IT)
  /-- VXOR (R221): Element-wise exclusive or. -/
  | vxor (d a b : Reg) (m : Mask) (t : IT)
  /-- VSLL (R221): Element-wise shift left. -/
  | vsll (d a b : Reg) (m : Mask) (t : IT)
  /-- VSR (R221): Element-wise shift right, arithmetic for signed types. -/
  | vsr (d a b : Reg) (m : Mask) (t : IT)
  /-- VDIV (R221): Element-wise truncating division. -/
  | vdiv (d a b : Reg) (m : Mask) (t : IT)
  /-- VREM (R221): Element-wise remainder. -/
  | vrem (d a b : Reg) (m : Mask) (t : IT)
  /-- VCEQ (R222): Integer equality compare into an x-register mask. -/
  | vceq (d a b : Reg) (m : Mask) (t : IT)
  /-- VCNE (R222): Integer inequality compare. -/
  | vcne (d a b : Reg) (m : Mask) (t : IT)
  /-- VCLT (R222): Integer less-than compare. -/
  | vclt (d a b : Reg) (m : Mask) (t : IT)
  /-- VCGE (R222): Integer greater-or-equal compare. -/
  | vcge (d a b : Reg) (m : Mask) (t : IT)
  /-- VCLE (R222): Integer less-or-equal compare. -/
  | vcle (d a b : Reg) (m : Mask) (t : IT)
  /-- VCGT (R222): Integer greater-than compare. -/
  | vcgt (d a b : Reg) (m : Mask) (t : IT)
  /-- VFADD (R223): Vector FP addition rounded once. -/
  | vfadd (t : FT) (d a b : Reg) (m : Mask) (r : RM)
  /-- VFSUB (R223): Vector FP subtraction. -/
  | vfsub (t : FT) (d a b : Reg) (m : Mask) (r : RM)
  /-- VFMUL (R223): Vector FP multiplication. -/
  | vfmul (t : FT) (d a b : Reg) (m : Mask) (r : RM)
  /-- VFDIV (R223): Vector FP division. -/
  | vfdiv (t : FT) (d a b : Reg) (m : Mask) (r : RM)
  /-- VFMA (R223): Vector fused multiply-add into vd. -/
  | vfma (t : FT) (d a b : Reg) (m : Mask) (r : RM)
  /-- VFMS (R223): Vector fused multiply-subtract of vd. -/
  | vfms (t : FT) (d a b : Reg) (m : Mask) (r : RM)
  /-- VFNMA (R223): Vector negated multiply plus vd. -/
  | vfnma (t : FT) (d a b : Reg) (m : Mask) (r : RM)
  /-- VFMIN (R224): Vector FP minimum. -/
  | vfmin (t : FT) (d a b : Reg) (m : Mask)
  /-- VFMAX (R224): Vector FP maximum. -/
  | vfmax (t : FT) (d a b : Reg) (m : Mask)
  /-- VFEQ (R224): Vector FP equality compare into a mask. -/
  | vfeq (t : FT) (d a b : Reg) (m : Mask)
  /-- VFLT (R224): Vector FP less-than compare. -/
  | vflt (t : FT) (d a b : Reg) (m : Mask)
  /-- VFLE (R224): Vector FP less-or-equal compare. -/
  | vfle (t : FT) (d a b : Reg) (m : Mask)
  /-- VFUN (R224): Vector unordered compare. -/
  | vfun (t : FT) (d a b : Reg) (m : Mask)
  /-- VFABS (R224): Clears the sign bit of each element. -/
  | vfabs (t : FT) (d a : Reg) (m : Mask)
  /-- VFNEG (R224): Inverts the sign bit of each element. -/
  | vfneg (t : FT) (d a : Reg) (m : Mask)
  /-- VFSQRT (R225): Correctly rounded square root. -/
  | vfsqrt (d a : Reg) (m : Mask) (r : RM) (t : FT)
  /-- VFRCP (R225): Correctly rounded reciprocal. -/
  | vfrcp (d a : Reg) (m : Mask) (r : RM) (t : FT)
  /-- VFRSQRT (R225): Correctly rounded reciprocal square root. -/
  | vfrsqrt (d a : Reg) (m : Mask) (r : RM) (t : FT)
  /-- VFEXP2 (R225): Correctly rounded base-2 exponential. -/
  | vfexp2 (d a : Reg) (m : Mask) (r : RM) (t : FT)
  /-- VFLOG2 (R225): Correctly rounded base-2 logarithm. -/
  | vflog2 (d a : Reg) (m : Mask) (r : RM) (t : FT)
  /-- VFEXP (R225): Correctly rounded natural exponential. -/
  | vfexp (d a : Reg) (m : Mask) (r : RM) (t : FT)
  /-- VFLOG (R225): Correctly rounded natural logarithm. -/
  | vflog (d a : Reg) (m : Mask) (r : RM) (t : FT)
  /-- VFTANH (R225): Correctly rounded hyperbolic tangent. -/
  | vftanh (d a : Reg) (m : Mask) (r : RM) (t : FT)
  /-- VFSIGM (R225): Correctly rounded logistic sigmoid. -/
  | vfsigm (d a : Reg) (m : Mask) (r : RM) (t : FT)
  /-- VFSIN (R225): Correctly rounded sine. -/
  | vfsin (d a : Reg) (m : Mask) (r : RM) (t : FT)
  /-- VFCOS (R225): Correctly rounded cosine. -/
  | vfcos (d a : Reg) (m : Mask) (r : RM) (t : FT)
  /-- VREDSUM (R226): Exact sum of active elements rounded once into element 0. -/
  | vredsum (d a : Reg) (r : RM) (m : Mask) (t : RT)
  /-- VREDMAX (R226): Maximum of active elements into element 0. -/
  | vredmax (d a : Reg) (m : Mask) (t : RT)
  /-- VREDMIN (R226): Minimum of active elements into element 0. -/
  | vredmin (d a : Reg) (m : Mask) (t : RT)
  /-- VSCAN (R226): Inclusive exact prefix reduction. -/
  | vscan (d a : Reg) (r : RM) (m : Mask) (t : RT)
  /-- VSCANX (R226): Exclusive exact prefix reduction. -/
  | vscanx (d a : Reg) (r : RM) (m : Mask) (t : RT)
  /-- VSGSUM (R227): Exact sum of each of up to eight lane groups. -/
  | vsgsum (d a b : Reg) (m : Mask) (t : RT)
  /-- VSGMAX (R227): Maximum of each lane group. -/
  | vsgmax (d a b : Reg) (m : Mask) (t : RT)
  /-- VSGMIN (R227): Minimum of each lane group. -/
  | vsgmin (d a b : Reg) (m : Mask) (t : RT)
  /-- VSGSCAN (R227): Inclusive exact scan within each lane group. -/
  | vsgscan (d a b : Reg) (m : Mask) (t : RT)
  /-- VSGBCAST (R227): Broadcasts element g of va to each member of group g. -/
  | vsgbcast (d a b : Reg) (m : Mask) (t : RT)
  /-- VSGREFILL (R227): Slides each group's window by one and appends element g of va. -/
  | vsgrefill (d a b : Reg) (t : RT)
  /-- VPERM (R228): Permutes elements by an index vector. -/
  | vperm (d a b : Reg) (m : Mask) (z : EW)
  /-- VSLIDEUP (R228): Slides elements up by a register count. -/
  | vslideup (d a b : Reg) (m : Mask) (z : EW)
  /-- VSLIDEDN (R228): Slides elements down by a register count. -/
  | vslidedn (d a b : Reg) (m : Mask) (z : EW)
  /-- VBCAST (R228): Broadcasts a scalar register to every element. -/
  | vbcast (d a : Reg) (m : Mask) (z : EW)
  /-- VMVXV (R228): Moves one element into a scalar register. -/
  | vmvxv (d a b : Reg) (z : EW)
  /-- VMVVX (R228): Moves a scalar register into one element. -/
  | vmvvx (d a b : Reg) (z : EW)
  /-- VID (R228): Writes each element's index. -/
  | vid (d : Reg) (m : Mask) (z : EW)
  /-- VSEL (R228): Selects elements from two registers by mask. -/
  | vsel (d a b : Reg) (m : Mask) (z : EW)
  /-- VCVT (R229): Converts elements between listed format pairs. -/
  | vcvt (d a : Reg) (e : Fmt) (r : RM) (m : Mask) (s : Fmt)
  /-- VCVT_NSAT (R230): Converts to E4M3 with the non-saturating overflow results. -/
  | vcvtNsat (d a : Reg) (r : RM) (m : Mask) (s : Fmt)
  /-- VMXCVT (R231): Converts FP32 to an MX element format using block scales. -/
  | vmxcvt (d a b : Reg) (m : Mask) (f : Fmt)
  /-- VMXEXT (R231): Expands MX elements with their block scales to FP32. -/
  | vmxext (d a b : Reg) (m : Mask) (f : Fmt)
  /-- VQCVT (R232): Quantises FP32 using the rime record's scale snapshot, trapping RESCALE when enabled. -/
  | vqcvt (d a b : Reg) (m : Mask) (f : Fmt)
  /-- VQGEXT (R231): Expands QG codes with their side entries to FP32. -/
  | vqgext (d a b : Reg) (m : Mask) (f : Fmt)
  /-- VWID4_I8_I4 (R233): Sign-extends packed 4-bit integers to 8 bits. -/
  | vwid4I8I4 (d a : Reg) (m : Mask)
  /-- VWID4_N8_N4 (R233): Zero-extends packed 4-bit integers to 8 bits. -/
  | vwid4N8N4 (d a : Reg) (m : Mask)
  /-- VNAR4_I4_I8 (R233): Narrows signed 8-bit integers to 4 bits with saturation. -/
  | vnar4I4I8 (d a : Reg) (m : Mask)
  /-- VNAR4_N4_N8 (R233): Narrows unsigned 8-bit integers to 4 bits with saturation. -/
  | vnar4N4N8 (d a : Reg) (m : Mask)
  /-- VCLAIM (R210): Claims or releases lane granules from the floe pool and returns the new claim. -/
  | vclaim (d a : Reg)
  /-- VSBIND_RD (R217): Binds a port register to a stream descriptor for reading. -/
  | vsbindRd (n : Fin 8) (a : Reg)
  /-- VSBIND_WR (R217): Binds a port register to a stream descriptor for writing. -/
  | vsbindWr (n : Fin 8) (a : Reg)
  /-- VSUNBIND (R220): Ends a port's binding, performing pushes and writing the descriptor status. -/
  | vsunbind (n : Fin 8)
  /-- MX_CFG (R238): Writes MXSHAPE or MXDSTR. -/
  | mxCfg (a : Reg) (k : Fin 8)
  /-- MX_TASK (R242): Checks and queues up to 64 tile-task records, claiming ring tiles. -/
  | mxTask (a b d : Reg)
  /-- MX_WAIT (R244): Waits for the slot's earlier tasks on masked accumulators, trapping ENGINE on a recorded failure. -/
  | mxWait (a d : Reg)
  /-- MX_ZERO (R244): Queues a zeroing task for each masked accumulator tile. -/
  | mxZero (a d : Reg)
  /-- RING_CFG (R245): Configures a ring once no task or fill uses it. -/
  | ringCfg (a : Reg) (n : Fin 16)
  /-- RING_ST (R245): Returns a ring's state word. -/
  | ringSt (n : Fin 16) (d : Reg)
  /-- RING_RESET (R245): Resets a ring's counts or returns BUSY. -/
  | ringReset (n : Fin 16) (d : Reg)
  /-- CP_GO (R247): Snapshots the slot's copy registers and queues a copy command. -/
  | cpGo (a b : Reg)
  /-- CP_SET (R246): Writes a copy register. -/
  | cpSet (a : Reg) (k : Fin 8)
  /-- CP_GET (R246): Reads a copy register, including CPSTAT. -/
  | cpGet (d : Reg) (k : Fin 8)
  /-- CP_WAIT (R248): Waits for the slot's earlier copies and reports STALEPHASE or traps ENGINE. -/
  | cpWait (d : Reg)
  /-- BAR_INIT (R252): Re-initialises a barrier without waiters to a new incarnation. -/
  | barInit (a b d : Reg)
  /-- BAR_INIT_F (R252): Re-initialises a barrier after releasing its waiters with BROKEN. -/
  | barInitF (a b d : Reg)
  /-- BAR_ARR (R251): Makes one arrival at a barrier phase without waiting. -/
  | barArr (a b d : Reg)
  /-- BAR_WAIT (R252): Waits for a barrier phase to complete or for the barrier to break. -/
  | barWait (a b d : Reg)
  /-- BAR_ARRW (R252): Arrives at a barrier phase and waits for it as one operation. -/
  | barArrw (a b d : Reg)
  /-- BAR_KILL (R252): Breaks a barrier, releasing waiters with BROKEN. -/
  | barKill (a d : Reg)
  /-- BAR_RD (R250): Returns a barrier's state. -/
  | barRd (a d : Reg)
  /-- EV_WAIT (R197): Clock-gates the slot until the named line's next firing. -/
  | evWait (a : Reg)
  /-- EV_FIRE (R254): Fires an event line or arrives at a barrier line. -/
  | evFire (a : Reg)
  /-- MTX_LOCK (R255): Takes a mutex or waits in arrival order for it. -/
  | mtxLock (a d : Reg)
  /-- MTX_TRY (R255): Takes a free mutex or returns BUSY. -/
  | mtxTry (a d : Reg)
  /-- MTX_UNLOCK (R255): Passes a held mutex to the oldest request or frees it. -/
  | mtxUnlock (a d : Reg)
  /-- CNT_INIT (R256): Sets a counter's value and makes waiters re-test. -/
  | cntInit (a b d : Reg)
  /-- CNT_ADD (R256): Adds to a counter, returning the old value. -/
  | cntAdd (a b d : Reg)
  /-- CNT_RD (R256): Returns a counter's value. -/
  | cntRd (a d : Reg)
  /-- CNT_WAIT (R256): Waits until a counter reaches a threshold. -/
  | cntWait (a b d : Reg)
  /-- GBAR (R257): Arrives at the launch's global barrier and waits for the phase. -/
  | gbar (a d : Reg)
  /-- BAR_ALLOC (R249): Allocates a barrier object and returns its handle. -/
  | barAlloc (a d : Reg)
  /-- CNT_ALLOC (R249): Allocates a counter object. -/
  | cntAlloc (a d : Reg)
  /-- MTX_ALLOC (R249): Allocates a mutex object. -/
  | mtxAlloc (d : Reg)
  /-- BAR_FREE (R249): Frees a barrier object or returns BUSY. -/
  | barFree (a d : Reg)
  /-- CNT_FREE (R249): Frees a counter object or returns BUSY. -/
  | cntFree (a d : Reg)
  /-- MTX_FREE (R249): Frees a mutex object or returns BUSY. -/
  | mtxFree (a d : Reg)
  /-- RIME_ALLOC (R259): Allocates a rime record from a descriptor word. -/
  | rimeAlloc (a d : Reg)
  /-- RIME_FREE (R261): Frees an unbound rime record. -/
  | rimeFree (a d : Reg)
  /-- RIME_BIND (R260): Binds a record to a 64 KiB-aligned range in every die's table. -/
  | rimeBind (a b d : Reg)
  /-- RIME_UNBIND (R260): Removes a binding after every die has folded it. -/
  | rimeUnbind (a b d : Reg)
  /-- RIME_SYNC (R133): Waits for every die to fold visible contributions and takes the scale snapshot. -/
  | rimeSync (a d : Reg)
  /-- RIME_RD (R261): Reads 8 bytes of a record or its snapshot. -/
  | rimeRd (a b d : Reg)
  /-- RIME_CLR (R261): Zeroes a record's statistics and every die's partial. -/
  | rimeClr (a d : Reg)
  /-- COLL_GO (R273): Starts a collective parameter block. -/
  | collGo (a d : Reg)
  /-- COLL_WAIT (R275): Waits for a collective block and returns its status. -/
  | collWait (a d : Reg)
  /-- COLL_WAIT_MC (R275): Waits for a multicast load-and-reduce descriptor and returns its status. -/
  | collWaitMc (a d : Reg)
  /-- COLL_ABORT (R276): Asks the expander to end an in-flight block. -/
  | collAbort (a d : Reg)
  /-- COLL_STX (R273): Starts a stitch-exchange block with a stitch map. -/
  | collStx (a b d : Reg)
  /-- COLL_REQ (R265): Appends a request word to the floe mailbox. -/
  | collReq (a d : Reg)
  /-- COLL_TAKE (R266): Takes the oldest mailbox entry of the launch, waiting if none. -/
  | collTake (d : Reg)
  /-- GRP_SET (R267): Installs an address group and reports it to the coordinating expander. -/
  | grpSet (a b d : Reg)
  /-- GRP_CLR (R268): Empties an address group. -/
  | grpClr (a d : Reg)
  /-- MC_LDRED (R281): Starts a multicast load-and-reduce over a group's members. -/
  | mcLdred (a d : Reg)
  /-- AUC_RUN (R283): Checks and queues a router run block. -/
  | aucRun (a d : Reg)
  /-- AUC_WAIT (R285): Waits for a router run and returns its status. -/
  | aucWait (a d : Reg)
  /-- AUC_PSET (R286): Writes price registers of the tenant's bank from memory. -/
  | aucPset (a b d : Reg)
  /-- AUC_PGET (R286): Writes price registers of the bank to memory. -/
  | aucPget (a b d : Reg)
  /-- AUC_PCLR (R286): Clears all price registers of a bank. -/
  | aucPclr (a d : Reg)
  /-- EXIT (R196): Ends the thread without writing a record and frees its slot, releasing its lane claim, pin and pending port pushes first. -/
  | exit
  /-- YIELD (R196): Writes the thread's continuation record to the tail of a ready pool and frees the slot, or does nothing when every pool is full. -/
  | yield
  /-- BRK (R198): Traps BREAK. -/
  | brk
  /-- FENCE_ACQ (R97): Acquiring fence at a scope, so that later loads do not hit stale SWC copies and HC loads renew. -/
  | fenceAcqCore
  /-- FENCE_ACQ (R97): Acquiring fence at a scope, so that later loads do not hit stale SWC copies and HC loads renew. -/
  | fenceAcqFloe
  /-- FENCE_ACQ (R97): Acquiring fence at a scope, so that later loads do not hit stale SWC copies and HC loads renew. -/
  | fenceAcqDie
  /-- FENCE_ACQ (R97): Acquiring fence at a scope, so that later loads do not hit stale SWC copies and HC loads renew. -/
  | fenceAcqPkg
  /-- FENCE_ACQ (R97): Acquiring fence at a scope, so that later loads do not hit stale SWC copies and HC loads renew. -/
  | fenceAcqSys
  /-- FENCE_REL (R97): Releasing fence that writes back dirty SWC bytes to the scope's common point before later stores. -/
  | fenceRelCore
  /-- FENCE_REL (R97): Releasing fence that writes back dirty SWC bytes to the scope's common point before later stores. -/
  | fenceRelFloe
  /-- FENCE_REL (R97): Releasing fence that writes back dirty SWC bytes to the scope's common point before later stores. -/
  | fenceRelDie
  /-- FENCE_REL (R97): Releasing fence that writes back dirty SWC bytes to the scope's common point before later stores. -/
  | fenceRelPkg
  /-- FENCE_REL (R97): Releasing fence that writes back dirty SWC bytes to the scope's common point before later stores. -/
  | fenceRelSys
  /-- FENCE_SC (R97): Full fence combining acquire and release and ordering every earlier access before every later one. -/
  | fenceScCore
  /-- FENCE_SC (R97): Full fence combining acquire and release and ordering every earlier access before every later one. -/
  | fenceScFloe
  /-- FENCE_SC (R97): Full fence combining acquire and release and ordering every earlier access before every later one. -/
  | fenceScDie
  /-- FENCE_SC (R97): Full fence combining acquire and release and ordering every earlier access before every later one. -/
  | fenceScPkg
  /-- FENCE_SC (R97): Full fence combining acquire and release and ordering every earlier access before every later one. -/
  | fenceScSys
  /-- LUNPIN (R182): Ends the slot's loop-buffer pin. -/
  | lunpin
  /-- VFREE (R211): Releases every granule and ends every stream binding. -/
  | vfree
  /-- POWER_ON (R332): Power-up starts the boot ROM, which brings up the link with BAR0 and BAR2 and waits for an image. -/
  | powerOn
  /-- BOOTLEN (R332): Host write of the image length is the boot doorbell that starts verification. -/
  | bootlen
  /-- IMAGE_VERIFICATION (R332): End of LMS verification runs Chirnaore on success or records the error in BOOTSTAT and waits again. -/
  | imageVerification
  /-- DEVICE_RESET (R383): Conventional reset, function-level reset or power loss resets the whole device and ends every launch. -/
  | deviceReset
  /-- HOST_LINK_DOWN (R383): Host link loss halts host-memory rings on their next read and drops unsendable MSI-X messages. -/
  | hostLinkDown
  /-- HOST_LINK_UP (R383): Host link returns with BARs and device state unchanged. -/
  | hostLinkUp
  /-- HOST_WRITE (R324): Host or peer write through the aperture, translated, checked and performed at the home. -/
  | hostWrite
  /-- HOST_READ (R324): Host or peer read through the aperture, returning the latest version or a completer abort. -/
  | hostRead
  /-- RINGTAIL (R326): Host write of a ring's tail is the doorbell that lets the device read whole packets. -/
  | ringtail
  /-- RING_ENABLE (R326): RINGCFG write with en = 1 on a disabled ring sets its fields and enables it. -/
  | ringEnable
  /-- RING_DISABLE (R382): RINGCFG write with en = 0 disables the ring, zeroing head, tail, halt and the error record. -/
  | ringDisable
  /-- REGISTER_WRITE (R325): Host write to a BAR0 register that has no row of its own. -/
  | registerWrite
  /-- CKPTCTL_GO (R335): Writing go starts a checkpoint that stops launches, pre-empts them and writes back caches. -/
  | ckptctlGo
  /-- CHECKPOINT_COMPLETE (R335): End of the memory stream records the checkpoint status and restores the launches. -/
  | checkpointComplete
  /-- REPLAYGO (R340): Writing REPLAYGO starts a replay session from the descriptor. -/
  | replaygo
  /-- REPLAY_PASS_END (R340): End of a replay pass records counts and signatures and restores state for the next pass or writes the result. -/
  | replayPassEnd
  /-- ATTGO (R334): Writing ATTGO requests a signed attestation report. -/
  | attgo
  /-- ATTESTATION_REPORT (R334): Chirnaore writes the signed report and sets ATTSTAT. -/
  | attestationReport
  /-- DEBUG_HALT (R337): Halts every slot of the core at an instruction boundary. -/
  | debugHalt
  /-- DEBUG_RESUME (R336): Releases the core's halt and disarms a thread step. -/
  | debugResume
  /-- DEBUG_STEP (R350): Runs one instruction of sslot on a halted core, or arms a thread step on a running one. -/
  | debugStep
  /-- DEBUG_STEP_DONE (R337): After the stepped instruction's asynchronous operations drain, reports why = 4 or traps STEP. -/
  | debugStepDone
  /-- LAUNCH (R330): A launch packet is read and checked, halting the ring if malformed. -/
  | launch
  /-- WAIT_ON_OBJECT (R328): A wait-on-object packet holds its ring as a waiter of a barrier or counter. -/
  | waitOnObject
  /-- SIGNAL_ARRIVAL (R328): A signal packet makes a barrier arrival at the object's current incarnation. -/
  | signalArrival
  /-- SIGNAL_CNT_ADD (R328): A signal packet adds its value to a counter. -/
  | signalCntAdd
  /-- ROUTER_CONFIG_SET (R328): A router configuration packet sets bank prices from memory. -/
  | routerConfigSet
  /-- ROUTER_CONFIG_GET (R328): A router configuration packet writes bank prices to memory. -/
  | routerConfigGet
  /-- ROUTER_CONFIG_CLEAR (R328): A router configuration packet clears a bank. -/
  | routerConfigClear
  /-- TIME_STEP (R384): A time packet steps ptime by a signed offset, freezing it on a negative step. -/
  | timeStep
  /-- TIME_SLEW (R328): A time packet slews ptime at 1 ns per µs. -/
  | timeSlew
  /-- CHANGE_ATTRIBUTE (R76): A memory-management request changes a range's attribute by mark, flush, shoot-down and install. -/
  | changeAttribute
  /-- COMPRESS (R82): A memory-management request compresses present pages of a range into the firn zone. -/
  | compress
  /-- SHOOT_DOWN (R83): A memory-management request performs a shoot-down of a range. -/
  | shootDown
  /-- MM_REQUEST_COMPLETE (R329): Chirnaore writes a memory-management request's completion record and frees its entry. -/
  | mmRequestComplete
  /-- SHOOTDOWN_COMPLETE (R83): Every PLB and translation cache has dropped the range and waiting accesses are withdrawn. -/
  | shootdownComplete
  /-- LAUNCH_ACCEPT (R32): A well-formed launch enters the launch table when an entry is free and gets a launch id. -/
  | launchAccept
  /-- LAUNCH_START (R33): An accepted launch starts its threads once its start time passes and slots are free. -/
  | launchStart
  /-- LAUNCH_COMPLETE (R35): A launch with no threads, records or on-die work completes, writes its record and frees its entry. -/
  | launchComplete
  /-- PREEMPTION (R53): The launch processor stops every slot of a lower-priority launch so that a due launch can start. -/
  | preemption
  /-- PREEMPTION_SAVE (R54): Once the launch's engine work can no longer progress, hardware writes the save area and frees slots and granules. -/
  | preemptionSave
  /-- RESTORE (R56): A pre-empted launch is reloaded on its rectangle, replays its log and resumes. -/
  | restore
  /-- RECORD_TAKE_UP (R49): An idle slot takes up an eligible continuation record. -/
  | recordTakeUp
  /-- FLOE_POOL_MIGRATION (R48): A record that has waited 4,096 cycles in a floe pool moves to its die pool. -/
  | floePoolMigration
  /-- PAUSE_EXPIRE (R42): A slot's pause count runs out. -/
  | pauseExpire
  /-- STALL_COUNT_EXPIRE (R39): The stall count of a slot's previous instruction runs out. -/
  | stallCountExpire
  /-- RESULT_LAND (R139): A fixed-latency result becomes readable L cycles after issue. -/
  | resultLand
  /-- PTS_TICK (R85): A slot's pts advances by 1 every 64 island cycles. -/
  | ptsTick
  /-- WAKEUP_MESSAGE (R43): A wake-up message reaches a floe and readies its gated slot. -/
  | wakeupMessage
  /-- XSTAT_GO (R200): A CSR write setting xstat.go returns from the handler. -/
  | xstatGo
  /-- WALK_COMPLETE (R351): A page-table walk ends, letting the access proceed or trapping PAGE. -/
  | walkComplete
  /-- EXPANSION_COMPLETE (R82): A firn-zone expansion installs the page or gives up, trapping PAGE with reason 1. -/
  | expansionComplete
  /-- RIME_FOLD (R131): A die folds its partial into the record within the fold window. -/
  | rimeFold
  /-- COPY_START (R247): The copy engine takes the next queued command, checks it and moves its data. -/
  | copyStart
  /-- COPY_RING_TILE (R247): A ring-fill tile is written once the ring has room and advances the tail. -/
  | copyRingTile
  /-- COPY_COMPLETE (R248): A copy command ends and makes its completion arrival or records its failure. -/
  | copyComplete
  /-- STREAM_FETCH (R218): The copy engine fetches a read-port vector as an engine operation. -/
  | streamFetch
  /-- STREAM_PUSH_WRITE (R218): The copy engine writes a pushed vector of a write port. -/
  | streamPushWrite
  /-- TASK_DISPATCH (R289): The scheduler binds eligible tasks to free engines and the drain path. -/
  | taskDispatch
  /-- LIMITER_STEP (R297): Every four cycles the limiter deals quarters to engines and adds filler. -/
  | limiterStep
  /-- TASK_RETIRE (R293): A multiply-accumulate task retires when its work is done, freeing its engine. -/
  | taskRetire
  /-- DRAIN_RETIRE (R294): A drain retires once its last write is performed at its home. -/
  | drainRetire
  /-- ZERO_TASK_RETIRE (R294): A zeroing task writes +0 to its tile and retires after 16 cycles. -/
  | zeroTaskRetire
  /-- OBJECT_MIGRATION (R360): The synchronisation engine moves an object between SRAM and the overflow area. -/
  | objectMigration
  /-- BLOCK_FORWARD (R300): A member's accepted block reaches the coordinating expander and is matched. -/
  | blockForward
  /-- GROUP_REPORT (R389): A group installation or clear reaches the coordinating expander and is recorded in a generation. -/
  | groupReport
  /-- BLOCK_ADMIT (R301): The coordinating expander admits the next block of a group once the previous one has ended. -/
  | blockAdmit
  /-- PLAN_RESERVATION (R306): A plan holds every buffer and accumulator window and starts moving data. -/
  | planReservation
  /-- COLLECTIVE_STEP (R302): A packet of a plan's step is received and merged or forwarded. -/
  | collectiveStep
  /-- SLOT_FREE_NOTICE (R307): A slot-free notice returns a credit to the previous stage. -/
  | slotFreeNotice
  /-- REDUCTION_WINDOW_COMPLETE (R304): Every member has contributed to a window, and the reduction point rounds and sends the results. -/
  | reductionWindowComplete
  /-- CHUNK_DELIVERY (R274): A chunk with final values is written, its bitmap bit set and cdone raised. -/
  | chunkDelivery
  /-- COLLECTIVE_DECIDED (R378): Once every rank is decided, each rank writes its status and global record. -/
  | collectiveDecided
  /-- COLLECTIVE_TIMEOUT (R378): A block's tmo elapses and decides its rank TIMEOUT. -/
  | collectiveTimeout
  /-- ABORT_WORD (R378): Word of coll.abort reaches a rank's expander and decides it ABORTED. -/
  | abortWord
  /-- MEMBER_LOSS_WORD (R376): Word of a member's loss settles each surviving rank's block. -/
  | memberLossWord
  /-- FLIT_RECEIVE (R373): A received flit is checked by CRC and discarded with a retry request when bad. -/
  | flitReceive
  /-- RETRY_REQUEST (R373): The sender replays from the requested sequence number. -/
  | retryRequest
  /-- ACK_TIMEOUT (R373): No acknowledgement within 10 µs makes the link retrain. -/
  | ackTimeout
  /-- LINK_RETRAIN_DONE (R373): Retraining ends, restoring the link or taking the port down and re-planning. -/
  | linkRetrainDone
  /-- NODE_LOST (R374): Every route to a node has been down 50 µs, so the node is marked lost. -/
  | nodeLost
  /-- NODE_LEAVE (R374): A node's expander announces that it is leaving, and it is marked lost. -/
  | nodeLeave
  /-- NODE_READMIT (R374): A port retrains to a lost node and Chirnaore re-admits it. -/
  | nodeReadmit
  /-- RUN_BEGIN (R283): A queued router run checks its addresses, reads its scores and starts round 1. -/
  | runBegin
  /-- BIDDING_ROUND (R315): A router round collects bids and lets experts keep their best. -/
  | biddingRound
  /-- ROUTER_COMPLETION (R318): Completion at the limit places every unassigned token-copy. -/
  | routerCompletion
  /-- ROUTER_RUN_END (R284): The router writes asg and rows, stores normalised prices and writes the status. -/
  | routerRunEnd
  /-- TIME_REFERENCE_LOST (R384): Loss of the 1588 reference puts the time unit into holdover. -/
  | timeReferenceLost
  /-- TIME_RELOCK (R384): The time unit re-locks and slews the offset away. -/
  | timeRelock
  /-- SCRUB (R366): Chirnaore scrubs memory, correcting single-bit errors. -/
  | scrub
  /-- ILLEGAL_INSTRUCTION (R165): A fetched word whose major, func, sub-field or must-be-zero field names no instruction of the kernel's encoding version traps ILLEGAL with the word in xval. -/
  | illegalInstruction
  /-- PEER_PACKAGE_ACCESS (R98): A load, store, atomic, reduction store or write-back from another package arrives over the fabric and is performed at this package's home, with atomics in sequencer ticket order. -/
  | peerPackageAccess
  /-- TENANT_RECONFIGURATION (R364): Chirnaore configures, reconfigures or removes a tenant's table entry, freeing its objects, records and bindings, clearing its four price banks and refilling the host rights entry. -/
  | tenantReconfiguration
  /-- NEGATIVE_STEP_ABSORBED (R384): After a negative time step, the stepped time passes the frozen ptime value, so every core's ptime resumes and TIMESTAT.frz clears. -/
  | negativeStepAbsorbed
  /-- ISLAND_POWER_GATING (R83): Power management changes an island's clock or power-gates or ungates its cores, after which a power-gated core's PLB counts as empty. -/
  | islandPowerGating
  /-- BOOT_STAGING_WRITE (R323): A host write into BAR2 stores image bytes in the boot staging SRAM before Chirnaore runs, and is refused once BAR2 has become read-only. -/
  | bootStagingWrite
  deriving DecidableEq, Repr

/-- A decoded instruction word: the stall count W of bits [31:30] (R136, R142) and the instruction. -/
structure Word32 where
  w : Fin 4
  instr : Instr
  deriving DecidableEq, Repr

end Sys2Proof
end

