-- ==== Sys2Proof/WellFormed.lean ====
section
/-! DEFINITION. The limits that an instruction must keep beyond its fields' own ranges: the encoding cases of R165
that a word's fields can still break, and the differences between the encoding versions (R167). -/

namespace Sys2Proof

/-- Whether a scalar conversion type is an integer type (R148). -/
def NumT.isInt : NumT → Bool
  | .f64 | .f32 | .f16 | .bf16 => false
  | .i64 | .n64 | .i32 | .n32 => true

/-- Whether a reduction type is floating point (R156, R226). -/
def RT.isFp : RT → Bool
  | .f64 | .f32 | .f16 | .bf16 => true
  | .i32 | .n32 | .i64 | .n64 => false

/-- The four wide floating-point formats (R229). -/
def Fmt.isWide : Fmt → Bool
  | .fp64 | .fp32 | .fp16 | .bf16 => true
  | _ => false

/-- The formats of codes 4 to 8: E4M3 to E2M1 (R159). -/
def Fmt.isNarrow : Fmt → Bool
  | .e4m3 | .e5m2 | .e3m2 | .e2m3 | .e2m1 => true
  | _ => false

/-- The formats of reduction stores: codes 0 to 3 and 11 to 13 (R151). -/
def Fmt.isRed : Fmt → Bool
  | .fp64 | .fp32 | .fp16 | .bf16 | .i8 | .i16 | .i32 => true
  | _ => false

/-- Whether `vcvt` lists a pair of source and destination (R229). -/
def cvtPair (dst src : Fmt) : Bool :=
  (src.isWide && (dst.isWide || dst.isNarrow || dst = .i8 || dst = .i16 || dst = .i32 || dst = .e8m0)) ||
  (dst.isWide && (src.isNarrow || src = .i8 || src = .i16 || src = .i32 || src = .e8m0))

/-- The limits of one form, whatever the encoding version (R145, R148, R151, R157 to R159, R165). -/
def formOk : Instr → Bool
  | .rep _ n => n.toNat ≠ 0
  | .lpin n => 1 ≤ n.toNat && n.toNat ≤ 128
  | .fcvt _ _ u _ t => !(t.isInt && u.isInt)
  | .redAdd _ _ _ f => f.isRed
  | .redMin _ _ _ f => f.isRed
  | .redMax _ _ _ f => f.isRed
  | .vldx _ _ _ _ _ z => z = .w32 || z = .w64
  | .vstx _ _ _ _ _ z => z = .w32 || z = .w64
  | .vredsum _ _ r _ t => t.isFp || r = .rne
  | .vscan _ _ r _ t => t.isFp || r = .rne
  | .vscanx _ _ r _ t => t.isFp || r = .rne
  | .vsel _ _ _ m _ => m ≠ 0
  | .vcvt _ _ e _ _ s => cvtPair e s
  | .vcvtNsat _ _ _ _ s => s.isWide
  | .vmxcvt _ _ _ _ f => f.isNarrow
  | .vmxext _ _ _ _ f => f.isNarrow
  | .vqcvt _ _ _ _ f => f.isNarrow || f = .i8
  | .vqgext _ _ _ _ f => f = .qg8 || f = .qg4
  | .mxCfg _ k => k.val < 2
  | .cpSet _ k => k.val < 7
  | _ => true

/-- Whether the form is one that only encoding version 3 has: majors 0x3B and 0x3D, and ops 2 and 3 of major 0x2E
(R167). Format codes 9 and 10 occur in no other form. -/
def onlyV3 : Instr → Bool
  | .vqcvt .. | .vqgext .. | .vwid4I8I4 .. | .vwid4N8N4 .. | .vnar4I4I8 .. | .vnar4N4N8 .. => true
  | .rimeAlloc .. | .rimeFree .. | .rimeBind .. | .rimeUnbind .. | .rimeSync .. | .rimeRd .. | .rimeClr .. => true
  | .aucRun .. | .aucWait .. | .aucPset .. | .aucPget .. | .aucPclr .. => true
  | _ => false

/-- Whether a constructor of `Instr` is an instruction with a word (R136), not a step of another agent. -/
def Instr.isWord : Instr → Bool
  | .powerOn => false
  | .bootlen => false
  | .imageVerification => false
  | .deviceReset => false
  | .hostLinkDown => false
  | .hostLinkUp => false
  | .hostWrite => false
  | .hostRead => false
  | .ringtail => false
  | .ringEnable => false
  | .ringDisable => false
  | .registerWrite => false
  | .ckptctlGo => false
  | .checkpointComplete => false
  | .replaygo => false
  | .replayPassEnd => false
  | .attgo => false
  | .attestationReport => false
  | .debugHalt => false
  | .debugResume => false
  | .debugStep => false
  | .debugStepDone => false
  | .launch => false
  | .waitOnObject => false
  | .signalArrival => false
  | .signalCntAdd => false
  | .routerConfigSet => false
  | .routerConfigGet => false
  | .routerConfigClear => false
  | .timeStep => false
  | .timeSlew => false
  | .changeAttribute => false
  | .compress => false
  | .shootDown => false
  | .mmRequestComplete => false
  | .shootdownComplete => false
  | .launchAccept => false
  | .launchStart => false
  | .launchComplete => false
  | .preemption => false
  | .preemptionSave => false
  | .restore => false
  | .recordTakeUp => false
  | .floePoolMigration => false
  | .pauseExpire => false
  | .stallCountExpire => false
  | .resultLand => false
  | .ptsTick => false
  | .wakeupMessage => false
  | .xstatGo => false
  | .walkComplete => false
  | .expansionComplete => false
  | .rimeFold => false
  | .copyStart => false
  | .copyRingTile => false
  | .copyComplete => false
  | .streamFetch => false
  | .streamPushWrite => false
  | .taskDispatch => false
  | .limiterStep => false
  | .taskRetire => false
  | .drainRetire => false
  | .zeroTaskRetire => false
  | .objectMigration => false
  | .blockForward => false
  | .groupReport => false
  | .blockAdmit => false
  | .planReservation => false
  | .collectiveStep => false
  | .slotFreeNotice => false
  | .reductionWindowComplete => false
  | .chunkDelivery => false
  | .collectiveDecided => false
  | .collectiveTimeout => false
  | .abortWord => false
  | .memberLossWord => false
  | .flitReceive => false
  | .retryRequest => false
  | .ackTimeout => false
  | .linkRetrainDone => false
  | .nodeLost => false
  | .nodeLeave => false
  | .nodeReadmit => false
  | .runBegin => false
  | .biddingRound => false
  | .routerCompletion => false
  | .routerRunEnd => false
  | .timeReferenceLost => false
  | .timeRelock => false
  | .scrub => false
  | .illegalInstruction => false
  | .peerPackageAccess => false
  | .tenantReconfiguration => false
  | .negativeStepAbsorbed => false
  | .islandPowerGating => false
  | .bootStagingWrite => false
  | _ => true

/-- A word is well formed for an encoding version (R165, R167): its form keeps its limits, version 1 has no
stall field, and versions 1 and 2 lack the forms of version 3. -/
def wellFormed (ver : Nat) (x : Word32) : Bool :=
  formOk x.instr && (ver ≠ 1 || x.w.val = 0) && (3 ≤ ver || !onlyV3 x.instr)

end Sys2Proof
end

