-- ==== Sys2Proof/Decode.lean ====
section
/-! DEFINITION. The decoder, total on every word, and the encoder, both written from the encoding tables R136 to R168.
A word is read as a natural number below 2^32 with bit 0 its least significant bit (R136). -/

namespace Sys2Proof

set_option linter.unusedVariables false

/-- The code of a RM (R138). -/
def RM.code : RM → Nat
  | .rne => 0
  | .rz => 1
  | .rdn => 2
  | .rup => 3
  | .sr => 4
  | .dyn => 7

/-- The RM of a code, none for a reserved code (R138). -/
def RM.ofCode : Nat → Option RM
  | 0 => some .rne
  | 1 => some .rz
  | 2 => some .rdn
  | 3 => some .rup
  | 4 => some .sr
  | 7 => some .dyn
  | _ => none

theorem RM.ofCode_code (x : RM) : RM.ofCode x.code = some x := by cases x <;> rfl

/-- The code of a FT (R148). -/
def FT.code : FT → Nat
  | .f64 => 0
  | .f32 => 1
  | .f16 => 2
  | .bf16 => 3

/-- The FT of a code, none for a reserved code (R148). -/
def FT.ofCode : Nat → Option FT
  | 0 => some .f64
  | 1 => some .f32
  | 2 => some .f16
  | 3 => some .bf16
  | _ => none

theorem FT.ofCode_code (x : FT) : FT.ofCode x.code = some x := by cases x <;> rfl

/-- The code of a NumT (R148). -/
def NumT.code : NumT → Nat
  | .f64 => 0
  | .f32 => 1
  | .f16 => 2
  | .bf16 => 3
  | .i64 => 4
  | .n64 => 5
  | .i32 => 6
  | .n32 => 7

/-- The NumT of a code, none for a reserved code (R148). -/
def NumT.ofCode : Nat → Option NumT
  | 0 => some .f64
  | 1 => some .f32
  | 2 => some .f16
  | 3 => some .bf16
  | 4 => some .i64
  | 5 => some .n64
  | 6 => some .i32
  | 7 => some .n32
  | _ => none

theorem NumT.ofCode_code (x : NumT) : NumT.ofCode x.code = some x := by cases x <;> rfl

/-- The code of a IT (R153). -/
def IT.code : IT → Nat
  | .i8 => 0
  | .i16 => 1
  | .i32 => 2
  | .i64 => 3
  | .n8 => 4
  | .n16 => 5
  | .n32 => 6
  | .n64 => 7

/-- The IT of a code, none for a reserved code (R153). -/
def IT.ofCode : Nat → Option IT
  | 0 => some .i8
  | 1 => some .i16
  | 2 => some .i32
  | 3 => some .i64
  | 4 => some .n8
  | 5 => some .n16
  | 6 => some .n32
  | 7 => some .n64
  | _ => none

theorem IT.ofCode_code (x : IT) : IT.ofCode x.code = some x := by cases x <;> rfl

/-- The code of a RT (R156). -/
def RT.code : RT → Nat
  | .f64 => 0
  | .f32 => 1
  | .f16 => 2
  | .bf16 => 3
  | .i32 => 4
  | .n32 => 5
  | .i64 => 6
  | .n64 => 7

/-- The RT of a code, none for a reserved code (R156). -/
def RT.ofCode : Nat → Option RT
  | 0 => some .f64
  | 1 => some .f32
  | 2 => some .f16
  | 3 => some .bf16
  | 4 => some .i32
  | 5 => some .n32
  | 6 => some .i64
  | 7 => some .n64
  | _ => none

theorem RT.ofCode_code (x : RT) : RT.ofCode x.code = some x := by cases x <;> rfl

/-- The code of a Hint (R138). -/
def Hint.code : Hint → Nat
  | .hd => 0
  | .hs => 1
  | .hk => 2
  | .hb => 3

/-- The Hint of a code, none for a reserved code (R138). -/
def Hint.ofCode : Nat → Option Hint
  | 0 => some .hd
  | 1 => some .hs
  | 2 => some .hk
  | 3 => some .hb
  | _ => none

theorem Hint.ofCode_code (x : Hint) : Hint.ofCode x.code = some x := by cases x <;> rfl

/-- The code of a Scope (R144). -/
def Scope.code : Scope → Nat
  | .core => 0
  | .floe => 1
  | .die => 2
  | .pkg => 3
  | .sys => 4

/-- The Scope of a code, none for a reserved code (R144). -/
def Scope.ofCode : Nat → Option Scope
  | 0 => some .core
  | 1 => some .floe
  | 2 => some .die
  | 3 => some .pkg
  | 4 => some .sys
  | _ => none

theorem Scope.ofCode_code (x : Scope) : Scope.ofCode x.code = some x := by cases x <;> rfl

/-- The code of a LdK (R149). -/
def LdK.code : LdK → Nat
  | .i8 => 0
  | .i16 => 1
  | .i32 => 2
  | .i64 => 3
  | .n8 => 4
  | .n16 => 5
  | .n32 => 6

/-- The LdK of a code, none for a reserved code (R149). -/
def LdK.ofCode : Nat → Option LdK
  | 0 => some .i8
  | 1 => some .i16
  | 2 => some .i32
  | 3 => some .i64
  | 4 => some .n8
  | 5 => some .n16
  | 6 => some .n32
  | _ => none

theorem LdK.ofCode_code (x : LdK) : LdK.ofCode x.code = some x := by cases x <;> rfl

/-- The code of a StK (R149). -/
def StK.code : StK → Nat
  | .i8 => 0
  | .i16 => 1
  | .i32 => 2
  | .i64 => 3

/-- The StK of a code, none for a reserved code (R149). -/
def StK.ofCode : Nat → Option StK
  | 0 => some .i8
  | 1 => some .i16
  | 2 => some .i32
  | 3 => some .i64
  | _ => none

theorem StK.ofCode_code (x : StK) : StK.ofCode x.code = some x := by cases x <;> rfl

/-- The code of a AqZ (R150). -/
def AqZ.code : AqZ → Nat
  | .i32 => 0
  | .n32 => 1
  | .i64 => 2

/-- The AqZ of a code, none for a reserved code (R150). -/
def AqZ.ofCode : Nat → Option AqZ
  | 0 => some .i32
  | 1 => some .n32
  | 2 => some .i64
  | _ => none

theorem AqZ.ofCode_code (x : AqZ) : AqZ.ofCode x.code = some x := by cases x <;> rfl

/-- The code of a AmZ (R150). -/
def AmZ.code : AmZ → Nat
  | .i32 => 0
  | .i64 => 1

/-- The AmZ of a code, none for a reserved code (R150). -/
def AmZ.ofCode : Nat → Option AmZ
  | 0 => some .i32
  | 1 => some .i64
  | _ => none

theorem AmZ.ofCode_code (x : AmZ) : AmZ.ofCode x.code = some x := by cases x <;> rfl

/-- The code of a FaZ (R150). -/
def FaZ.code : FaZ → Nat
  | .f32 => 0
  | .f64 => 1
  | .f16 => 2
  | .bf16 => 3

/-- The FaZ of a code, none for a reserved code (R150). -/
def FaZ.ofCode : Nat → Option FaZ
  | 0 => some .f32
  | 1 => some .f64
  | 2 => some .f16
  | 3 => some .bf16
  | _ => none

theorem FaZ.ofCode_code (x : FaZ) : FaZ.ofCode x.code = some x := by cases x <;> rfl

/-- The code of a EW (R152). -/
def EW.code : EW → Nat
  | .w8 => 0
  | .w16 => 1
  | .w32 => 2
  | .w64 => 3

/-- The EW of a code, none for a reserved code (R152). -/
def EW.ofCode : Nat → Option EW
  | 0 => some .w8
  | 1 => some .w16
  | 2 => some .w32
  | 3 => some .w64
  | _ => none

theorem EW.ofCode_code (x : EW) : EW.ofCode x.code = some x := by cases x <;> rfl

/-- The code of a Fmt (R104). -/
def Fmt.code : Fmt → Nat
  | .fp64 => 0
  | .fp32 => 1
  | .fp16 => 2
  | .bf16 => 3
  | .e4m3 => 4
  | .e5m2 => 5
  | .e3m2 => 6
  | .e2m3 => 7
  | .e2m1 => 8
  | .qg8 => 9
  | .qg4 => 10
  | .i8 => 11
  | .i16 => 12
  | .i32 => 13
  | .e8m0 => 14

/-- The Fmt of a code, none for a reserved code (R104). -/
def Fmt.ofCode : Nat → Option Fmt
  | 0 => some .fp64
  | 1 => some .fp32
  | 2 => some .fp16
  | 3 => some .bf16
  | 4 => some .e4m3
  | 5 => some .e5m2
  | 6 => some .e3m2
  | 7 => some .e2m3
  | 8 => some .e2m1
  | 9 => some .qg8
  | 10 => some .qg4
  | 11 => some .i8
  | 12 => some .i16
  | 13 => some .i32
  | 14 => some .e8m0
  | _ => none

theorem Fmt.ofCode_code (x : Fmt) : Fmt.ofCode x.code = some x := by cases x <;> rfl

/-- The size of a release store by its code: 0 or 2, others reserved (R150). -/
def AmZ.relCode : AmZ → Nat
  | .i32 => 0
  | .i64 => 2

/-- The size of a release store, none for a reserved code (R150). -/
def AmZ.ofRelCode : Nat → Option AmZ
  | 0 => some .i32
  | 2 => some .i64
  | _ => none

theorem AmZ.ofRelCode_relCode (x : AmZ) : AmZ.ofRelCode x.relCode = some x := by cases x <;> rfl

/-- `n` bits of the word from bit `lo` up (R137). -/
def fld (w lo n : Nat) : Nat := w / 2 ^ lo % 2 ^ n

/-- A register field (R137). -/
def fldReg (w lo : Nat) : Reg := Fin.ofNat 32 (fld w lo 5)

/-- The stall count W, bits [31:30] (R136). -/
def fldW (w : Nat) : Fin 4 := Fin.ofNat 4 (fld w 30 2)

/-- The mask field m3 of a V-format word, bits [8:6] (R137). -/
def fldM (w : Nat) : Mask := Fin.ofNat 8 (fld w 6 3)

/-- The word's fields that a form gives no meaning must be 0 (R165). -/
def zeros (w lo n : Nat) (r : Option Instr) : Option Instr := if fld w lo n = 0 then r else none

/-- Major 0x00 (R143). -/
def decodeSystem (w : Nat) : Option Instr :=
  match fld w 0 9 with
  | 1 => zeros w 9 15 (some (.exit ))
  | 2 => zeros w 9 15 (some (.yield ))
  | 3 => zeros w 19 5 (some (.susp (fldReg w 14) (fldReg w 9)))
  | 4 => zeros w 9 5 (some (.spawn (fldReg w 19) (fldReg w 14)))
  | 5 => zeros w 9 15 (some (.brk ))
  | 32 => zeros w 9 15 (some .fenceAcqCore)
  | 33 => zeros w 9 15 (some .fenceAcqFloe)
  | 34 => zeros w 9 15 (some .fenceAcqDie)
  | 35 => zeros w 9 15 (some .fenceAcqPkg)
  | 36 => zeros w 9 15 (some .fenceAcqSys)
  | 40 => zeros w 9 15 (some .fenceRelCore)
  | 41 => zeros w 9 15 (some .fenceRelFloe)
  | 42 => zeros w 9 15 (some .fenceRelDie)
  | 43 => zeros w 9 15 (some .fenceRelPkg)
  | 44 => zeros w 9 15 (some .fenceRelSys)
  | 48 => zeros w 9 15 (some .fenceScCore)
  | 49 => zeros w 9 15 (some .fenceScFloe)
  | 50 => zeros w 9 15 (some .fenceScDie)
  | 51 => zeros w 9 15 (some .fenceScPkg)
  | 52 => zeros w 9 15 (some .fenceScSys)
  | _ => none

/-- Major 0x01 (R143). -/
def decodeImmediate (w : Nat) : Option Instr :=
  match fld w 19 5 with
  | 0 => zeros w 14 5 (some (.pause (BitVec.ofNat 14 (fld w 0 14))))
  | 1 => zeros w 14 5 (some (.sys (BitVec.ofNat 14 (fld w 0 14))))
  | _ => none

/-- Major 0x02 (R143). -/
def decodeCsr (w : Nat) : Option Instr :=
  match fld w 12 2 with
  | 0 => some (.csrrw (fldReg w 19) (fldReg w 14) (BitVec.ofNat 12 (fld w 0 12)))
  | 1 => some (.csrrs (fldReg w 19) (fldReg w 14) (BitVec.ofNat 12 (fld w 0 12)))
  | 2 => some (.csrrc (fldReg w 19) (fldReg w 14) (BitVec.ofNat 12 (fld w 0 12)))
  | _ => none

/-- Major 0x03 (R143). -/
def decodeJ (w : Nat) : Option Instr :=
  some (.j (BitVec.ofNat 24 (fld w 0 24)))

/-- Major 0x04 (R143). -/
def decodeJal (w : Nat) : Option Instr :=
  some (.jal (BitVec.ofNat 24 (fld w 0 24)))

/-- Major 0x05 (R143). -/
def decodeJalr (w : Nat) : Option Instr :=
  some (.jalr (fldReg w 19) (fldReg w 14) (BitVec.ofNat 14 (fld w 0 14)))

/-- Major 0x06 (R143). -/
def decodeBeq (w : Nat) : Option Instr :=
  some (.beq (fldReg w 19) (fldReg w 14) (BitVec.ofNat 14 (fld w 0 14)))

/-- Major 0x07 (R143). -/
def decodeBne (w : Nat) : Option Instr :=
  some (.bne (fldReg w 19) (fldReg w 14) (BitVec.ofNat 14 (fld w 0 14)))

/-- Major 0x08 (R143). -/
def decodeBlt (w : Nat) : Option Instr :=
  some (.blt (fldReg w 19) (fldReg w 14) (BitVec.ofNat 14 (fld w 0 14)))

/-- Major 0x09 (R143). -/
def decodeBge (w : Nat) : Option Instr :=
  some (.bge (fldReg w 19) (fldReg w 14) (BitVec.ofNat 14 (fld w 0 14)))

/-- Major 0x0A (R143). -/
def decodeBltu (w : Nat) : Option Instr :=
  some (.bltu (fldReg w 19) (fldReg w 14) (BitVec.ofNat 14 (fld w 0 14)))

/-- Major 0x0B (R143). -/
def decodeBgeu (w : Nat) : Option Instr :=
  some (.bgeu (fldReg w 19) (fldReg w 14) (BitVec.ofNat 14 (fld w 0 14)))

/-- Major 0x0C (R143). -/
def decodeBitTest (w : Nat) : Option Instr :=
  match fld w 12 1 with
  | 1 => some (.bbs (fldReg w 19) (BitVec.ofNat 6 (fld w 13 6)) (BitVec.ofNat 12 (fld w 0 12)))
  | 0 => some (.bbc (fldReg w 19) (BitVec.ofNat 6 (fld w 13 6)) (BitVec.ofNat 12 (fld w 0 12)))
  | _ => none

/-- Major 0x0D (R143). -/
def decodeRep (w : Nat) : Option Instr :=
  match fld w 12 2 with
  | 0 => zeros w 19 5 (some (.rep (fldReg w 14) (BitVec.ofNat 12 (fld w 0 12))))
  | 1 => zeros w 14 10 (some (.lpin (BitVec.ofNat 12 (fld w 0 12))))
  | 2 => zeros w 14 10 (zeros w 0 12 (some (.lunpin )))
  | _ => none

/-- Major 0x10 (R143). -/
def decodeInt (w : Nat) : Option Instr :=
  match fld w 0 9 with
  | 0 => some (.add (fldReg w 19) (fldReg w 14) (fldReg w 9))
  | 1 => some (.sub (fldReg w 19) (fldReg w 14) (fldReg w 9))
  | 2 => some (.and (fldReg w 19) (fldReg w 14) (fldReg w 9))
  | 3 => some (.or (fldReg w 19) (fldReg w 14) (fldReg w 9))
  | 4 => some (.xor (fldReg w 19) (fldReg w 14) (fldReg w 9))
  | 5 => some (.sll (fldReg w 19) (fldReg w 14) (fldReg w 9))
  | 6 => some (.srl (fldReg w 19) (fldReg w 14) (fldReg w 9))
  | 7 => some (.sra (fldReg w 19) (fldReg w 14) (fldReg w 9))
  | 8 => some (.slt (fldReg w 19) (fldReg w 14) (fldReg w 9))
  | 9 => some (.sltu (fldReg w 19) (fldReg w 14) (fldReg w 9))
  | 10 => some (.min (fldReg w 19) (fldReg w 14) (fldReg w 9))
  | 11 => some (.max (fldReg w 19) (fldReg w 14) (fldReg w 9))
  | 12 => some (.minu (fldReg w 19) (fldReg w 14) (fldReg w 9))
  | 13 => some (.maxu (fldReg w 19) (fldReg w 14) (fldReg w 9))
  | 16 => some (.addw (fldReg w 19) (fldReg w 14) (fldReg w 9))
  | 17 => some (.subw (fldReg w 19) (fldReg w 14) (fldReg w 9))
  | 18 => some (.sllw (fldReg w 19) (fldReg w 14) (fldReg w 9))
  | 19 => some (.srlw (fldReg w 19) (fldReg w 14) (fldReg w 9))
  | 20 => some (.sraw (fldReg w 19) (fldReg w 14) (fldReg w 9))
  | 32 => zeros w 9 5 (some (.clz (fldReg w 19) (fldReg w 14)))
  | 33 => zeros w 9 5 (some (.ctz (fldReg w 19) (fldReg w 14)))
  | 34 => zeros w 9 5 (some (.popc (fldReg w 19) (fldReg w 14)))
  | _ => none

/-- Major 0x11 (R143). -/
def decodeMulDiv (w : Nat) : Option Instr :=
  match fld w 0 9 with
  | 0 => some (.mul (fldReg w 19) (fldReg w 14) (fldReg w 9))
  | 1 => some (.mulh (fldReg w 19) (fldReg w 14) (fldReg w 9))
  | 2 => some (.mulhu (fldReg w 19) (fldReg w 14) (fldReg w 9))
  | 3 => some (.mulhsu (fldReg w 19) (fldReg w 14) (fldReg w 9))
  | 4 => some (.div (fldReg w 19) (fldReg w 14) (fldReg w 9))
  | 5 => some (.divu (fldReg w 19) (fldReg w 14) (fldReg w 9))
  | 6 => some (.rem (fldReg w 19) (fldReg w 14) (fldReg w 9))
  | 7 => some (.remu (fldReg w 19) (fldReg w 14) (fldReg w 9))
  | 8 => some (.mulw (fldReg w 19) (fldReg w 14) (fldReg w 9))
  | 12 => some (.divw (fldReg w 19) (fldReg w 14) (fldReg w 9))
  | 13 => some (.divuw (fldReg w 19) (fldReg w 14) (fldReg w 9))
  | 14 => some (.remw (fldReg w 19) (fldReg w 14) (fldReg w 9))
  | 15 => some (.remuw (fldReg w 19) (fldReg w 14) (fldReg w 9))
  | _ => none

/-- Major 0x12 (R143). -/
def decodeAddi (w : Nat) : Option Instr :=
  some (.addi (fldReg w 19) (fldReg w 14) (BitVec.ofNat 14 (fld w 0 14)))

/-- Major 0x13 (R143). -/
def decodeAndi (w : Nat) : Option Instr :=
  some (.andi (fldReg w 19) (fldReg w 14) (BitVec.ofNat 14 (fld w 0 14)))

/-- Major 0x14 (R143). -/
def decodeOri (w : Nat) : Option Instr :=
  some (.ori (fldReg w 19) (fldReg w 14) (BitVec.ofNat 14 (fld w 0 14)))

/-- Major 0x15 (R143). -/
def decodeXori (w : Nat) : Option Instr :=
  some (.xori (fldReg w 19) (fldReg w 14) (BitVec.ofNat 14 (fld w 0 14)))

/-- Major 0x16 (R143). -/
def decodeSlti (w : Nat) : Option Instr :=
  some (.slti (fldReg w 19) (fldReg w 14) (BitVec.ofNat 14 (fld w 0 14)))

/-- Major 0x17 (R143). -/
def decodeShiftImm (w : Nat) : Option Instr :=
  match fld w 12 2 with
  | 0 => zeros w 6 6 (some (.slli (fldReg w 19) (fldReg w 14) (BitVec.ofNat 6 (fld w 0 6))))
  | 1 => zeros w 6 6 (some (.srli (fldReg w 19) (fldReg w 14) (BitVec.ofNat 6 (fld w 0 6))))
  | 2 => zeros w 6 6 (some (.srai (fldReg w 19) (fldReg w 14) (BitVec.ofNat 6 (fld w 0 6))))
  | _ => none

/-- Major 0x18 (R143). -/
def decodeLui (w : Nat) : Option Instr :=
  some (.lui (fldReg w 19) (BitVec.ofNat 19 (fld w 0 19)))

/-- Major 0x19 (R143). -/
def decodeAuipc (w : Nat) : Option Instr :=
  some (.auipc (fldReg w 19) (BitVec.ofNat 19 (fld w 0 19)))

/-- Major 0x1A (R143). -/
def decodeFp (w : Nat) : Option Instr :=
  match fld w 0 3 with
  | 0 => (RM.ofCode (fld w 6 3)).bind fun rm => (FT.ofCode (fld w 3 3)).bind fun ty => some (.fadd (fldReg w 19) (fldReg w 14) (fldReg w 9) rm ty)
  | 1 => (RM.ofCode (fld w 6 3)).bind fun rm => (FT.ofCode (fld w 3 3)).bind fun ty => some (.fsub (fldReg w 19) (fldReg w 14) (fldReg w 9) rm ty)
  | 2 => (RM.ofCode (fld w 6 3)).bind fun rm => (FT.ofCode (fld w 3 3)).bind fun ty => some (.fmul (fldReg w 19) (fldReg w 14) (fldReg w 9) rm ty)
  | 3 => (RM.ofCode (fld w 6 3)).bind fun rm => (FT.ofCode (fld w 3 3)).bind fun ty => some (.fdiv (fldReg w 19) (fldReg w 14) (fldReg w 9) rm ty)
  | 4 => zeros w 9 5 ((RM.ofCode (fld w 6 3)).bind fun rm => (FT.ofCode (fld w 3 3)).bind fun ty => some (.fsqrt (fldReg w 19) (fldReg w 14) rm ty))
  | 5 => (RM.ofCode (fld w 6 3)).bind fun rm => (FT.ofCode (fld w 3 3)).bind fun ty => some (.fma (fldReg w 19) (fldReg w 14) (fldReg w 9) rm ty)
  | 7 => zeros w 12 2 ((NumT.ofCode (fld w 9 3)).bind fun ty2 => (RM.ofCode (fld w 6 3)).bind fun rm => (NumT.ofCode (fld w 3 3)).bind fun ty => some (.fcvt (fldReg w 19) (fldReg w 14) ty2 rm ty))
  | _ =>
    match fld w 6 3 with
    | 0 => (FT.ofCode (fld w 3 3)).bind fun ty => some (.fmin (fldReg w 19) (fldReg w 14) (fldReg w 9) ty)
    | 1 => (FT.ofCode (fld w 3 3)).bind fun ty => some (.fmax (fldReg w 19) (fldReg w 14) (fldReg w 9) ty)
    | 2 => (FT.ofCode (fld w 3 3)).bind fun ty => some (.feq (fldReg w 19) (fldReg w 14) (fldReg w 9) ty)
    | 3 => (FT.ofCode (fld w 3 3)).bind fun ty => some (.flt (fldReg w 19) (fldReg w 14) (fldReg w 9) ty)
    | 4 => (FT.ofCode (fld w 3 3)).bind fun ty => some (.fle (fldReg w 19) (fldReg w 14) (fldReg w 9) ty)
    | _ => none

/-- Major 0x1C (R143). -/
def decodeLoad (w : Nat) : Option Instr :=
  if fld w 11 3 = 7 then zeros w 19 5 ((Hint.ofCode (fld w 9 2)).bind fun hi => some (.pf (fldReg w 14) hi (BitVec.ofNat 9 (fld w 0 9))))
  else (LdK.ofCode (fld w 11 3)).bind fun kd => (Hint.ofCode (fld w 9 2)).bind fun hi => some (.ld (fldReg w 19) (fldReg w 14) kd hi (BitVec.ofNat 9 (fld w 0 9)))

/-- Major 0x1D (R143). -/
def decodeStore (w : Nat) : Option Instr :=
  zeros w 13 1 ((StK.ofCode (fld w 11 2)).bind fun kd => (Hint.ofCode (fld w 9 2)).bind fun hi => some (.st (fldReg w 19) (fldReg w 14) kd hi (BitVec.ofNat 9 (fld w 0 9))))

/-- Major 0x1E (R143). -/
def decodeAtomic (w : Nat) : Option Instr :=
  match fld w 5 2 with
  | 0 => zeros w 9 5 ((Hint.ofCode (fld w 7 2)).bind fun hi => (AqZ.ofCode (fld w 3 2)).bind fun sz => (Scope.ofCode (fld w 0 3)).bind fun sc => some (.ldAcq (fldReg w 19) (fldReg w 14) hi sz sc))
  | 1 => zeros w 19 5 ((Hint.ofCode (fld w 7 2)).bind fun hi => (AmZ.ofRelCode (fld w 3 2)).bind fun sz => (Scope.ofCode (fld w 0 3)).bind fun sc => some (.stRel (fldReg w 14) (fldReg w 9) hi sz sc))
  | _ =>
    match fld w 2 4 with
    | 0 => (Hint.ofCode (fld w 7 2)).bind fun hi => (AmZ.ofCode (fld w 0 2)).bind fun sz => some (.amoadd (fldReg w 19) (fldReg w 14) (fldReg w 9) hi sz)
    | 1 => (Hint.ofCode (fld w 7 2)).bind fun hi => (AmZ.ofCode (fld w 0 2)).bind fun sz => some (.amoand (fldReg w 19) (fldReg w 14) (fldReg w 9) hi sz)
    | 2 => (Hint.ofCode (fld w 7 2)).bind fun hi => (AmZ.ofCode (fld w 0 2)).bind fun sz => some (.amoor (fldReg w 19) (fldReg w 14) (fldReg w 9) hi sz)
    | 3 => (Hint.ofCode (fld w 7 2)).bind fun hi => (AmZ.ofCode (fld w 0 2)).bind fun sz => some (.amoxor (fldReg w 19) (fldReg w 14) (fldReg w 9) hi sz)
    | 4 => (Hint.ofCode (fld w 7 2)).bind fun hi => (AmZ.ofCode (fld w 0 2)).bind fun sz => some (.amomin (fldReg w 19) (fldReg w 14) (fldReg w 9) hi sz)
    | 5 => (Hint.ofCode (fld w 7 2)).bind fun hi => (AmZ.ofCode (fld w 0 2)).bind fun sz => some (.amomax (fldReg w 19) (fldReg w 14) (fldReg w 9) hi sz)
    | 6 => (Hint.ofCode (fld w 7 2)).bind fun hi => (AmZ.ofCode (fld w 0 2)).bind fun sz => some (.amominu (fldReg w 19) (fldReg w 14) (fldReg w 9) hi sz)
    | 7 => (Hint.ofCode (fld w 7 2)).bind fun hi => (AmZ.ofCode (fld w 0 2)).bind fun sz => some (.amomaxu (fldReg w 19) (fldReg w 14) (fldReg w 9) hi sz)
    | 8 => (Hint.ofCode (fld w 7 2)).bind fun hi => (AmZ.ofCode (fld w 0 2)).bind fun sz => some (.amoswap (fldReg w 19) (fldReg w 14) (fldReg w 9) hi sz)
    | 9 => (Hint.ofCode (fld w 7 2)).bind fun hi => (AmZ.ofCode (fld w 0 2)).bind fun sz => some (.amocas (fldReg w 19) (fldReg w 14) (fldReg w 9) hi sz)
    | 10 => (Hint.ofCode (fld w 7 2)).bind fun hi => (FaZ.ofCode (fld w 0 2)).bind fun sz => some (.famoadd (fldReg w 19) (fldReg w 14) (fldReg w 9) hi sz)
    | _ => none

/-- Major 0x1F (R143). -/
def decodeReduce (w : Nat) : Option Instr :=
  match fld w 4 3 with
  | 0 => zeros w 19 5 ((Hint.ofCode (fld w 7 2)).bind fun hi => (Fmt.ofCode (fld w 0 4)).bind fun fm => some (.redAdd (fldReg w 14) (fldReg w 9) hi fm))
  | 1 => zeros w 19 5 ((Hint.ofCode (fld w 7 2)).bind fun hi => (Fmt.ofCode (fld w 0 4)).bind fun fm => some (.redMin (fldReg w 14) (fldReg w 9) hi fm))
  | 2 => zeros w 19 5 ((Hint.ofCode (fld w 7 2)).bind fun hi => (Fmt.ofCode (fld w 0 4)).bind fun fm => some (.redMax (fldReg w 14) (fldReg w 9) hi fm))
  | 5 => zeros w 19 5 (zeros w 7 2 (zeros w 3 1 ((Scope.ofCode (fld w 0 3)).bind fun sc => some (.cwb (fldReg w 14) (fldReg w 9) sc))))
  | 6 => zeros w 19 5 (zeros w 7 2 (zeros w 3 1 ((Scope.ofCode (fld w 0 3)).bind fun sc => some (.cinv (fldReg w 14) (fldReg w 9) sc))))
  | 7 => zeros w 19 5 (zeros w 7 2 (zeros w 3 1 ((Scope.ofCode (fld w 0 3)).bind fun sc => some (.cwbinv (fldReg w 14) (fldReg w 9) sc))))
  | _ => none

/-- Major 0x20 (R143). -/
def decodeVLoad (w : Nat) : Option Instr :=
  match fld w 2 2 with
  | 0 => zeros w 9 5 ((Hint.ofCode (fld w 4 2)).bind fun hi => (EW.ofCode (fld w 0 2)).bind fun sz => some (.vld (fldReg w 19) (fldReg w 14) (fldM w) hi sz))
  | 1 => (Hint.ofCode (fld w 4 2)).bind fun hi => (EW.ofCode (fld w 0 2)).bind fun sz => some (.vlds (fldReg w 19) (fldReg w 14) (fldReg w 9) (fldM w) hi sz)
  | 2 => (Hint.ofCode (fld w 4 2)).bind fun hi => (EW.ofCode (fld w 0 2)).bind fun sz => some (.vldx (fldReg w 19) (fldReg w 14) (fldReg w 9) (fldM w) hi sz)
  | 3 => zeros w 9 5 ((Hint.ofCode (fld w 4 2)).bind fun hi => (EW.ofCode (fld w 0 2)).bind fun sz => some (.vldl (fldReg w 19) (fldReg w 14) (fldM w) hi sz))
  | _ => none

/-- Major 0x21 (R143). -/
def decodeVStore (w : Nat) : Option Instr :=
  match fld w 2 2 with
  | 0 => zeros w 9 5 ((Hint.ofCode (fld w 4 2)).bind fun hi => (EW.ofCode (fld w 0 2)).bind fun sz => some (.vst (fldReg w 19) (fldReg w 14) (fldM w) hi sz))
  | 1 => (Hint.ofCode (fld w 4 2)).bind fun hi => (EW.ofCode (fld w 0 2)).bind fun sz => some (.vsts (fldReg w 19) (fldReg w 14) (fldReg w 9) (fldM w) hi sz)
  | 2 => (Hint.ofCode (fld w 4 2)).bind fun hi => (EW.ofCode (fld w 0 2)).bind fun sz => some (.vstx (fldReg w 19) (fldReg w 14) (fldReg w 9) (fldM w) hi sz)
  | 3 => zeros w 9 5 ((Hint.ofCode (fld w 4 2)).bind fun hi => (EW.ofCode (fld w 0 2)).bind fun sz => some (.vstl (fldReg w 19) (fldReg w 14) (fldM w) hi sz))
  | _ => none

/-- Major 0x22 (R143). -/
def decodeVInt (w : Nat) : Option Instr :=
  match fld w 3 3 with
  | 0 => (IT.ofCode (fld w 0 3)).bind fun ty => some (.vadd (fldReg w 19) (fldReg w 14) (fldReg w 9) (fldM w) ty)
  | 1 => (IT.ofCode (fld w 0 3)).bind fun ty => some (.vsub (fldReg w 19) (fldReg w 14) (fldReg w 9) (fldM w) ty)
  | 2 => (IT.ofCode (fld w 0 3)).bind fun ty => some (.vmul (fldReg w 19) (fldReg w 14) (fldReg w 9) (fldM w) ty)
  | 3 => (IT.ofCode (fld w 0 3)).bind fun ty => some (.vmulh (fldReg w 19) (fldReg w 14) (fldReg w 9) (fldM w) ty)
  | 4 => (IT.ofCode (fld w 0 3)).bind fun ty => some (.vmin (fldReg w 19) (fldReg w 14) (fldReg w 9) (fldM w) ty)
  | 5 => (IT.ofCode (fld w 0 3)).bind fun ty => some (.vmax (fldReg w 19) (fldReg w 14) (fldReg w 9) (fldM w) ty)
  | 6 => (IT.ofCode (fld w 0 3)).bind fun ty => some (.vadds (fldReg w 19) (fldReg w 14) (fldReg w 9) (fldM w) ty)
  | 7 => (IT.ofCode (fld w 0 3)).bind fun ty => some (.vsubs (fldReg w 19) (fldReg w 14) (fldReg w 9) (fldM w) ty)
  | _ => none

/-- Major 0x23 (R143). -/
def decodeVLogic (w : Nat) : Option Instr :=
  match fld w 3 3 with
  | 0 => (IT.ofCode (fld w 0 3)).bind fun ty => some (.vand (fldReg w 19) (fldReg w 14) (fldReg w 9) (fldM w) ty)
  | 1 => (IT.ofCode (fld w 0 3)).bind fun ty => some (.vor (fldReg w 19) (fldReg w 14) (fldReg w 9) (fldM w) ty)
  | 2 => (IT.ofCode (fld w 0 3)).bind fun ty => some (.vxor (fldReg w 19) (fldReg w 14) (fldReg w 9) (fldM w) ty)
  | 3 => (IT.ofCode (fld w 0 3)).bind fun ty => some (.vsll (fldReg w 19) (fldReg w 14) (fldReg w 9) (fldM w) ty)
  | 4 => (IT.ofCode (fld w 0 3)).bind fun ty => some (.vsr (fldReg w 19) (fldReg w 14) (fldReg w 9) (fldM w) ty)
  | 5 => (IT.ofCode (fld w 0 3)).bind fun ty => some (.vdiv (fldReg w 19) (fldReg w 14) (fldReg w 9) (fldM w) ty)
  | 6 => (IT.ofCode (fld w 0 3)).bind fun ty => some (.vrem (fldReg w 19) (fldReg w 14) (fldReg w 9) (fldM w) ty)
  | _ => none

/-- Major 0x2F (R143). -/
def decodeVCmp (w : Nat) : Option Instr :=
  match fld w 3 3 with
  | 0 => (IT.ofCode (fld w 0 3)).bind fun ty => some (.vceq (fldReg w 19) (fldReg w 14) (fldReg w 9) (fldM w) ty)
  | 1 => (IT.ofCode (fld w 0 3)).bind fun ty => some (.vcne (fldReg w 19) (fldReg w 14) (fldReg w 9) (fldM w) ty)
  | 2 => (IT.ofCode (fld w 0 3)).bind fun ty => some (.vclt (fldReg w 19) (fldReg w 14) (fldReg w 9) (fldM w) ty)
  | 3 => (IT.ofCode (fld w 0 3)).bind fun ty => some (.vcge (fldReg w 19) (fldReg w 14) (fldReg w 9) (fldM w) ty)
  | 4 => (IT.ofCode (fld w 0 3)).bind fun ty => some (.vcle (fldReg w 19) (fldReg w 14) (fldReg w 9) (fldM w) ty)
  | 5 => (IT.ofCode (fld w 0 3)).bind fun ty => some (.vcgt (fldReg w 19) (fldReg w 14) (fldReg w 9) (fldM w) ty)
  | _ => none

/-- Majors 0x24 to 0x27 (R143). -/
def decodeVFp (w : Nat) : Option Instr :=
  match fld w 0 3 with
  | 0 => (FT.ofCode (fld w 24 2)).bind fun ty => (RM.ofCode (fld w 3 3)).bind fun rm => some (.vfadd ty (fldReg w 19) (fldReg w 14) (fldReg w 9) (fldM w) rm)
  | 1 => (FT.ofCode (fld w 24 2)).bind fun ty => (RM.ofCode (fld w 3 3)).bind fun rm => some (.vfsub ty (fldReg w 19) (fldReg w 14) (fldReg w 9) (fldM w) rm)
  | 2 => (FT.ofCode (fld w 24 2)).bind fun ty => (RM.ofCode (fld w 3 3)).bind fun rm => some (.vfmul ty (fldReg w 19) (fldReg w 14) (fldReg w 9) (fldM w) rm)
  | 3 => (FT.ofCode (fld w 24 2)).bind fun ty => (RM.ofCode (fld w 3 3)).bind fun rm => some (.vfdiv ty (fldReg w 19) (fldReg w 14) (fldReg w 9) (fldM w) rm)
  | 4 => (FT.ofCode (fld w 24 2)).bind fun ty => (RM.ofCode (fld w 3 3)).bind fun rm => some (.vfma ty (fldReg w 19) (fldReg w 14) (fldReg w 9) (fldM w) rm)
  | 5 => (FT.ofCode (fld w 24 2)).bind fun ty => (RM.ofCode (fld w 3 3)).bind fun rm => some (.vfms ty (fldReg w 19) (fldReg w 14) (fldReg w 9) (fldM w) rm)
  | 6 => (FT.ofCode (fld w 24 2)).bind fun ty => (RM.ofCode (fld w 3 3)).bind fun rm => some (.vfnma ty (fldReg w 19) (fldReg w 14) (fldReg w 9) (fldM w) rm)
  | _ =>
    match fld w 3 3 with
    | 0 => (FT.ofCode (fld w 24 2)).bind fun ty => some (.vfmin ty (fldReg w 19) (fldReg w 14) (fldReg w 9) (fldM w))
    | 1 => (FT.ofCode (fld w 24 2)).bind fun ty => some (.vfmax ty (fldReg w 19) (fldReg w 14) (fldReg w 9) (fldM w))
    | 2 => (FT.ofCode (fld w 24 2)).bind fun ty => some (.vfeq ty (fldReg w 19) (fldReg w 14) (fldReg w 9) (fldM w))
    | 3 => (FT.ofCode (fld w 24 2)).bind fun ty => some (.vflt ty (fldReg w 19) (fldReg w 14) (fldReg w 9) (fldM w))
    | 4 => (FT.ofCode (fld w 24 2)).bind fun ty => some (.vfle ty (fldReg w 19) (fldReg w 14) (fldReg w 9) (fldM w))
    | 5 => (FT.ofCode (fld w 24 2)).bind fun ty => some (.vfun ty (fldReg w 19) (fldReg w 14) (fldReg w 9) (fldM w))
    | 6 => zeros w 9 5 ((FT.ofCode (fld w 24 2)).bind fun ty => some (.vfabs ty (fldReg w 19) (fldReg w 14) (fldM w)))
    | _ => zeros w 9 5 ((FT.ofCode (fld w 24 2)).bind fun ty => some (.vfneg ty (fldReg w 19) (fldReg w 14) (fldM w)))

/-- Major 0x28 (R143). -/
def decodeVFun (w : Nat) : Option Instr :=
  match fld w 9 5 with
  | 0 => (RM.ofCode (fld w 3 3)).bind fun rm => (FT.ofCode (fld w 0 3)).bind fun ty => some (.vfsqrt (fldReg w 19) (fldReg w 14) (fldM w) rm ty)
  | 1 => (RM.ofCode (fld w 3 3)).bind fun rm => (FT.ofCode (fld w 0 3)).bind fun ty => some (.vfrcp (fldReg w 19) (fldReg w 14) (fldM w) rm ty)
  | 2 => (RM.ofCode (fld w 3 3)).bind fun rm => (FT.ofCode (fld w 0 3)).bind fun ty => some (.vfrsqrt (fldReg w 19) (fldReg w 14) (fldM w) rm ty)
  | 3 => (RM.ofCode (fld w 3 3)).bind fun rm => (FT.ofCode (fld w 0 3)).bind fun ty => some (.vfexp2 (fldReg w 19) (fldReg w 14) (fldM w) rm ty)
  | 4 => (RM.ofCode (fld w 3 3)).bind fun rm => (FT.ofCode (fld w 0 3)).bind fun ty => some (.vflog2 (fldReg w 19) (fldReg w 14) (fldM w) rm ty)
  | 5 => (RM.ofCode (fld w 3 3)).bind fun rm => (FT.ofCode (fld w 0 3)).bind fun ty => some (.vfexp (fldReg w 19) (fldReg w 14) (fldM w) rm ty)
  | 6 => (RM.ofCode (fld w 3 3)).bind fun rm => (FT.ofCode (fld w 0 3)).bind fun ty => some (.vflog (fldReg w 19) (fldReg w 14) (fldM w) rm ty)
  | 7 => (RM.ofCode (fld w 3 3)).bind fun rm => (FT.ofCode (fld w 0 3)).bind fun ty => some (.vftanh (fldReg w 19) (fldReg w 14) (fldM w) rm ty)
  | 8 => (RM.ofCode (fld w 3 3)).bind fun rm => (FT.ofCode (fld w 0 3)).bind fun ty => some (.vfsigm (fldReg w 19) (fldReg w 14) (fldM w) rm ty)
  | 9 => (RM.ofCode (fld w 3 3)).bind fun rm => (FT.ofCode (fld w 0 3)).bind fun ty => some (.vfsin (fldReg w 19) (fldReg w 14) (fldM w) rm ty)
  | 10 => (RM.ofCode (fld w 3 3)).bind fun rm => (FT.ofCode (fld w 0 3)).bind fun ty => some (.vfcos (fldReg w 19) (fldReg w 14) (fldM w) rm ty)
  | _ => none

/-- Major 0x29 (R143). -/
def decodeVRed (w : Nat) : Option Instr :=
  match fld w 3 3 with
  | 0 => zeros w 12 2 ((RM.ofCode (fld w 9 3)).bind fun rm => (RT.ofCode (fld w 0 3)).bind fun ty => some (.vredsum (fldReg w 19) (fldReg w 14) rm (fldM w) ty))
  | 1 => zeros w 9 5 ((RT.ofCode (fld w 0 3)).bind fun ty => some (.vredmax (fldReg w 19) (fldReg w 14) (fldM w) ty))
  | 2 => zeros w 9 5 ((RT.ofCode (fld w 0 3)).bind fun ty => some (.vredmin (fldReg w 19) (fldReg w 14) (fldM w) ty))
  | 3 => zeros w 12 2 ((RM.ofCode (fld w 9 3)).bind fun rm => (RT.ofCode (fld w 0 3)).bind fun ty => some (.vscan (fldReg w 19) (fldReg w 14) rm (fldM w) ty))
  | 4 => zeros w 12 2 ((RM.ofCode (fld w 9 3)).bind fun rm => (RT.ofCode (fld w 0 3)).bind fun ty => some (.vscanx (fldReg w 19) (fldReg w 14) rm (fldM w) ty))
  | _ => none

/-- Major 0x2A (R143). -/
def decodeVSeg (w : Nat) : Option Instr :=
  match fld w 3 3 with
  | 0 => (RT.ofCode (fld w 0 3)).bind fun ty => some (.vsgsum (fldReg w 19) (fldReg w 14) (fldReg w 9) (fldM w) ty)
  | 1 => (RT.ofCode (fld w 0 3)).bind fun ty => some (.vsgmax (fldReg w 19) (fldReg w 14) (fldReg w 9) (fldM w) ty)
  | 2 => (RT.ofCode (fld w 0 3)).bind fun ty => some (.vsgmin (fldReg w 19) (fldReg w 14) (fldReg w 9) (fldM w) ty)
  | 3 => (RT.ofCode (fld w 0 3)).bind fun ty => some (.vsgscan (fldReg w 19) (fldReg w 14) (fldReg w 9) (fldM w) ty)
  | 4 => (RT.ofCode (fld w 0 3)).bind fun ty => some (.vsgbcast (fldReg w 19) (fldReg w 14) (fldReg w 9) (fldM w) ty)
  | 5 => zeros w 6 3 ((RT.ofCode (fld w 0 3)).bind fun ty => some (.vsgrefill (fldReg w 19) (fldReg w 14) (fldReg w 9) ty))
  | _ => none

/-- Major 0x2B (R143). -/
def decodeVPerm (w : Nat) : Option Instr :=
  match fld w 3 3 with
  | 0 => (EW.ofCode (fld w 0 3)).bind fun sz => some (.vperm (fldReg w 19) (fldReg w 14) (fldReg w 9) (fldM w) sz)
  | 1 => (EW.ofCode (fld w 0 3)).bind fun sz => some (.vslideup (fldReg w 19) (fldReg w 14) (fldReg w 9) (fldM w) sz)
  | 2 => (EW.ofCode (fld w 0 3)).bind fun sz => some (.vslidedn (fldReg w 19) (fldReg w 14) (fldReg w 9) (fldM w) sz)
  | 3 => zeros w 9 5 ((EW.ofCode (fld w 0 3)).bind fun sz => some (.vbcast (fldReg w 19) (fldReg w 14) (fldM w) sz))
  | 4 => zeros w 6 3 ((EW.ofCode (fld w 0 3)).bind fun sz => some (.vmvxv (fldReg w 19) (fldReg w 14) (fldReg w 9) sz))
  | 5 => zeros w 6 3 ((EW.ofCode (fld w 0 3)).bind fun sz => some (.vmvvx (fldReg w 19) (fldReg w 14) (fldReg w 9) sz))
  | 6 => zeros w 9 10 ((EW.ofCode (fld w 0 3)).bind fun sz => some (.vid (fldReg w 19) (fldM w) sz))
  | 7 => (EW.ofCode (fld w 0 3)).bind fun sz => some (.vsel (fldReg w 19) (fldReg w 14) (fldReg w 9) (fldM w) sz)
  | _ => none

/-- Major 0x2C (R143). -/
def decodeCvt (w : Nat) : Option Instr :=
  (Fmt.ofCode (fld w 10 4)).bind fun de => (RM.ofCode (fld w 9 1 * 4 + fld w 0 2)).bind fun rm => (Fmt.ofCode (fld w 2 4)).bind fun sc => some (.vcvt (fldReg w 19) (fldReg w 14) de rm (fldM w) sc)

/-- Major 0x2D (R143). -/
def decodeCvtNsat (w : Nat) : Option Instr :=
  if fld w 10 4 = 4 then (RM.ofCode (fld w 9 1 * 4 + fld w 0 2)).bind fun rm => (Fmt.ofCode (fld w 2 4)).bind fun sc => some (.vcvtNsat (fldReg w 19) (fldReg w 14) rm (fldM w) sc) else none

/-- Major 0x2E (R143). -/
def decodeVBlock (w : Nat) : Option Instr :=
  match fld w 4 2 with
  | 0 => (Fmt.ofCode (fld w 0 4)).bind fun fm => some (.vmxcvt (fldReg w 19) (fldReg w 14) (fldReg w 9) (fldM w) fm)
  | 1 => (Fmt.ofCode (fld w 0 4)).bind fun fm => some (.vmxext (fldReg w 19) (fldReg w 14) (fldReg w 9) (fldM w) fm)
  | 2 => (Fmt.ofCode (fld w 0 4)).bind fun fm => some (.vqcvt (fldReg w 19) (fldReg w 14) (fldReg w 9) (fldM w) fm)
  | _ =>
    if fld w 0 4 = 11 then
      match fld w 9 5 with
      | 0 => some (.vwid4I8I4 (fldReg w 19) (fldReg w 14) (fldM w))
      | 1 => some (.vwid4N8N4 (fldReg w 19) (fldReg w 14) (fldM w))
      | 2 => some (.vnar4I4I8 (fldReg w 19) (fldReg w 14) (fldM w))
      | 3 => some (.vnar4N4N8 (fldReg w 19) (fldReg w 14) (fldM w))
      | _ => none
    else (Fmt.ofCode (fld w 0 4)).bind fun fm => some (.vqgext (fldReg w 19) (fldReg w 14) (fldReg w 9) (fldM w) fm)

/-- Major 0x30 (R143). -/
def decodeVCtl (w : Nat) : Option Instr :=
  match fld w 0 9 with
  | 0 => zeros w 9 5 (some (.vclaim (fldReg w 19) (fldReg w 14)))
  | 1 => zeros w 9 15 (some (.vfree ))
  | 2 => if fld w 22 2 = 3 then zeros w 9 5 (some (.vsbindRd (Fin.ofNat 8 (fld w 19 3)) (fldReg w 14))) else none
  | 3 => if fld w 22 2 = 3 then zeros w 9 5 (some (.vsbindWr (Fin.ofNat 8 (fld w 19 3)) (fldReg w 14))) else none
  | 4 => if fld w 22 2 = 3 then zeros w 9 10 (some (.vsunbind (Fin.ofNat 8 (fld w 19 3)))) else none
  | _ => none

/-- Major 0x38 (R143). -/
def decodeMatrix (w : Nat) : Option Instr :=
  match fld w 18 6 with
  | 0 => zeros w 3 10 (some (.mxCfg (fldReg w 13) (Fin.ofNat 8 (fld w 0 3))))
  | 1 => zeros w 0 3 (some (.mxTask (fldReg w 13) (fldReg w 8) (fldReg w 3)))
  | 2 => zeros w 8 5 (zeros w 0 3 (some (.mxWait (fldReg w 13) (fldReg w 3))))
  | 3 => zeros w 8 5 (zeros w 0 3 (some (.mxZero (fldReg w 13) (fldReg w 3))))
  | 8 => zeros w 12 1 (zeros w 0 8 (some (.ringCfg (fldReg w 13) (Fin.ofNat 16 (fld w 8 4)))))
  | 9 => zeros w 12 6 (zeros w 0 3 (some (.ringSt (Fin.ofNat 16 (fld w 8 4)) (fldReg w 3))))
  | 10 => zeros w 12 6 (zeros w 0 3 (some (.ringReset (Fin.ofNat 16 (fld w 8 4)) (fldReg w 3))))
  | _ => none

/-- Major 0x39 (R143). -/
def decodeCopy (w : Nat) : Option Instr :=
  match fld w 18 6 with
  | 0 => zeros w 0 8 (some (.cpGo (fldReg w 13) (fldReg w 8)))
  | 1 => zeros w 3 10 (some (.cpSet (fldReg w 13) (Fin.ofNat 8 (fld w 0 3))))
  | 2 => zeros w 8 10 (some (.cpGet (fldReg w 3) (Fin.ofNat 8 (fld w 0 3))))
  | 3 => zeros w 8 10 (zeros w 0 3 (some (.cpWait (fldReg w 3))))
  | _ => none

/-- Major 0x3A (R143). -/
def decodeSync (w : Nat) : Option Instr :=
  match fld w 18 6 with
  | 0 =>
    match fld w 0 3 with
    | 0 => some (.barInit (fldReg w 13) (fldReg w 8) (fldReg w 3))
    | 1 => some (.barInitF (fldReg w 13) (fldReg w 8) (fldReg w 3))
    | _ => none
  | 1 => zeros w 0 3 (some (.barArr (fldReg w 13) (fldReg w 8) (fldReg w 3)))
  | 2 => zeros w 0 3 (some (.barWait (fldReg w 13) (fldReg w 8) (fldReg w 3)))
  | 3 => zeros w 0 3 (some (.barArrw (fldReg w 13) (fldReg w 8) (fldReg w 3)))
  | 4 => zeros w 8 5 (zeros w 0 3 (some (.barKill (fldReg w 13) (fldReg w 3))))
  | 5 => zeros w 8 5 (zeros w 0 3 (some (.barRd (fldReg w 13) (fldReg w 3))))
  | 8 => zeros w 0 13 (some (.evWait (fldReg w 13)))
  | 9 => zeros w 0 13 (some (.evFire (fldReg w 13)))
  | 12 => zeros w 8 5 (zeros w 0 3 (some (.mtxLock (fldReg w 13) (fldReg w 3))))
  | 13 => zeros w 8 5 (zeros w 0 3 (some (.mtxTry (fldReg w 13) (fldReg w 3))))
  | 14 => zeros w 8 5 (zeros w 0 3 (some (.mtxUnlock (fldReg w 13) (fldReg w 3))))
  | 16 => zeros w 0 3 (some (.cntInit (fldReg w 13) (fldReg w 8) (fldReg w 3)))
  | 17 => zeros w 0 3 (some (.cntAdd (fldReg w 13) (fldReg w 8) (fldReg w 3)))
  | 18 => zeros w 8 5 (zeros w 0 3 (some (.cntRd (fldReg w 13) (fldReg w 3))))
  | 19 => zeros w 0 3 (some (.cntWait (fldReg w 13) (fldReg w 8) (fldReg w 3)))
  | 24 => zeros w 8 5 (zeros w 0 3 (some (.gbar (fldReg w 13) (fldReg w 3))))
  | 28 => zeros w 8 5 (zeros w 0 3 (some (.barAlloc (fldReg w 13) (fldReg w 3))))
  | 29 => zeros w 8 5 (zeros w 0 3 (some (.cntAlloc (fldReg w 13) (fldReg w 3))))
  | 30 => zeros w 8 10 (zeros w 0 3 (some (.mtxAlloc (fldReg w 3))))
  | 32 => zeros w 8 5 (zeros w 0 3 (some (.barFree (fldReg w 13) (fldReg w 3))))
  | 33 => zeros w 8 5 (zeros w 0 3 (some (.cntFree (fldReg w 13) (fldReg w 3))))
  | 34 => zeros w 8 5 (zeros w 0 3 (some (.mtxFree (fldReg w 13) (fldReg w 3))))
  | _ => none

/-- Major 0x3B (R143). -/
def decodeRime (w : Nat) : Option Instr :=
  match fld w 18 6 with
  | 0 => zeros w 8 5 (zeros w 0 3 (some (.rimeAlloc (fldReg w 13) (fldReg w 3))))
  | 1 => zeros w 8 5 (zeros w 0 3 (some (.rimeFree (fldReg w 13) (fldReg w 3))))
  | 2 => zeros w 0 3 (some (.rimeBind (fldReg w 13) (fldReg w 8) (fldReg w 3)))
  | 3 => zeros w 0 3 (some (.rimeUnbind (fldReg w 13) (fldReg w 8) (fldReg w 3)))
  | 4 => zeros w 8 5 (zeros w 0 3 (some (.rimeSync (fldReg w 13) (fldReg w 3))))
  | 5 => zeros w 0 3 (some (.rimeRd (fldReg w 13) (fldReg w 8) (fldReg w 3)))
  | 6 => zeros w 8 5 (zeros w 0 3 (some (.rimeClr (fldReg w 13) (fldReg w 3))))
  | _ => none

/-- Major 0x3C (R143). -/
def decodeFabric (w : Nat) : Option Instr :=
  match fld w 18 6 with
  | 0 => zeros w 8 5 (zeros w 0 3 (some (.collGo (fldReg w 13) (fldReg w 3))))
  | 1 =>
    match fld w 0 3 with
    | 0 => zeros w 8 5 (some (.collWait (fldReg w 13) (fldReg w 3)))
    | 1 => zeros w 8 5 (some (.collWaitMc (fldReg w 13) (fldReg w 3)))
    | _ => none
  | 2 => zeros w 8 5 (zeros w 0 3 (some (.collAbort (fldReg w 13) (fldReg w 3))))
  | 3 => zeros w 0 3 (some (.collStx (fldReg w 13) (fldReg w 8) (fldReg w 3)))
  | 4 => zeros w 8 5 (zeros w 0 3 (some (.collReq (fldReg w 13) (fldReg w 3))))
  | 5 => zeros w 8 10 (zeros w 0 3 (some (.collTake (fldReg w 3))))
  | 8 => zeros w 0 3 (some (.grpSet (fldReg w 13) (fldReg w 8) (fldReg w 3)))
  | 9 => zeros w 8 5 (zeros w 0 3 (some (.grpClr (fldReg w 13) (fldReg w 3))))
  | 10 => zeros w 8 5 (zeros w 0 3 (some (.mcLdred (fldReg w 13) (fldReg w 3))))
  | _ => none

/-- Major 0x3D (R143). -/
def decodeRouter (w : Nat) : Option Instr :=
  match fld w 18 6 with
  | 0 => zeros w 8 5 (zeros w 0 3 (some (.aucRun (fldReg w 13) (fldReg w 3))))
  | 1 => zeros w 8 5 (zeros w 0 3 (some (.aucWait (fldReg w 13) (fldReg w 3))))
  | 2 => zeros w 0 3 (some (.aucPset (fldReg w 13) (fldReg w 8) (fldReg w 3)))
  | 3 => zeros w 0 3 (some (.aucPget (fldReg w 13) (fldReg w 8) (fldReg w 3)))
  | 4 => zeros w 8 5 (zeros w 0 3 (some (.aucPclr (fldReg w 13) (fldReg w 3))))
  | _ => none

/-- The instruction a word names by the maps of R143 to R164, before the limits that `WellFormed` checks. -/
def decodeRaw (w : Nat) : Option Instr :=
  match fld w 24 6 with
  | 0x00 => decodeSystem w
  | 0x01 => decodeImmediate w
  | 0x02 => decodeCsr w
  | 0x03 => decodeJ w
  | 0x04 => decodeJal w
  | 0x05 => decodeJalr w
  | 0x06 => decodeBeq w
  | 0x07 => decodeBne w
  | 0x08 => decodeBlt w
  | 0x09 => decodeBge w
  | 0x0A => decodeBltu w
  | 0x0B => decodeBgeu w
  | 0x0C => decodeBitTest w
  | 0x0D => decodeRep w
  | 0x10 => decodeInt w
  | 0x11 => decodeMulDiv w
  | 0x12 => decodeAddi w
  | 0x13 => decodeAndi w
  | 0x14 => decodeOri w
  | 0x15 => decodeXori w
  | 0x16 => decodeSlti w
  | 0x17 => decodeShiftImm w
  | 0x18 => decodeLui w
  | 0x19 => decodeAuipc w
  | 0x1A => decodeFp w
  | 0x1C => decodeLoad w
  | 0x1D => decodeStore w
  | 0x1E => decodeAtomic w
  | 0x1F => decodeReduce w
  | 0x20 => decodeVLoad w
  | 0x21 => decodeVStore w
  | 0x22 => decodeVInt w
  | 0x23 => decodeVLogic w
  | 0x2F => decodeVCmp w
  | 0x24 => decodeVFp w
  | 0x25 => decodeVFp w
  | 0x26 => decodeVFp w
  | 0x27 => decodeVFp w
  | 0x28 => decodeVFun w
  | 0x29 => decodeVRed w
  | 0x2A => decodeVSeg w
  | 0x2B => decodeVPerm w
  | 0x2C => decodeCvt w
  | 0x2D => decodeCvtNsat w
  | 0x2E => decodeVBlock w
  | 0x30 => decodeVCtl w
  | 0x38 => decodeMatrix w
  | 0x39 => decodeCopy w
  | 0x3A => decodeSync w
  | 0x3B => decodeRime w
  | 0x3C => decodeFabric w
  | 0x3D => decodeRouter w
  | _ => none

/-- The decoder of an encoding version (R136, R165, R167): none is a word that traps ILLEGAL. -/
def decode (ver : Nat) (w : Nat) : Option Word32 :=
  match decodeRaw w with
  | some i => if wellFormed ver ⟨fldW w, i⟩ then some ⟨fldW w, i⟩ else none
  | none => none

/-- A sum of fields, each given by its value and its lowest bit (R137). -/
def asm (base : Nat) : List (Nat × Nat) → Nat
  | [] => base
  | (v, lo) :: t => v * 2 ^ lo + asm base t

/-- The word of an instruction with W = 0, from the formats of R137 and the maps of R143 to R164; an event has none. -/
def encodeRaw : Instr → Option Nat
  | .susp a b => some (asm 0x00000003 [(a.val, 14), (b.val, 9)])
  | .spawn d a => some (asm 0x00000004 [(d.val, 19), (a.val, 14)])
  | .pause n => some (asm 0x01000000 [(n.toNat, 0)])
  | .sys n => some (asm 0x01080000 [(n.toNat, 0)])
  | .csrrw d a c => some (asm 0x02000000 [(d.val, 19), (a.val, 14), (c.toNat, 0)])
  | .csrrs d a c => some (asm 0x02001000 [(d.val, 19), (a.val, 14), (c.toNat, 0)])
  | .csrrc d a c => some (asm 0x02002000 [(d.val, 19), (a.val, 14), (c.toNat, 0)])
  | .j o => some (asm 0x03000000 [(o.toNat, 0)])
  | .jal o => some (asm 0x04000000 [(o.toNat, 0)])
  | .jalr d a i => some (asm 0x05000000 [(d.val, 19), (a.val, 14), (i.toNat, 0)])
  | .beq a b o => some (asm 0x06000000 [(a.val, 19), (b.val, 14), (o.toNat, 0)])
  | .bne a b o => some (asm 0x07000000 [(a.val, 19), (b.val, 14), (o.toNat, 0)])
  | .blt a b o => some (asm 0x08000000 [(a.val, 19), (b.val, 14), (o.toNat, 0)])
  | .bge a b o => some (asm 0x09000000 [(a.val, 19), (b.val, 14), (o.toNat, 0)])
  | .bltu a b o => some (asm 0x0A000000 [(a.val, 19), (b.val, 14), (o.toNat, 0)])
  | .bgeu a b o => some (asm 0x0B000000 [(a.val, 19), (b.val, 14), (o.toNat, 0)])
  | .bbs a n o => some (asm 0x0C001000 [(a.val, 19), (n.toNat, 13), (o.toNat, 0)])
  | .bbc a n o => some (asm 0x0C000000 [(a.val, 19), (n.toNat, 13), (o.toNat, 0)])
  | .rep a n => some (asm 0x0D000000 [(a.val, 14), (n.toNat, 0)])
  | .lpin n => some (asm 0x0D001000 [(n.toNat, 0)])
  | .add d a b => some (asm 0x10000000 [(d.val, 19), (a.val, 14), (b.val, 9)])
  | .sub d a b => some (asm 0x10000001 [(d.val, 19), (a.val, 14), (b.val, 9)])
  | .and d a b => some (asm 0x10000002 [(d.val, 19), (a.val, 14), (b.val, 9)])
  | .or d a b => some (asm 0x10000003 [(d.val, 19), (a.val, 14), (b.val, 9)])
  | .xor d a b => some (asm 0x10000004 [(d.val, 19), (a.val, 14), (b.val, 9)])
  | .sll d a b => some (asm 0x10000005 [(d.val, 19), (a.val, 14), (b.val, 9)])
  | .srl d a b => some (asm 0x10000006 [(d.val, 19), (a.val, 14), (b.val, 9)])
  | .sra d a b => some (asm 0x10000007 [(d.val, 19), (a.val, 14), (b.val, 9)])
  | .slt d a b => some (asm 0x10000008 [(d.val, 19), (a.val, 14), (b.val, 9)])
  | .sltu d a b => some (asm 0x10000009 [(d.val, 19), (a.val, 14), (b.val, 9)])
  | .min d a b => some (asm 0x1000000A [(d.val, 19), (a.val, 14), (b.val, 9)])
  | .max d a b => some (asm 0x1000000B [(d.val, 19), (a.val, 14), (b.val, 9)])
  | .minu d a b => some (asm 0x1000000C [(d.val, 19), (a.val, 14), (b.val, 9)])
  | .maxu d a b => some (asm 0x1000000D [(d.val, 19), (a.val, 14), (b.val, 9)])
  | .addw d a b => some (asm 0x10000010 [(d.val, 19), (a.val, 14), (b.val, 9)])
  | .subw d a b => some (asm 0x10000011 [(d.val, 19), (a.val, 14), (b.val, 9)])
  | .sllw d a b => some (asm 0x10000012 [(d.val, 19), (a.val, 14), (b.val, 9)])
  | .srlw d a b => some (asm 0x10000013 [(d.val, 19), (a.val, 14), (b.val, 9)])
  | .sraw d a b => some (asm 0x10000014 [(d.val, 19), (a.val, 14), (b.val, 9)])
  | .clz d a => some (asm 0x10000020 [(d.val, 19), (a.val, 14)])
  | .ctz d a => some (asm 0x10000021 [(d.val, 19), (a.val, 14)])
  | .popc d a => some (asm 0x10000022 [(d.val, 19), (a.val, 14)])
  | .mul d a b => some (asm 0x11000000 [(d.val, 19), (a.val, 14), (b.val, 9)])
  | .mulh d a b => some (asm 0x11000001 [(d.val, 19), (a.val, 14), (b.val, 9)])
  | .mulhu d a b => some (asm 0x11000002 [(d.val, 19), (a.val, 14), (b.val, 9)])
  | .mulhsu d a b => some (asm 0x11000003 [(d.val, 19), (a.val, 14), (b.val, 9)])
  | .div d a b => some (asm 0x11000004 [(d.val, 19), (a.val, 14), (b.val, 9)])
  | .divu d a b => some (asm 0x11000005 [(d.val, 19), (a.val, 14), (b.val, 9)])
  | .rem d a b => some (asm 0x11000006 [(d.val, 19), (a.val, 14), (b.val, 9)])
  | .remu d a b => some (asm 0x11000007 [(d.val, 19), (a.val, 14), (b.val, 9)])
  | .mulw d a b => some (asm 0x11000008 [(d.val, 19), (a.val, 14), (b.val, 9)])
  | .divw d a b => some (asm 0x1100000C [(d.val, 19), (a.val, 14), (b.val, 9)])
  | .divuw d a b => some (asm 0x1100000D [(d.val, 19), (a.val, 14), (b.val, 9)])
  | .remw d a b => some (asm 0x1100000E [(d.val, 19), (a.val, 14), (b.val, 9)])
  | .remuw d a b => some (asm 0x1100000F [(d.val, 19), (a.val, 14), (b.val, 9)])
  | .addi d a i => some (asm 0x12000000 [(d.val, 19), (a.val, 14), (i.toNat, 0)])
  | .andi d a i => some (asm 0x13000000 [(d.val, 19), (a.val, 14), (i.toNat, 0)])
  | .ori d a i => some (asm 0x14000000 [(d.val, 19), (a.val, 14), (i.toNat, 0)])
  | .xori d a i => some (asm 0x15000000 [(d.val, 19), (a.val, 14), (i.toNat, 0)])
  | .slti d a i => some (asm 0x16000000 [(d.val, 19), (a.val, 14), (i.toNat, 0)])
  | .slli d a n => some (asm 0x17000000 [(d.val, 19), (a.val, 14), (n.toNat, 0)])
  | .srli d a n => some (asm 0x17001000 [(d.val, 19), (a.val, 14), (n.toNat, 0)])
  | .srai d a n => some (asm 0x17002000 [(d.val, 19), (a.val, 14), (n.toNat, 0)])
  | .lui d i => some (asm 0x18000000 [(d.val, 19), (i.toNat, 0)])
  | .auipc d i => some (asm 0x19000000 [(d.val, 19), (i.toNat, 0)])
  | .fadd d a b r t => some (asm 0x1A000000 [(d.val, 19), (a.val, 14), (b.val, 9), (r.code, 6), (t.code, 3)])
  | .fsub d a b r t => some (asm 0x1A000001 [(d.val, 19), (a.val, 14), (b.val, 9), (r.code, 6), (t.code, 3)])
  | .fmul d a b r t => some (asm 0x1A000002 [(d.val, 19), (a.val, 14), (b.val, 9), (r.code, 6), (t.code, 3)])
  | .fdiv d a b r t => some (asm 0x1A000003 [(d.val, 19), (a.val, 14), (b.val, 9), (r.code, 6), (t.code, 3)])
  | .fsqrt d a r t => some (asm 0x1A000004 [(d.val, 19), (a.val, 14), (r.code, 6), (t.code, 3)])
  | .fma d a b r t => some (asm 0x1A000005 [(d.val, 19), (a.val, 14), (b.val, 9), (r.code, 6), (t.code, 3)])
  | .fmin d a b t => some (asm 0x1A000006 [(d.val, 19), (a.val, 14), (b.val, 9), (t.code, 3)])
  | .fmax d a b t => some (asm 0x1A000046 [(d.val, 19), (a.val, 14), (b.val, 9), (t.code, 3)])
  | .feq d a b t => some (asm 0x1A000086 [(d.val, 19), (a.val, 14), (b.val, 9), (t.code, 3)])
  | .flt d a b t => some (asm 0x1A0000C6 [(d.val, 19), (a.val, 14), (b.val, 9), (t.code, 3)])
  | .fle d a b t => some (asm 0x1A000106 [(d.val, 19), (a.val, 14), (b.val, 9), (t.code, 3)])
  | .fcvt d a u r t => some (asm 0x1A000007 [(d.val, 19), (a.val, 14), (u.code, 9), (r.code, 6), (t.code, 3)])
  | .ld d a k h o => some (asm 0x1C000000 [(d.val, 19), (a.val, 14), (k.code, 11), (h.code, 9), (o.toNat, 0)])
  | .pf a h o => some (asm 0x1C003800 [(a.val, 14), (h.code, 9), (o.toNat, 0)])
  | .st s a k h o => some (asm 0x1D000000 [(s.val, 19), (a.val, 14), (k.code, 11), (h.code, 9), (o.toNat, 0)])
  | .ldAcq d a h z s => some (asm 0x1E000000 [(d.val, 19), (a.val, 14), (h.code, 7), (z.code, 3), (s.code, 0)])
  | .stRel a b h z s => some (asm 0x1E000020 [(a.val, 14), (b.val, 9), (h.code, 7), (z.relCode, 3), (s.code, 0)])
  | .amoadd d a b h z => some (asm 0x1E000040 [(d.val, 19), (a.val, 14), (b.val, 9), (h.code, 7), (z.code, 0)])
  | .amoand d a b h z => some (asm 0x1E000044 [(d.val, 19), (a.val, 14), (b.val, 9), (h.code, 7), (z.code, 0)])
  | .amoor d a b h z => some (asm 0x1E000048 [(d.val, 19), (a.val, 14), (b.val, 9), (h.code, 7), (z.code, 0)])
  | .amoxor d a b h z => some (asm 0x1E00004C [(d.val, 19), (a.val, 14), (b.val, 9), (h.code, 7), (z.code, 0)])
  | .amomin d a b h z => some (asm 0x1E000050 [(d.val, 19), (a.val, 14), (b.val, 9), (h.code, 7), (z.code, 0)])
  | .amomax d a b h z => some (asm 0x1E000054 [(d.val, 19), (a.val, 14), (b.val, 9), (h.code, 7), (z.code, 0)])
  | .amominu d a b h z => some (asm 0x1E000058 [(d.val, 19), (a.val, 14), (b.val, 9), (h.code, 7), (z.code, 0)])
  | .amomaxu d a b h z => some (asm 0x1E00005C [(d.val, 19), (a.val, 14), (b.val, 9), (h.code, 7), (z.code, 0)])
  | .amoswap d a b h z => some (asm 0x1E000060 [(d.val, 19), (a.val, 14), (b.val, 9), (h.code, 7), (z.code, 0)])
  | .amocas d a b h z => some (asm 0x1E000064 [(d.val, 19), (a.val, 14), (b.val, 9), (h.code, 7), (z.code, 0)])
  | .famoadd d a b h z => some (asm 0x1E000068 [(d.val, 19), (a.val, 14), (b.val, 9), (h.code, 7), (z.code, 0)])
  | .redAdd a b h f => some (asm 0x1F000000 [(a.val, 14), (b.val, 9), (h.code, 7), (f.code, 0)])
  | .redMin a b h f => some (asm 0x1F000010 [(a.val, 14), (b.val, 9), (h.code, 7), (f.code, 0)])
  | .redMax a b h f => some (asm 0x1F000020 [(a.val, 14), (b.val, 9), (h.code, 7), (f.code, 0)])
  | .cwb a b s => some (asm 0x1F000050 [(a.val, 14), (b.val, 9), (s.code, 0)])
  | .cinv a b s => some (asm 0x1F000060 [(a.val, 14), (b.val, 9), (s.code, 0)])
  | .cwbinv a b s => some (asm 0x1F000070 [(a.val, 14), (b.val, 9), (s.code, 0)])
  | .vld d a m h z => some (asm 0x20000000 [(d.val, 19), (a.val, 14), (m.val, 6), (h.code, 4), (z.code, 0)])
  | .vlds d a b m h z => some (asm 0x20000004 [(d.val, 19), (a.val, 14), (b.val, 9), (m.val, 6), (h.code, 4), (z.code, 0)])
  | .vldx d a b m h z => some (asm 0x20000008 [(d.val, 19), (a.val, 14), (b.val, 9), (m.val, 6), (h.code, 4), (z.code, 0)])
  | .vldl d a m h z => some (asm 0x2000000C [(d.val, 19), (a.val, 14), (m.val, 6), (h.code, 4), (z.code, 0)])
  | .vst d a m h z => some (asm 0x21000000 [(d.val, 19), (a.val, 14), (m.val, 6), (h.code, 4), (z.code, 0)])
  | .vsts d a b m h z => some (asm 0x21000004 [(d.val, 19), (a.val, 14), (b.val, 9), (m.val, 6), (h.code, 4), (z.code, 0)])
  | .vstx d a b m h z => some (asm 0x21000008 [(d.val, 19), (a.val, 14), (b.val, 9), (m.val, 6), (h.code, 4), (z.code, 0)])
  | .vstl d a m h z => some (asm 0x2100000C [(d.val, 19), (a.val, 14), (m.val, 6), (h.code, 4), (z.code, 0)])
  | .vadd d a b m t => some (asm 0x22000000 [(d.val, 19), (a.val, 14), (b.val, 9), (m.val, 6), (t.code, 0)])
  | .vsub d a b m t => some (asm 0x22000008 [(d.val, 19), (a.val, 14), (b.val, 9), (m.val, 6), (t.code, 0)])
  | .vmul d a b m t => some (asm 0x22000010 [(d.val, 19), (a.val, 14), (b.val, 9), (m.val, 6), (t.code, 0)])
  | .vmulh d a b m t => some (asm 0x22000018 [(d.val, 19), (a.val, 14), (b.val, 9), (m.val, 6), (t.code, 0)])
  | .vmin d a b m t => some (asm 0x22000020 [(d.val, 19), (a.val, 14), (b.val, 9), (m.val, 6), (t.code, 0)])
  | .vmax d a b m t => some (asm 0x22000028 [(d.val, 19), (a.val, 14), (b.val, 9), (m.val, 6), (t.code, 0)])
  | .vadds d a b m t => some (asm 0x22000030 [(d.val, 19), (a.val, 14), (b.val, 9), (m.val, 6), (t.code, 0)])
  | .vsubs d a b m t => some (asm 0x22000038 [(d.val, 19), (a.val, 14), (b.val, 9), (m.val, 6), (t.code, 0)])
  | .vand d a b m t => some (asm 0x23000000 [(d.val, 19), (a.val, 14), (b.val, 9), (m.val, 6), (t.code, 0)])
  | .vor d a b m t => some (asm 0x23000008 [(d.val, 19), (a.val, 14), (b.val, 9), (m.val, 6), (t.code, 0)])
  | .vxor d a b m t => some (asm 0x23000010 [(d.val, 19), (a.val, 14), (b.val, 9), (m.val, 6), (t.code, 0)])
  | .vsll d a b m t => some (asm 0x23000018 [(d.val, 19), (a.val, 14), (b.val, 9), (m.val, 6), (t.code, 0)])
  | .vsr d a b m t => some (asm 0x23000020 [(d.val, 19), (a.val, 14), (b.val, 9), (m.val, 6), (t.code, 0)])
  | .vdiv d a b m t => some (asm 0x23000028 [(d.val, 19), (a.val, 14), (b.val, 9), (m.val, 6), (t.code, 0)])
  | .vrem d a b m t => some (asm 0x23000030 [(d.val, 19), (a.val, 14), (b.val, 9), (m.val, 6), (t.code, 0)])
  | .vceq d a b m t => some (asm 0x2F000000 [(d.val, 19), (a.val, 14), (b.val, 9), (m.val, 6), (t.code, 0)])
  | .vcne d a b m t => some (asm 0x2F000008 [(d.val, 19), (a.val, 14), (b.val, 9), (m.val, 6), (t.code, 0)])
  | .vclt d a b m t => some (asm 0x2F000010 [(d.val, 19), (a.val, 14), (b.val, 9), (m.val, 6), (t.code, 0)])
  | .vcge d a b m t => some (asm 0x2F000018 [(d.val, 19), (a.val, 14), (b.val, 9), (m.val, 6), (t.code, 0)])
  | .vcle d a b m t => some (asm 0x2F000020 [(d.val, 19), (a.val, 14), (b.val, 9), (m.val, 6), (t.code, 0)])
  | .vcgt d a b m t => some (asm 0x2F000028 [(d.val, 19), (a.val, 14), (b.val, 9), (m.val, 6), (t.code, 0)])
  | .vfadd t d a b m r => some (asm 0x24000000 [(t.code, 24), (d.val, 19), (a.val, 14), (b.val, 9), (m.val, 6), (r.code, 3)])
  | .vfsub t d a b m r => some (asm 0x24000001 [(t.code, 24), (d.val, 19), (a.val, 14), (b.val, 9), (m.val, 6), (r.code, 3)])
  | .vfmul t d a b m r => some (asm 0x24000002 [(t.code, 24), (d.val, 19), (a.val, 14), (b.val, 9), (m.val, 6), (r.code, 3)])
  | .vfdiv t d a b m r => some (asm 0x24000003 [(t.code, 24), (d.val, 19), (a.val, 14), (b.val, 9), (m.val, 6), (r.code, 3)])
  | .vfma t d a b m r => some (asm 0x24000004 [(t.code, 24), (d.val, 19), (a.val, 14), (b.val, 9), (m.val, 6), (r.code, 3)])
  | .vfms t d a b m r => some (asm 0x24000005 [(t.code, 24), (d.val, 19), (a.val, 14), (b.val, 9), (m.val, 6), (r.code, 3)])
  | .vfnma t d a b m r => some (asm 0x24000006 [(t.code, 24), (d.val, 19), (a.val, 14), (b.val, 9), (m.val, 6), (r.code, 3)])
  | .vfmin t d a b m => some (asm 0x24000007 [(t.code, 24), (d.val, 19), (a.val, 14), (b.val, 9), (m.val, 6)])
  | .vfmax t d a b m => some (asm 0x2400000F [(t.code, 24), (d.val, 19), (a.val, 14), (b.val, 9), (m.val, 6)])
  | .vfeq t d a b m => some (asm 0x24000017 [(t.code, 24), (d.val, 19), (a.val, 14), (b.val, 9), (m.val, 6)])
  | .vflt t d a b m => some (asm 0x2400001F [(t.code, 24), (d.val, 19), (a.val, 14), (b.val, 9), (m.val, 6)])
  | .vfle t d a b m => some (asm 0x24000027 [(t.code, 24), (d.val, 19), (a.val, 14), (b.val, 9), (m.val, 6)])
  | .vfun t d a b m => some (asm 0x2400002F [(t.code, 24), (d.val, 19), (a.val, 14), (b.val, 9), (m.val, 6)])
  | .vfabs t d a m => some (asm 0x24000037 [(t.code, 24), (d.val, 19), (a.val, 14), (m.val, 6)])
  | .vfneg t d a m => some (asm 0x2400003F [(t.code, 24), (d.val, 19), (a.val, 14), (m.val, 6)])
  | .vfsqrt d a m r t => some (asm 0x28000000 [(d.val, 19), (a.val, 14), (m.val, 6), (r.code, 3), (t.code, 0)])
  | .vfrcp d a m r t => some (asm 0x28000200 [(d.val, 19), (a.val, 14), (m.val, 6), (r.code, 3), (t.code, 0)])
  | .vfrsqrt d a m r t => some (asm 0x28000400 [(d.val, 19), (a.val, 14), (m.val, 6), (r.code, 3), (t.code, 0)])
  | .vfexp2 d a m r t => some (asm 0x28000600 [(d.val, 19), (a.val, 14), (m.val, 6), (r.code, 3), (t.code, 0)])
  | .vflog2 d a m r t => some (asm 0x28000800 [(d.val, 19), (a.val, 14), (m.val, 6), (r.code, 3), (t.code, 0)])
  | .vfexp d a m r t => some (asm 0x28000A00 [(d.val, 19), (a.val, 14), (m.val, 6), (r.code, 3), (t.code, 0)])
  | .vflog d a m r t => some (asm 0x28000C00 [(d.val, 19), (a.val, 14), (m.val, 6), (r.code, 3), (t.code, 0)])
  | .vftanh d a m r t => some (asm 0x28000E00 [(d.val, 19), (a.val, 14), (m.val, 6), (r.code, 3), (t.code, 0)])
  | .vfsigm d a m r t => some (asm 0x28001000 [(d.val, 19), (a.val, 14), (m.val, 6), (r.code, 3), (t.code, 0)])
  | .vfsin d a m r t => some (asm 0x28001200 [(d.val, 19), (a.val, 14), (m.val, 6), (r.code, 3), (t.code, 0)])
  | .vfcos d a m r t => some (asm 0x28001400 [(d.val, 19), (a.val, 14), (m.val, 6), (r.code, 3), (t.code, 0)])
  | .vredsum d a r m t => some (asm 0x29000000 [(d.val, 19), (a.val, 14), (r.code, 9), (m.val, 6), (t.code, 0)])
  | .vredmax d a m t => some (asm 0x29000008 [(d.val, 19), (a.val, 14), (m.val, 6), (t.code, 0)])
  | .vredmin d a m t => some (asm 0x29000010 [(d.val, 19), (a.val, 14), (m.val, 6), (t.code, 0)])
  | .vscan d a r m t => some (asm 0x29000018 [(d.val, 19), (a.val, 14), (r.code, 9), (m.val, 6), (t.code, 0)])
  | .vscanx d a r m t => some (asm 0x29000020 [(d.val, 19), (a.val, 14), (r.code, 9), (m.val, 6), (t.code, 0)])
  | .vsgsum d a b m t => some (asm 0x2A000000 [(d.val, 19), (a.val, 14), (b.val, 9), (m.val, 6), (t.code, 0)])
  | .vsgmax d a b m t => some (asm 0x2A000008 [(d.val, 19), (a.val, 14), (b.val, 9), (m.val, 6), (t.code, 0)])
  | .vsgmin d a b m t => some (asm 0x2A000010 [(d.val, 19), (a.val, 14), (b.val, 9), (m.val, 6), (t.code, 0)])
  | .vsgscan d a b m t => some (asm 0x2A000018 [(d.val, 19), (a.val, 14), (b.val, 9), (m.val, 6), (t.code, 0)])
  | .vsgbcast d a b m t => some (asm 0x2A000020 [(d.val, 19), (a.val, 14), (b.val, 9), (m.val, 6), (t.code, 0)])
  | .vsgrefill d a b t => some (asm 0x2A000028 [(d.val, 19), (a.val, 14), (b.val, 9), (t.code, 0)])
  | .vperm d a b m z => some (asm 0x2B000000 [(d.val, 19), (a.val, 14), (b.val, 9), (m.val, 6), (z.code, 0)])
  | .vslideup d a b m z => some (asm 0x2B000008 [(d.val, 19), (a.val, 14), (b.val, 9), (m.val, 6), (z.code, 0)])
  | .vslidedn d a b m z => some (asm 0x2B000010 [(d.val, 19), (a.val, 14), (b.val, 9), (m.val, 6), (z.code, 0)])
  | .vbcast d a m z => some (asm 0x2B000018 [(d.val, 19), (a.val, 14), (m.val, 6), (z.code, 0)])
  | .vmvxv d a b z => some (asm 0x2B000020 [(d.val, 19), (a.val, 14), (b.val, 9), (z.code, 0)])
  | .vmvvx d a b z => some (asm 0x2B000028 [(d.val, 19), (a.val, 14), (b.val, 9), (z.code, 0)])
  | .vid d m z => some (asm 0x2B000030 [(d.val, 19), (m.val, 6), (z.code, 0)])
  | .vsel d a b m z => some (asm 0x2B000038 [(d.val, 19), (a.val, 14), (b.val, 9), (m.val, 6), (z.code, 0)])
  | .vcvt d a e r m s => some (asm 0x2C000000 [(d.val, 19), (a.val, 14), (e.code, 10), (r.code / 4, 9), (r.code % 4, 0), (m.val, 6), (s.code, 2)])
  | .vcvtNsat d a r m s => some (asm 0x2D001000 [(d.val, 19), (a.val, 14), (r.code / 4, 9), (r.code % 4, 0), (m.val, 6), (s.code, 2)])
  | .vmxcvt d a b m f => some (asm 0x2E000000 [(d.val, 19), (a.val, 14), (b.val, 9), (m.val, 6), (f.code, 0)])
  | .vmxext d a b m f => some (asm 0x2E000010 [(d.val, 19), (a.val, 14), (b.val, 9), (m.val, 6), (f.code, 0)])
  | .vqcvt d a b m f => some (asm 0x2E000020 [(d.val, 19), (a.val, 14), (b.val, 9), (m.val, 6), (f.code, 0)])
  | .vqgext d a b m f => some (asm 0x2E000030 [(d.val, 19), (a.val, 14), (b.val, 9), (m.val, 6), (f.code, 0)])
  | .vwid4I8I4 d a m => some (asm 0x2E00003B [(d.val, 19), (a.val, 14), (m.val, 6)])
  | .vwid4N8N4 d a m => some (asm 0x2E00023B [(d.val, 19), (a.val, 14), (m.val, 6)])
  | .vnar4I4I8 d a m => some (asm 0x2E00043B [(d.val, 19), (a.val, 14), (m.val, 6)])
  | .vnar4N4N8 d a m => some (asm 0x2E00063B [(d.val, 19), (a.val, 14), (m.val, 6)])
  | .vclaim d a => some (asm 0x30000000 [(d.val, 19), (a.val, 14)])
  | .vsbindRd n a => some (asm 0x30C00002 [(n.val, 19), (a.val, 14)])
  | .vsbindWr n a => some (asm 0x30C00003 [(n.val, 19), (a.val, 14)])
  | .vsunbind n => some (asm 0x30C00004 [(n.val, 19)])
  | .mxCfg a k => some (asm 0x38000000 [(a.val, 13), (k.val, 0)])
  | .mxTask a b d => some (asm 0x38040000 [(a.val, 13), (b.val, 8), (d.val, 3)])
  | .mxWait a d => some (asm 0x38080000 [(a.val, 13), (d.val, 3)])
  | .mxZero a d => some (asm 0x380C0000 [(a.val, 13), (d.val, 3)])
  | .ringCfg a n => some (asm 0x38200000 [(a.val, 13), (n.val, 8)])
  | .ringSt n d => some (asm 0x38240000 [(n.val, 8), (d.val, 3)])
  | .ringReset n d => some (asm 0x38280000 [(n.val, 8), (d.val, 3)])
  | .cpGo a b => some (asm 0x39000000 [(a.val, 13), (b.val, 8)])
  | .cpSet a k => some (asm 0x39040000 [(a.val, 13), (k.val, 0)])
  | .cpGet d k => some (asm 0x39080000 [(d.val, 3), (k.val, 0)])
  | .cpWait d => some (asm 0x390C0000 [(d.val, 3)])
  | .barInit a b d => some (asm 0x3A000000 [(a.val, 13), (b.val, 8), (d.val, 3)])
  | .barInitF a b d => some (asm 0x3A000001 [(a.val, 13), (b.val, 8), (d.val, 3)])
  | .barArr a b d => some (asm 0x3A040000 [(a.val, 13), (b.val, 8), (d.val, 3)])
  | .barWait a b d => some (asm 0x3A080000 [(a.val, 13), (b.val, 8), (d.val, 3)])
  | .barArrw a b d => some (asm 0x3A0C0000 [(a.val, 13), (b.val, 8), (d.val, 3)])
  | .barKill a d => some (asm 0x3A100000 [(a.val, 13), (d.val, 3)])
  | .barRd a d => some (asm 0x3A140000 [(a.val, 13), (d.val, 3)])
  | .evWait a => some (asm 0x3A200000 [(a.val, 13)])
  | .evFire a => some (asm 0x3A240000 [(a.val, 13)])
  | .mtxLock a d => some (asm 0x3A300000 [(a.val, 13), (d.val, 3)])
  | .mtxTry a d => some (asm 0x3A340000 [(a.val, 13), (d.val, 3)])
  | .mtxUnlock a d => some (asm 0x3A380000 [(a.val, 13), (d.val, 3)])
  | .cntInit a b d => some (asm 0x3A400000 [(a.val, 13), (b.val, 8), (d.val, 3)])
  | .cntAdd a b d => some (asm 0x3A440000 [(a.val, 13), (b.val, 8), (d.val, 3)])
  | .cntRd a d => some (asm 0x3A480000 [(a.val, 13), (d.val, 3)])
  | .cntWait a b d => some (asm 0x3A4C0000 [(a.val, 13), (b.val, 8), (d.val, 3)])
  | .gbar a d => some (asm 0x3A600000 [(a.val, 13), (d.val, 3)])
  | .barAlloc a d => some (asm 0x3A700000 [(a.val, 13), (d.val, 3)])
  | .cntAlloc a d => some (asm 0x3A740000 [(a.val, 13), (d.val, 3)])
  | .mtxAlloc d => some (asm 0x3A780000 [(d.val, 3)])
  | .barFree a d => some (asm 0x3A800000 [(a.val, 13), (d.val, 3)])
  | .cntFree a d => some (asm 0x3A840000 [(a.val, 13), (d.val, 3)])
  | .mtxFree a d => some (asm 0x3A880000 [(a.val, 13), (d.val, 3)])
  | .rimeAlloc a d => some (asm 0x3B000000 [(a.val, 13), (d.val, 3)])
  | .rimeFree a d => some (asm 0x3B040000 [(a.val, 13), (d.val, 3)])
  | .rimeBind a b d => some (asm 0x3B080000 [(a.val, 13), (b.val, 8), (d.val, 3)])
  | .rimeUnbind a b d => some (asm 0x3B0C0000 [(a.val, 13), (b.val, 8), (d.val, 3)])
  | .rimeSync a d => some (asm 0x3B100000 [(a.val, 13), (d.val, 3)])
  | .rimeRd a b d => some (asm 0x3B140000 [(a.val, 13), (b.val, 8), (d.val, 3)])
  | .rimeClr a d => some (asm 0x3B180000 [(a.val, 13), (d.val, 3)])
  | .collGo a d => some (asm 0x3C000000 [(a.val, 13), (d.val, 3)])
  | .collWait a d => some (asm 0x3C040000 [(a.val, 13), (d.val, 3)])
  | .collWaitMc a d => some (asm 0x3C040001 [(a.val, 13), (d.val, 3)])
  | .collAbort a d => some (asm 0x3C080000 [(a.val, 13), (d.val, 3)])
  | .collStx a b d => some (asm 0x3C0C0000 [(a.val, 13), (b.val, 8), (d.val, 3)])
  | .collReq a d => some (asm 0x3C100000 [(a.val, 13), (d.val, 3)])
  | .collTake d => some (asm 0x3C140000 [(d.val, 3)])
  | .grpSet a b d => some (asm 0x3C200000 [(a.val, 13), (b.val, 8), (d.val, 3)])
  | .grpClr a d => some (asm 0x3C240000 [(a.val, 13), (d.val, 3)])
  | .mcLdred a d => some (asm 0x3C280000 [(a.val, 13), (d.val, 3)])
  | .aucRun a d => some (asm 0x3D000000 [(a.val, 13), (d.val, 3)])
  | .aucWait a d => some (asm 0x3D040000 [(a.val, 13), (d.val, 3)])
  | .aucPset a b d => some (asm 0x3D080000 [(a.val, 13), (b.val, 8), (d.val, 3)])
  | .aucPget a b d => some (asm 0x3D0C0000 [(a.val, 13), (b.val, 8), (d.val, 3)])
  | .aucPclr a d => some (asm 0x3D100000 [(a.val, 13), (d.val, 3)])
  | .exit  => some (asm 0x00000001 [])
  | .yield  => some (asm 0x00000002 [])
  | .brk  => some (asm 0x00000005 [])
  | .fenceAcqCore  => some (asm 0x00000020 [])
  | .fenceAcqFloe  => some (asm 0x00000021 [])
  | .fenceAcqDie  => some (asm 0x00000022 [])
  | .fenceAcqPkg  => some (asm 0x00000023 [])
  | .fenceAcqSys  => some (asm 0x00000024 [])
  | .fenceRelCore  => some (asm 0x00000028 [])
  | .fenceRelFloe  => some (asm 0x00000029 [])
  | .fenceRelDie  => some (asm 0x0000002A [])
  | .fenceRelPkg  => some (asm 0x0000002B [])
  | .fenceRelSys  => some (asm 0x0000002C [])
  | .fenceScCore  => some (asm 0x00000030 [])
  | .fenceScFloe  => some (asm 0x00000031 [])
  | .fenceScDie  => some (asm 0x00000032 [])
  | .fenceScPkg  => some (asm 0x00000033 [])
  | .fenceScSys  => some (asm 0x00000034 [])
  | .lunpin  => some (asm 0x0D002000 [])
  | .vfree  => some (asm 0x30000001 [])
  | _ => none

/-- The word of an instruction and its stall count (R136). -/
def encode (x : Word32) : Option Nat := (encodeRaw x.instr).map fun n => x.w.val * 2 ^ 30 + n

/-- The bytes of an instruction word as memory holds them, little-endian (R136). -/
def wordBytes (w : Nat) : List Byte :=
  [BitVec.ofNat 8 (fld w 0 8), BitVec.ofNat 8 (fld w 8 8), BitVec.ofNat 8 (fld w 16 8), BitVec.ofNat 8 (fld w 24 8)]

/-- A word from four bytes at rising addresses, little-endian (R136). -/
def bytesWord (b0 b1 b2 b3 : Byte) : Nat :=
  b0.toNat + b1.toNat * 2 ^ 8 + b2.toNat * 2 ^ 16 + b3.toNat * 2 ^ 24

/-- The instruction that the decoder of encoding version 3 reads from a word numbered as the opcode table numbers it:
every instruction is one 32-bit word (R136), stored little-endian and read back. -/
def decodeTableWord (nbits w : Nat) : Option Instr :=
  let v := w % 2 ^ nbits
  (decode 3 (bytesWord (BitVec.ofNat 8 (fld v 0 8)) (BitVec.ofNat 8 (fld v 8 8)) (BitVec.ofNat 8 (fld v 16 8))
    (BitVec.ofNat 8 (fld v 24 8)))).map (·.instr)

end Sys2Proof
end

