-- ==== Sys2Proof/Config.lean ====
section
/-! DEFINITION. What the spec leaves open: values with no body, about which nothing can be proved, and the sizes
that the headline table fixes (R6, R11). -/

namespace Sys2Proof

/-- A bit that the spec leaves open: which of the old and the new value an uncovered operand reads with `chk` = 0
(R141). The argument is the state's counter of free values. -/
opaque Config.freeBit : Nat → Bool

/-- A vector register's contents after its port binding ends (R217: undefined until written). -/
opaque Config.freeVec : Nat → BitVec 2048

/-- Whether a tile task reads the old value of an element of a claimed tile that was written while the task was queued or ran
(R291). The arguments are the state's counter of free values, the tile's storage key and the element's number. -/
opaque Config.readsOld : Nat → Nat → Nat → Bool

/-- A 64-bit value the spec leaves open. -/
opaque Config.freeWord : Nat → Word

/-- The SHA-256 of the public key that the fuses accept (R332). -/
opaque Config.fuseHash : BitVec 256

/-- The bytes of the tenant table whose SHA-256 a report gives (R334): the spec gives them no layout. -/
opaque Config.tableBytes : List TenantCfg → List Byte

/-- The public key of a boot (R334), by the leaf of the identity key that certifies it. -/
opaque Config.bootKey : Nat → BitVec 448

/-- The signature of a message under the identity key, and under a boot's key, with a leaf (R334). -/
opaque Config.identitySignature : Nat → List Byte → List Byte
opaque Config.bootSignature : Nat → Nat → List Byte → List Byte

/-- The fabric port from which a package's switch first tries to reach a node (R306): the spec gives no routing. -/
opaque Config.route : Nat → Nat → Nat

/-- The die of a core (R8). -/
def dieOfCore (c : Nat) : Nat := 2 * (c / 64 / 16) + c % 64 / 32

/-- The floe of a core (R9). -/
def floeOfCore (c : Nat) : Nat :=
  dieOfCore c * 64 + c / 64 % 16 / 2 * 8 + c % 64 % 32 / 4

/-- A core's number within its floe (R9). -/
def coreInFloe (c : Nat) : Nat := c / 64 % 2 * 4 + c % 4

/-- The core with a number within a floe (R9): the inverse of `floeOfCore` and `coreInFloe`. -/
def coreOfFloe (f i : Nat) : Nat :=
  let d := f / 64
  let y := d / 2 * 16 + f % 64 / 8 * 2 + i / 4
  let x := d % 2 * 32 + f % 8 * 4 + i % 4
  y * 64 + x

/-- The voltage/frequency island of a floe (R10). -/
def islandOfFloe (f : Nat) : Nat := f / 64 * 32 + f % 64 / 8 * 4 + f % 8 / 2

/-- The two floes of an island, the even local column first (R10, R290). -/
def floesOfIsland (i : Nat) : Nat × Nat :=
  let f := i / 32 * 64 + i % 32 / 4 * 8 + i % 4 * 2
  (f, f + 1)

theorem coreInFloe_lt (c : Nat) : coreInFloe c < 8 := by unfold coreInFloe; omega

end Sys2Proof
end

