-- ==== Sys2Proof/Machine/State.lean ====
section
/-! DEFINITION. The state of the machine as plain data: every piece of state that the spec gives the Z4, the fault and
refusal reasons, and the state after reset. -/

namespace Sys2Proof.Machine

set_option linter.unusedVariables false

/-- The machine never stops with a fault: every failure that the spec describes is a trap (R347), a status (R234) or a
halted ring (R381), all of which are next states. -/
inductive Fault where
  /-- A turn named an instruction word in place of an agent's step (`Turn.happen`): raised by `step` alone. Safe. -/
  | notAnEvent
  deriving DecidableEq, Repr

/-- Why an instruction has no meaning. -/
inductive Refusal where
  /-- Raised by an arm of `exec` that has no meaning yet. Safe: no claim can be proved of what does not run. -/
  | notModelled (mnemonic : String)
  deriving DecidableEq, Repr

/-- Bytes by storage key in rising order, none of them 0, which is what an unlisted key reads as. -/
abbrev Memory := List Host.Cell

/-- The trap causes (R347). -/
inductive Cause where
  | illegal | priv | misalign | page | prot | syncwin | nolanes | stall | rescale | brk | step | engine | poison
  | sys | watch
  deriving DecidableEq, Repr

/-- A fixed-latency result whose credit is still positive (R139 to R142): the register (bit 5 set for a vector
register, as R347 reports it), the credit, the value before it, and whether it has landed in time. -/
structure Pend where
  reg    : Nat
  credit : Nat
  old    : BitVec 2048
  landed : Bool
  deriving DecidableEq, Repr

/-- An active repetition (R180): first word's address, words in the body, iterations left counting this one, and how
many iterations have completed (R338). -/
structure Rep where
  start : Word
  len   : Nat
  left  : Word
  iter  : Nat
  deriving DecidableEq, Repr

/-- A loop-buffer pin (R182): first address, the words, and how often each has executed (R338). -/
structure Pin where
  start : Word
  words : List Lane
  runs  : List Nat
  deriving DecidableEq, Repr

/-- What kind of memory an access reaches (R64, R66, R74). -/
inductive Cls where
  | bank | hc | swc | prv | peer
  deriving DecidableEq, Repr

/-- One element access of a vector load or store that is still to be performed (R214): its index, address, physical or SRAM
key, class, and the value that a store writes. -/
structure VElem where
  idx : Nat
  a   : Nat
  key : Nat
  cls : Cls
  val : Nat
  deriving DecidableEq, Repr

/-- A vector load or store whose element accesses have been performed in part (R214): those that remain, in order, the
values loaded so far, and the mask. -/
structure VPart where
  left : List VElem
  got  : List (Nat × Nat)
  mask : Nat
  deriving DecidableEq, Repr

/-- A failure record of a slot (R355), with the cycle of issue of its operation. -/
structure Fail where
  since  : Nat
  corr   : Nat
  status : Nat
  folded : Nat
  addr   : Nat
  /-- The accumulator of a tile task, none for a copy: what a wait must cover (R236). -/
  tile   : Option Nat
  deriving DecidableEq, Repr

/-- A vector fetched ahead by a read port, or a fetch that failed (R218, R219). -/
structure Fetched where
  idx   : Nat
  data  : BitVec 2048
  te    : Nat
  fail  : Option (Cause × Nat)
  deriving DecidableEq, Repr

/-- A stream port binding (R73, R216 to R220). -/
structure Port where
  desc   : Nat
  write  : Bool
  base   : Word
  stride : Word
  count  : Nat
  hint   : Nat
  /-- Vectors consumed, or performed by a write port. -/
  done   : Nat
  /-- Vectors pushed so far, past the end and discarded ones included. -/
  pushed : Nat
  ovf    : Bool
  flt    : Bool
  /-- A read port's vectors fetched ahead, oldest first (at most 8). -/
  ahead  : List Fetched
  /-- A write port's vectors pushed and not yet performed: the vector and Ti, oldest first. -/
  queue  : List (BitVec 2048 × Nat)
  /-- A write port's failure not yet reported: the cause and address (R219). -/
  fail   : Option (Cause × Nat)
  /-- The latest order point of the port's engine operations (R220). -/
  te     : Nat
  deriving DecidableEq, Repr

/-- Why a slot that holds a thread does not go on to its next instruction (R39, R43, R81, R82, R76, R258, R361). -/
inductive Wait where
  | none
  /-- A walk for a virtual address is pending (R351), on behalf of an element of a vector access. -/
  | walk (va : Nat) (elem : Option Nat)
  /-- The page of this address is being expanded (R82, R354). -/
  | expand (va : Nat) (elem : Option Nat)
  /-- The page at this address is in transition (R76, R354). -/
  | trans (page : Nat)
  /-- `susp` with no parking storage (R361). -/
  | storage
  /-- A wait for an engine, a queue or a fabric operation: the instruction is executed again (R258, R287). -/
  | poll
  /-- A walk or an expansion is over: the slot is ready, and the instruction is executed again (R351, R354). -/
  | retry
  /-- Gated on a barrier object for a phase; the status register; order of waiting (R252). -/
  | bar (handle phase rd seq : Nat)
  /-- Gated on an event-unit line (R197). -/
  | line (handle seq : Nat)
  /-- Queued on a mutex (R255). -/
  | mtx (handle rd seq : Nat)
  /-- Gated on a counter for a threshold (R256). -/
  | cnt (handle thr rd seq : Nat)
  /-- Gated on the launch's global barrier (R257). -/
  | gbar (phase rd seq : Nat)
  /-- `coll.take` on an empty mailbox (R266). -/
  | take (rd seq : Nat)
  /-- Gated on a fabric operation at an address: 0 a block, 1 a descriptor, 2 a router run (R275, R285). -/
  | fab (kind addr rd : Nat)
  /-- Released, its wake-up message not yet arrived (R43): the object, line or engine that sent it, the cycle, and its place
  among those sent in the cycle (R100). -/
  | waking (src at_ seq : Nat)
  /-- Killed, its ports' pushes still to be performed before its slot frees (R196, R199, R220). -/
  | dying (c : Cause)
  /-- A saved wait that has ended while its launch was out (R55): the status register, the status and the timestamp. -/
  | logged (rd : Nat) (status : Word) (ts : Nat)
  /-- A saved wait that has ended while its launch was out, its event held back at the unit that sends it because the arrival
  log has no room (R55). -/
  | owed (rd : Nat) (status : Word) (ts : Nat)
  deriving DecidableEq, Repr

/-- What `mx.task` or `mx.zero` has still to queue while it waits for queue space (R242, R244). -/
structure Hold where
  queued : Nat
  recs   : List (BitVec 256)
  zeros  : List Nat
  shape  : Word
  stride : Word
  deriving DecidableEq, Repr

/-- A thread in a slot: its registers, its per-slot CSRs (R202) and its engine registers. -/
structure Thread where
  core     : Nat
  slot     : Nat
  /-- Whether the slot holds a thread. -/
  live     : Bool
  /-- The thread's identity, kept across suspension (R253, R255). -/
  tid      : Nat
  lid      : Nat
  /-- Encoding version (R168). -/
  enc      : Nat
  pc       : Word
  /-- The word being executed (R136). -/
  ir       : Lane
  x        : Vector Word 32
  frm      : BitVec 3
  fflags   : BitVec 6
  srseed   : Word
  key      : BitVec 16
  draw     : BitVec 48
  lease    : Nat
  rimewin  : Nat
  chk      : Bool
  corr     : BitVec 32
  /-- Granules held, `vgrant` (R203). -/
  gran     : Nat
  /-- The vector registers: lane L at bits [32 L + 31 : 32 L] (R206). -/
  v        : Vector (BitVec 2048) 32
  /-- The lane slices: byte o of lane L at 512 L + o (R63). -/
  slice    : Memory
  /-- Offsets of poisoned 8-byte granules of the lane slices (R367). -/
  bad      : List Nat
  xcause   : BitVec 8
  xaddr    : Word
  xpc      : Word
  xval     : Word
  xvec     : Word
  xrcnt    : Word
  xrep     : Bool
  xrlen    : BitVec 12
  xridx    : BitVec 12
  /-- The iterations that the repetition a trap interrupted had completed (R338). -/
  xriter   : Nat
  inh      : Bool
  rep      : Option Rep
  pin      : Option Pin
  pend     : List Pend
  /-- Cycles of W still to run out (R39). -/
  stall    : Nat
  /-- Cycles of `pause` still to run (R42). -/
  pause    : Nat
  pts      : Nat
  /-- Cycles since `pts` last advanced with time (R85). -/
  ptsFrac  : Nat
  wait     : Wait
  mxshape  : Word
  mxdstr   : Word
  cp       : Vector Word 7
  cpCorr   : BitVec 32
  cpStale  : Bool
  cpStatus : Nat
  /-- Latest order points of this slot's copies and, by accumulator, of its drains (R92). -/
  cpTe     : Nat
  mxTe     : List (Nat × Nat)
  ports    : List (Nat × Port)
  fails    : List Fail
  hold     : Option Hold
  vpart    : Option VPart
  /-- The launch's global phase at which the thread was created (R257). -/
  gborn    : Nat
  deriving DecidableEq, Repr

/-- A continuation record (R44) with the hardware's bookkeeping of it. -/
structure Rec where
  tid    : Nat
  pc     : Word
  lid    : Nat
  prio   : Nat
  tenant : Nat
  reason : Nat
  key    : BitVec 16
  draw   : BitVec 48
  x10    : Word
  x11    : Word
  x12    : Word
  x13    : Word
  x14    : Word
  gborn  : Nat
  /-- The core on which the thread last ran (R257). -/
  core   : Nat
  /-- Cycle at which the record entered its pool (R48). -/
  since  : Nat
  deriving DecidableEq, Repr

/-- A record parked on a barrier object or event line (R46). -/
structure Parked where
  handle : Nat
  phase  : Nat
  seq    : Nat
  die    : Nat
  cont   : Rec
  /-- The suspended thread's `pts` at its suspension (R92). -/
  pts    : Nat
  deriving DecidableEq, Repr

/-- The sizes of a page (R78): 64 KiB, 2 MiB, 1 GiB. -/
inductive PageSize where
  | k64 | m2 | g1
  deriving DecidableEq, Repr

/-- A PLB entry (R66, R80): page size and number, the 52-bit physical base, domain, attribute code, owner. -/
structure Plb where
  size  : PageSize
  vpn   : Nat
  base  : BitVec 52
  dom   : Nat
  attr  : Nat
  owner : Nat
  deriving DecidableEq, Repr

/-- log2 of a page's size, its virtual address, and its physical address. -/
def PageSize.log : PageSize → Nat
  | .k64 => 16 | .m2 => 21 | .g1 => 30
def Plb.lsz (p : Plb) : Nat := p.size.log
def Plb.va (p : Plb) : Nat := p.vpn * 2 ^ p.lsz
def Plb.pa (p : Plb) : Nat := p.base.toNat

/-- The timestamps of an HC line at its owner (R84): the line's virtual address / 256. -/
structure Line where
  line  : Nat
  wts   : Nat
  rts   : Nat
  owner : Option Nat
  deriving DecidableEq, Repr

/-- A sector copy in a core's L1D (R67): the sector's virtual address / 128 and the physical address of its first byte. HC
copies carry the timestamps of R86, SWC copies their dirty bytes (R95). -/
structure Copy1 where
  core   : Nat
  sector : Nat
  key    : Nat
  hc     : Bool
  wts    : Nat
  rts    : Nat
  /-- The sector's bytes, by offset. -/
  data   : Memory
  /-- Offsets of dirty bytes, rising. -/
  dirty  : List Nat
  /-- The retention hint that its line records (R69). -/
  hint   : Hint
  /-- Whether the copy is poisoned (R367). -/
  bad    : Bool
  deriving DecidableEq, Repr

/-- A sector copy in a core's L1I (R67): its words' bytes, by offset, and whether it is poisoned. -/
structure CopyI where
  core   : Nat
  sector : Nat
  data   : Memory
  bad    : Bool
  deriving DecidableEq, Repr

/-- A sector that its L2 home holds (R65, R67): its virtual address / 128, the physical address of its first byte, the
offsets of its dirty bytes, the retention hint of its line, and whether no access has touched it since it was filled. Its
bytes lie at its virtual storage keys. -/
structure Copy2 where
  sector : Nat
  key    : Nat
  dirty  : List Nat
  hint   : Hint
  new    : Bool
  deriving DecidableEq, Repr

/-- A pending reduction at a home (R114, R189, R191): element key, op (0 add, 1 min, 2 max), format, and the exact
accumulator of an FP addition (R113). -/
structure Red where
  key  : Nat
  op   : Nat
  fmt  : Fmt
  nan  : Bool
  pinf : Bool
  ninf : Bool
  any  : Bool
  negz : Bool
  posz : Bool
  /-- The sum in units of 2^-149, or of 2^-1074 for FP64 (R111, R112). -/
  sum  : Int
  deriving DecidableEq, Repr

/-- A compressed page's image in the firn zone (R82): its address, the page's log2 size, the contents by offset in the page,
the offsets of poisoned sectors, and the pending reductions, their keys offsets too (R114, R367). -/
structure Image where
  lsz  : Nat
  addr : Nat
  data : Memory
  bad  : List Nat
  reds : List Red
  deriving DecidableEq, Repr

/-- The memory system (R57 to R98). -/
structure MemSys where
  bytes  : Memory
  /-- Poisoned granules by storage key (R367). -/
  poison : List Nat
  /-- PLB entries with their core, newest first (R80). -/
  plb    : List (Nat × Plb)
  lines  : List Line
  /-- The caches' sectors, in each set the most recently used line first (R67). -/
  l1     : List Copy1
  l1i    : List CopyI
  l2     : List Copy2
  /-- Bank timestamps (R89). -/
  bts    : List (Nat × Nat)
  reds   : List Red
  /-- Page-table root (R78). -/
  root   : Nat
  /-- The host link's timestamp (R94). -/
  hts    : Nat
  /-- Free frames by address and size (R82). -/
  frames : List (Nat × Nat)
  /-- Firn-zone size in bytes, and the images in it. -/
  firn   : Nat
  images : List Image
  /-- The virtual addresses of the pages whose expansion has begun (R82, R357). -/
  expand : List Nat
  deriving DecidableEq, Repr

/-- A member of a barrier object (R253): the thread, the last phase it arrived for, and whether it has ended. -/
structure BarMember where
  tid   : Nat
  last  : Option Nat
  ended : Bool
  deriving DecidableEq, Repr

/-- A barrier object's state (R250). -/
structure Bar where
  inc     : Nat
  brk     : Bool
  drop    : Bool
  exp     : Nat
  arr     : Nat
  phase   : Nat
  members : List BarMember
  /-- The largest `pts` of the current phase's arrivals and of the completed phases (R92). -/
  pts     : Nat
  deriving DecidableEq, Repr

/-- The statistics of a rime record or of a die's partial (R122, R130). -/
structure Stats where
  total  : Nat
  zeros  : Nat
  nonfin : Nat
  /-- FP32 bits (R122). -/
  amax   : Nat
  /-- Bucket counts by bucket, none of them 0. -/
  bucket : List (Nat × Nat)
  deriving DecidableEq, Repr

/-- A rime record (R122) with its scale snapshot (R133). -/
structure Rime where
  stats : Stats
  ftime : Nat
  fseq  : Nat
  base  : Int
  trap  : Bool
  en    : Bool
  fmt   : Fmt
  tag   : BitVec 32
  snap  : Nat
  /-- Whether statistics were lost since the last clear (R370). -/
  lost  : Bool
  deriving DecidableEq, Repr

/-- A mutex (R255): the holding thread, whether the next grant reports an abandonment, the releaser's `pts`. -/
structure Mtx where
  holder : Option Nat
  aband  : Bool
  pts    : Nat
  deriving DecidableEq, Repr

/-- What a synchronisation object is (R249, R121). -/
inductive Kind where
  | bar (b : Bar)
  | cnt (value : Word) (pts : Nat)
  | mtx (m : Mtx)
  | rime (r : Rime)
  deriving DecidableEq, Repr

/-- An allocated synchronisation object (R249): its tenant, whether it lies in SRAM (R360), whether it is poisoned (R369). -/
structure Obj where
  tenant : Nat
  sram   : Bool
  poison : Bool
  kind   : Kind
  deriving DecidableEq, Repr

/-- A binding of a rime record to a range (R128, R131). -/
structure Bind where
  handle : Nat
  base   : Nat
  len    : Nat
  win    : Nat
  deriving DecidableEq, Repr

/-- A die's synchronisation engine (R48, R121, R130, R359, R361). -/
structure Die where
  pool     : List Rec
  poolMark : Nat
  /-- Partial statistics by record handle, with the cycle of the first update since the last fold (R131). -/
  partials : List (Nat × Nat × Stats)
  foldMark : Nat
  /-- Size of the overflow area in MiB, and of its part that is kept for the pool's spill (R48, R359). -/
  ovf      : Nat
  spill    : Nat
  deriving DecidableEq, Repr

/-- The synchronisation engines' objects (R249 to R261). -/
structure SyncSys where
  objs   : List (Nat × Obj)
  /-- The incarnation of every slot that has had one (R250). -/
  incs   : List (Nat × Nat)
  /-- Slots retired until the next start (R369). -/
  retired : List Nat
  parked : List Parked
  dies   : Vector Die 4
  binds  : List Bind
  seq    : Nat
  deriving DecidableEq, Repr

/-- Who issued an engine operation, and what its completion needs (R93, R236, R248). -/
structure Issuer where
  tid    : Nat
  core   : Nat
  slot   : Nat
  lid    : Nat
  tenant : Nat
  enc    : Nat
  corr   : Nat
  ti     : Nat
  /-- The cycle of issue, by which a debug step knows the operations of its instruction (R337). -/
  since  : Nat
  deriving DecidableEq, Repr

/-- What a queued tile task is doing (R289 to R294). -/
inductive TaskRun where
  | queued
  /-- On an engine, with the quarter-cycles of work done. -/
  | engine (k : Nat) (work : Nat)
  /-- On the drain path, with the cycles left. -/
  | drain (left : Nat)
  deriving DecidableEq, Repr

/-- A tile task (R239, R242, R288); a zeroing task has `zero` set and names its tile in the record. -/
structure Task where
  desc   : BitVec 256
  zero   : Bool
  shape  : Word
  stride : Word
  aTile  : Nat
  bTile  : Nat
  by_    : Issuer
  run    : TaskRun
  age    : Nat
  /-- The claimed tiles that have arrived, by ring and number, with their bytes at that time (R291). -/
  tiles  : List (Nat × Nat × Memory)
  deriving DecidableEq, Repr

/-- A copy command (R247): registers 0 to 6 as snapshotted, addresses, the done object's incarnation, tiles completed,
and whether it has started or been decided. -/
structure CopyCmd where
  regs   : Vector Word 7
  src    : Word
  dst    : Word
  inc    : Nat
  prog   : Nat
  by_    : Issuer
  run    : Bool
  status : Option (Nat × Nat)
  te     : Nat
  deriving DecidableEq, Repr

/-- A ring's state (R245), with the tile numbers marked as read (R293). -/
structure Ring where
  cfgd  : Bool
  claim : Nat
  tail  : Nat
  head  : Nat
  word  : Word
  marks : List Nat
  deriving DecidableEq, Repr

/-- A mailbox entry (R265). -/
structure Mail where
  word : Word
  pts  : Nat
  lid  : Nat
  deriving DecidableEq, Repr

/-- A barrier line's round (R254): the launch of its first arrival and the cores that have arrived. -/
structure Round where
  line  : Nat
  lid   : Nat
  cores : List Nat
  pts   : Nat
  deriving DecidableEq, Repr

/-- A floe: its ready pool, matrix work, rings, copy engine, mailbox and event unit (R48, R70, R71, R254, R265, R289). -/
structure Floe where
  pool   : List Rec
  mark   : Nat
  tasks  : List Task
  copies : List CopyCmd
  rings  : List (Nat × Ring)
  mail   : List Mail
  rounds : List Round
  /-- Tile and ring masks by launch (R244). -/
  masks  : List (Nat × Nat × Nat)
  deriving DecidableEq, Repr

/-- The current-slew limiter of an island (R295 to R298): the activity of its latest step, the quarters granted in it by floe and
engine, and the first cycle at which another step may start; and whether the island is power-gated (R83). -/
structure Island where
  prev   : Nat
  grants : List (Nat × Nat × Nat)
  due    : Nat
  gated  : Bool
  deriving DecidableEq, Repr

/-- The life of a launch (R32, R33, R52 to R56). -/
inductive LaunchState where
  | accepted | running
  /-- Stopped for pre-emption, its engine work draining (R53). -/
  | stopping
  | out
  /-- Its save area or arrival log has failed, and it is being ended (R358). -/
  | ending
  deriving DecidableEq, Repr

/-- A launch in the launch table (R32, R330), with its global barrier (R257). -/
structure Launch where
  lid      : Nat
  state    : LaunchState
  tenant   : Nat
  prio     : Nat
  ring     : Nat
  irq      : Bool
  /-- The packet's place among its ring's packets (R327). -/
  pkt      : Nat
  x0       : Nat
  y0       : Nat
  wlog     : Nat
  hlog     : Nat
  image    : Nat
  code     : Nat
  entry    : Nat
  enc      : Nat
  slots    : Nat
  rings    : List (Nat × Nat × Nat × Nat)
  start    : Nat
  args     : List Word
  srseed   : Word
  frm      : BitVec 3
  chk      : Bool
  lease    : Nat
  rimewin  : Nat
  corr     : BitVec 32
  save     : Nat
  logAddr  : Nat
  logLen   : Nat
  /-- Bytes of the arrival log appended (R55). -/
  logPos   : Nat
  /-- The cause that a failed append to the log has met, or 0 (R358). -/
  logBad   : Nat
  comp     : Nat
  compVal  : Word
  /-- The launch processor's mark when the packet was read (R92). -/
  mark     : Nat
  /-- Order of starting (R52). -/
  started  : Nat
  /-- The cause of the first thread killed by a trap (R330). -/
  cause    : Nat
  /-- Largest final `pts` of its ended threads (R92). -/
  pts      : Nat
  /-- Parked records that a failure has discarded (R358). -/
  lost     : Nat
  /-- Threads saved at pre-emption, with their save-area entry numbers (R54). -/
  saved    : List (Nat × Thread)
  /-- By floe, the tile tasks and copies taken out at pre-emption, the rings, and the masks of tiles and rings (R53, R54). -/
  savedTasks  : List (Nat × Task)
  savedCopies : List (Nat × CopyCmd)
  savedRings  : List (Nat × Nat × Ring)
  savedMasks  : List (Nat × Nat × Nat)
  /-- Marked for restore because its log is full (R55). -/
  urgent   : Bool
  gphase   : Nat
  garr     : List Nat
  gended   : Nat
  gaddr    : Nat
  gearly   : Nat
  glate    : Nat
  gtimes   : List Nat
  glast    : Nat
  gpts     : Nat
  deriving DecidableEq, Repr

/-- A packet that a submission ring waits for or that has not completed (R327, R392). -/
structure Packet where
  seq    : Nat
  irq    : Bool
  deriving DecidableEq, Repr

/-- A wait-on-object packet that holds its ring (R328). -/
structure RingWait where
  handle : Nat
  target : Word
  seq    : Nat
  irq    : Bool
  deriving DecidableEq, Repr

/-- A submission ring (R326, R381). -/
structure SubRing where
  base : Word
  cfg  : Word
  tail : Nat
  head : Nat
  err  : BitVec 128
  /-- Packets read so far, those not yet completed, and a held wait. -/
  read : Nat
  open_ : List Packet
  held : Option RingWait
  /-- A launch packet that has been read and waits for a table entry, with the launch processor's mark (R32, R92). -/
  pend : Option (List Byte × Nat)
  /-- What has been read over the link of the packet at the head of a ring in host memory, while the packet waits. -/
  seen : List Byte
  deriving DecidableEq, Repr

/-- A memory-management request in Chirnaore's hands (R329). -/
structure MmReq where
  tenant : Nat
  ring   : Option Nat
  seq    : Nat
  irq    : Bool
  /-- The entry of the tenant's request ring it came from. -/
  entry  : Nat
  start  : Nat
  len    : Nat
  action : Nat
  attr   : Nat
  owner  : Nat
  comp   : Nat
  val    : Word
  corr   : Nat
  /-- The pages that an attribute change holds back, whole, as address and size (R76). -/
  held   : List (Nat × Nat)
  /-- Whether a reserved bit is set (R329). -/
  bad    : Bool
  /-- Its progress: 0 not begun, 2 flushed, 3 shot down, 4 installed, 5 recorded (R76, R83, R329); the result code; pages
  processed. -/
  stage  : Nat
  result : Nat
  pages  : Nat
  deriving DecidableEq, Repr

/-- The launch processor and Chirnaore's tables (R31 to R36, R329). -/
structure LaunchSys where
  launches : List Launch
  nextLid  : Nat
  nextTid  : Nat
  started  : Nat
  mark     : Nat
  rings    : List (Nat × SubRing)
  rr       : Nat
  tenants  : List TenantCfg
  mm       : List MmReq
  /-- The next entry to serve of each tenant's request ring (R329). -/
  mmNext   : List (Nat × Nat)
  /-- Whether a checkpoint stops the starting of launches (R335). -/
  stopped  : Bool
  /-- The `pts` of slots that have held threads and hold none, by core × 4 + slot, with the cycle from which it has advanced
  (R84, R85). -/
  clocks   : List (Nat × Nat × Nat)
  deriving DecidableEq, Repr

/-- An address group of this package (R267). -/
structure Group where
  id      : Nat
  members : List Member
  /-- Whether the last report of it reached the coordinating expander (R389). -/
  known   : Bool
  /-- Whether a member has been lost since the installation (R377). -/
  dead    : Bool
  /-- By floe, the blocks that this package has issued since the installation (R272, R377). -/
  counts  : List (Nat × Nat)
  deriving DecidableEq, Repr

/-- A block of a member held at the coordinating expander (R300, R389): the member, its block number in the generation,
the fields to match, the identity of an own block, and its status if it has ended before being matched. -/
structure Arrived where
  node  : Nat
  floe  : Nat
  num   : Nat
  key   : BlockKey
  op    : Option Nat
  ended : Option Nat
  deriving DecidableEq, Repr

/-- An item of a group's admission order (R301, R388): a matched block by its number, a descriptor of this package by its identity,
or another package's. -/
inductive Admission where
  | block (num : Nat)
  | own (id : Nat)
  | peer (node : Nat) (desc : BitVec 1024)
  deriving DecidableEq, Repr

/-- What the coordinating expander keeps for a group (R388, R389). Members are named by node number and floe. -/
structure Coord where
  id       : Nat
  gen      : Nat
  list     : List Member
  recorded : List (Nat × Nat)
  /-- Members whose next report opens a generation (R389). -/
  cleared  : List (Nat × Nat)
  /-- Generation of each member's last recording. -/
  gens     : List (Nat × Nat × Nat)
  /-- Blocks received in the generation by member (R272). -/
  counts   : List (Nat × Nat × Nat)
  waiting  : List Arrived
  order    : List Admission
  /-- Whether a member has been lost since the generation opened (R377). -/
  dead     : Bool
  deriving DecidableEq, Repr

/-- What has been received of an item (R302): its number and its bytes in the order in which they are sent. -/
structure Contrib where
  rank  : Nat
  bytes : List Byte
  deriving DecidableEq, Repr

/-- A hop of a route of a plan at this package's switch (R306, R307): the route, by its first stream, the output port, its window of
slots, whether the window is held, and the slots that hold a packet. -/
structure Hop where
  way  : Flow
  port : Nat
  win  : Nat
  held : Bool
  used : Nat
  deriving DecidableEq, Repr

/-- The plan of an admitted block or descriptor (R301, R306). -/
structure Plan where
  group   : Nat
  members : List Member
  /-- A descriptor with its issuer's node; none for a block. -/
  mc      : Option (Nat × BitVec 1024)
  key     : BlockKey
  /-- The algorithm (R302): 0 direct, 1 ring, 2 tree, 3 in-switch. -/
  alg     : Nat
  /-- The own operations by rank, and the ranks whose status is decided elsewhere or before the plan. -/
  own     : List (Nat × Nat)
  ended   : List (Nat × Nat)
  ready   : Bool
  /-- What it has reserved (R306): accumulator bytes, and slots. -/
  accs    : Nat
  hops    : List Hop
  /-- How far each stream has come, in elements of a reduction or in bytes, and the streams that end there. -/
  moved   : List (Flow × Nat)
  dry     : List Flow
  /-- Nodes of which word has come that they are lost (R376), and nodes whose part has not ended (R301). -/
  lost    : List Nat
  away    : List Nat
  /-- Partials at this package's switch by source, and the elements that the reduction point of another package has sent out (R304). -/
  point   : List Contrib
  out     : Nat
  /-- A descriptor's result, the own places that it has been written to, by rank, and its latest order point (R281, R390). -/
  result  : List Byte
  written : List Nat
  te      : Nat
  deriving DecidableEq, Repr

/-- How far a block or descriptor has come: accepted, at the coordinating expander, admitted (R300, R301). -/
inductive FabStage where
  | issued | sent | admitted
  deriving DecidableEq, Repr

/-- A block or descriptor in flight that a thread of this package issued (R264, R273). -/
structure FabOp where
  /-- An identity of the operation, its place in the order of acceptance. -/
  id      : Nat
  addr    : Nat
  mc      : Bool
  by_     : Issuer
  floe    : Nat
  block   : BitVec 1024
  map     : BitVec 512
  /-- The entries of the vtab: soff, scount, roff, rcount (R270). -/
  vtab    : List (Nat × Nat × Nat × Nat)
  /-- The members of the group at issue. -/
  members : List Member
  inc     : Nat
  stage   : FabStage
  /-- A block's number among its member's blocks on the group (R272), and its plan's algorithm. -/
  num     : Nat
  alg     : Nat
  /-- What has been received: finished items, and partials or data to forward (R302). -/
  got     : List Contrib
  parts   : List Contrib
  /-- Whether a memory fault has cut short what this rank sends (R277). -/
  bad     : Bool
  /-- Whether it holds a reorder unit, and whether it has given it back (R311). -/
  unit    : Bool
  sorted  : Bool
  /-- Chunks delivered, in order of delivery. -/
  chunks  : List Nat
  status  : Option Nat
  te      : Nat
  deriving DecidableEq, Repr

/-- A price form or a router configuration packet that has reached the router and waits for its turn on a bank (R344): its place
in the order of arrival, the bank, and the thread or the ring that it comes from. -/
structure PriceWait where
  seq  : Nat
  bank : Nat
  src  : Nat ⊕ Nat
  deriving DecidableEq, Repr

/-- A router run (R282 to R284, R315): its place in the order of arrival, whether round 1 may start, whether the run has failed,
and how many of its output arrays are written. -/
structure Run where
  seq     : Nat
  addr    : Nat
  by_     : Issuer
  block   : BitVec 512
  inc     : Nat
  begun   : Bool
  scores  : List Int
  prices  : List Int
  /-- Held entries by expert: copy index and bid. -/
  held    : List (List (Nat × Int))
  rounds  : Nat
  fill    : Nat
  failed  : Bool
  stage   : Nat
  te      : Nat
  deriving DecidableEq, Repr

/-- A price bank (R313): the tenant and context as tenant × 4 + context, its non-zero registers, whether poisoned (R380). -/
structure Bank where
  id     : Nat
  prices : List (Nat × Int)
  poison : Bool
  deriving DecidableEq, Repr

/-- A range that a collective operation has still to read (R93, R273, R312): the core that reads it, first address and length. -/
structure Lease where
  core : Nat
  a    : Nat
  n    : Nat
  deriving DecidableEq, Repr

/-- A fabric port: its link layer (R373) and its buffer slots (R306, R307). -/
structure FabPort where
  id     : Nat
  up     : Bool
  training : Bool
  expect : Nat
  /-- Whether a bad flit has been seen and its replay is awaited, and failures in a row. -/
  retry  : Bool
  fails  : Nat
  /-- Flits sent, acknowledged, and put on the wire of those sent: a flit's sequence number is its number modulo 4,096. -/
  sent   : Nat
  acked  : Nat
  replay : Nat
  /-- Slots reserved, and slots that hold a packet. -/
  slots  : Nat
  used   : Nat
  deriving DecidableEq, Repr

/-- The fabric, the collective expander and the router (R262 to R322, R373 to R380). -/
structure FabSys where
  groups : List Group
  coords : List Coord
  ops    : List FabOp
  leases : List Lease
  plans  : List Plan
  runs   : List Run
  forms  : List PriceWait
  banks  : List Bank
  lost   : List Nat
  ports  : List FabPort
  /-- Bytes discarded toward lost nodes (R375). -/
  dropped : List (Nat × Nat)
  /-- By lost node: the place of its record in the moraine die's error log, and the count that the record holds (R375). -/
  lostRecs : List (Nat × Nat × Nat)
  deriving DecidableEq, Repr

/-- A core's debug module (R336, R350). -/
structure Dbg where
  core   : Nat
  sslot  : Nat
  halted : Bool
  why    : Nat
  cmp    : Nat
  slot   : Nat
  iter   : Nat
  ia     : Vector Word 4
  da     : Vector Word 2
  armed  : Option Nat
  /-- Whether an armed thread step waits for the return from a handler, since its instruction has trapped for another cause (R350). -/
  inside : Bool
  /-- A step whose drain is awaited: the address of the instruction stepped, its thread, and the cycle of its issue. -/
  stepping : Option (Word × Nat × Nat)
  /-- Passing a comparator that halted, so that a resumed instruction can execute. -/
  passed : Bool
  deriving DecidableEq, Repr

/-- A core's performance counters (R205). -/
structure Pmu where
  core : Nat
  sel  : Vector Word 4
  cnt  : Vector Word 4
  deriving DecidableEq, Repr

/-- A core's trace registers (R325, R339). -/
structure Trace where
  core : Nat
  base : Word
  ctl  : Word
  wr   : Nat
  rd   : Nat
  lost : Nat
  deriving DecidableEq, Repr

/-- An error log (R325, R371). -/
structure ErrLog where
  base : Nat
  prod : Nat
  cons : Nat
  drop : Nat
  lost : Nat
  deriving DecidableEq, Repr

/-- The time unit (R33, R384): ns, thirds of a ns, stepped time while frozen, slew left, the ns since the last slewed ns, the
state, and the ns spent in the current holdover. -/
structure TimeUnit where
  ns    : Nat
  third : Nat
  frozen : Option Nat
  slew  : Int
  slewFrac : Nat
  state : Nat
  hold  : Nat
  deriving DecidableEq, Repr

/-- The host link, start-up, time, debug and trace (R323 to R340, R383, R384). -/
structure HostSys where
  /-- BOOTSTAT's state and tries, the version, BOOTLEN (R333). -/
  boot    : Nat
  tries   : Nat
  ver     : BitVec 32
  bootlen : Nat
  /-- Image bytes in BAR2, by offset (R323). -/
  staging : Memory
  linkUp  : Bool
  cfg     : Option BootCfg
  time    : TimeUnit
  cycle   : Nat
  ckptState : Nat
  ckptErr : Nat
  ckptMs  : Nat
  /-- The memory that the last checkpoint streamed, by physical address (R335). -/
  ckptImage : Memory
  replayAddr : Word
  replayState : Nat
  replayPass : Nat
  /-- The session's descriptor, the id of its launch (65,536 before it is accepted), the counts and signature of
  each pass and core, and the signatures of the current pass (R340). -/
  replayDesc : List Byte
  replayLid : Nat
  /-- The pages that the session's launch has written: address, size, and the place of their bytes in the replay area. -/
  replayPages : List (Nat × Nat × Nat)
  replayRes : List (Nat × Nat × List Nat)
  replaySig : List (Nat × Nat)
  attNonce : Word
  attRpt  : Word
  attState : Nat
  /-- Signatures that this boot's key has made, the leaf of the identity key that certified it (none once the bank is exhausted),
  and the identity key's next leaf in the one-time-programmable bank (R334). -/
  attUsed : Nat
  attCert : Option Nat
  otp     : Nat
  logs    : Vector ErrLog 5
  /-- MSI-X vectors raised, newest first. -/
  msix    : List Nat
  dbg     : List Dbg
  pmu     : List Pmu
  trace   : List Trace
  islands : List (Nat × Island)
  /-- The last slot that issued on each core (R40). -/
  last    : List (Nat × Nat)
  /-- What the last host read returned: the bytes, or none for a completer abort, and the poison indication (R324). -/
  reply   : Option (List Byte)
  replyPoison : Bool
  deriving DecidableEq, Repr

/-- What the next step is to be: a slot issues, or another agent acts with its input. Plain data that stands for the
choices the spec leaves to timing (R51, R100). -/
inductive Turn where
  | issue (l : Loc)
  /-- A slot issues, or goes on with, a vector load or store of which at most `n` elements are accessed in this step (R214). -/
  | part (l : Loc) (n : Nat)
  /-- A slot issues; the ticket or the acknowledgement of an atomic to another package's memory that it makes is lost, and
  the atomic has been performed there or not (R375). -/
  | lose (l : Loc) (performed : Bool)
  | happen (ev : Instr) (inp : Input)
  /-- Another package writes bytes of its own memory, as this package's accesses will find them (R98). -/
  | elsewhere (pa : Nat) (bytes : List Byte)
  deriving DecidableEq, Repr

/-- The whole machine. `th` is the current slot, `slots` the other slots that hold threads. -/
structure State where
  th    : Thread
  slots : List Thread
  mem   : MemSys
  sync  : SyncSys
  floes : List (Nat × Floe)
  lp    : LaunchSys
  fab   : FabSys
  host  : HostSys
  input : Input
  turns : List Turn
  /-- The most elements that a vector access performs in this step, 0 for all (R214). -/
  limit : Nat
  /-- Whether the acknowledgement of a peer atomic made in this step is lost, and whether it was performed (R375). -/
  lossy : Option Bool
  /-- The cause of the latest trap taken in this step (R165). -/
  took : Option Cause
  /-- How many free values have been used. -/
  fresh : Nat
  deriving DecidableEq, Repr

/-- A slot with no thread, its registers at their reset values (R34, R202, R238, R246). -/
def Thread.idle (core slot : Nat) : Thread where
  core := core
  slot := slot
  live := false
  tid := 0
  lid := 0
  enc := 3
  pc := 0
  ir := 0
  x := Vector.replicate 32 0
  frm := 0
  fflags := 0
  srseed := 0
  key := 0
  draw := 0
  lease := 256
  rimewin := 2048
  chk := false
  corr := 0
  gran := 0
  v := Vector.replicate 32 0
  slice := []
  bad := []
  xcause := 0
  xaddr := 0
  xpc := 0
  xval := 0
  xvec := 0
  xrcnt := 0
  xrep := false
  xrlen := 0
  xridx := 0
  xriter := 0
  inh := false
  rep := none
  pin := none
  pend := []
  stall := 0
  pause := 0
  pts := 0
  ptsFrac := 0
  wait := .none
  mxshape := 0x404040
  mxdstr := 256
  cp := Vector.replicate 7 0
  cpCorr := 0
  cpStale := false
  cpStatus := 0
  cpTe := 0
  mxTe := []
  ports := []
  fails := []
  hold := none
  vpart := none
  gborn := 0

/-- Memory with nothing listed. -/
def MemSys.reset : MemSys where
  bytes := []
  poison := []
  plb := []
  lines := []
  l1 := []
  l1i := []
  l2 := []
  bts := []
  reds := []
  root := 0
  hts := 0
  frames := []
  firn := 64 * 2 ^ 30
  images := []
  expand := []

/-- A die's synchronisation engine with nothing in it; the default overflow area is 16 MiB (R359). -/
def Die.reset : Die where
  pool := []
  poolMark := 0
  partials := []
  foldMark := 0
  ovf := 16
  spill := 1

def SyncSys.reset : SyncSys where
  objs := []
  incs := []
  retired := []
  parked := []
  dies := Vector.replicate 4 Die.reset
  binds := []
  seq := 0

/-- A floe with nothing queued (R245: rings unconfigured). -/
def Floe.reset : Floe where
  pool := []
  mark := 0
  tasks := []
  copies := []
  rings := []
  mail := []
  rounds := []
  masks := []

def LaunchSys.reset : LaunchSys where
  launches := []
  nextLid := 0
  nextTid := 1
  started := 0
  mark := 0
  rings := []
  rr := 63
  tenants := []
  mm := []
  mmNext := []
  stopped := false
  clocks := []

def FabSys.reset : FabSys where
  groups := []
  coords := []
  ops := []
  leases := []
  plans := []
  runs := []
  forms := []
  banks := []
  lost := []
  ports := []
  dropped := []
  lostRecs := []

def ErrLog.reset : ErrLog where
  base := 0
  prod := 0
  cons := 0
  drop := 0
  lost := 0

/-- BOOTSTAT, TIMESTAT and every BAR0 register read 0 (R325, R333, R383). -/
def HostSys.reset : HostSys where
  boot := 0
  tries := 0
  ver := 0
  bootlen := 0
  staging := []
  linkUp := true
  cfg := none
  time := ⟨0, 0, none, 0, 0, 0, 0⟩
  cycle := 0
  ckptState := 0
  ckptErr := 0
  ckptMs := 0
  ckptImage := []
  replayAddr := 0
  replayState := 0
  replayPass := 0
  replayDesc := []
  replayLid := 0
  replayPages := []
  replayRes := []
  replaySig := []
  attNonce := 0
  attRpt := 0
  attState := 0
  attUsed := 0
  attCert := none
  otp := 0
  logs := Vector.replicate 5 ErrLog.reset
  msix := []
  dbg := []
  pmu := []
  trace := []
  islands := []
  last := []
  reply := none
  replyPoison := false

/-- The machine right after reset (R332, R383): the boot ROM waits, no slot holds a thread, memory lists nothing. -/
def State.reset : State where
  th := Thread.idle 0 0
  slots := []
  mem := MemSys.reset
  sync := SyncSys.reset
  floes := []
  lp := LaunchSys.reset
  fab := FabSys.reset
  host := HostSys.reset
  input := {}
  turns := []
  limit := 0
  lossy := none
  took := none
  fresh := 0

end Sys2Proof.Machine
end

