-- ==== Sys2Proof/Machine/Bytes.lean ====
section
/-! DEFINITION. Reading and writing the sparse byte memory (R22, R26: little-endian), and small finite maps kept as
lists of key and value. -/

namespace Sys2Proof.Machine

/-- The canonical form: keys strictly rising, no entry 0. -/
abbrev Memory.wf (m : Memory) : Prop := m.Pairwise (fun a b => a.1 < b.1) ∧ ∀ c ∈ m, c.2 ≠ 0

/-- The byte at a storage key; an unlisted key reads 0. -/
def Memory.get : Memory → Nat → Byte
  | [], _ => 0
  | (a, b) :: t, k => if a = k then b else Memory.get t k

/-- Writes one byte, keeping the canonical form. -/
def Memory.set : Memory → Nat → Byte → Memory
  | [], k, b => if b = 0 then [] else [(k, b)]
  | (a, c) :: t, k, b =>
    if k < a then (if b = 0 then (a, c) :: t else (k, b) :: (a, c) :: t)
    else if k = a then (if b = 0 then t else (k, b) :: t)
    else (a, c) :: Memory.set t k b

/-- The little-endian value of `n` bytes (R26). -/
def Memory.read (m : Memory) (k : Nat) : Nat → Nat
  | 0 => 0
  | n + 1 => (m.get k).toNat + 256 * Memory.read m (k + 1) n

/-- Writes `n` bytes of a value, little-endian. -/
def Memory.write (m : Memory) (k : Nat) : Nat → Nat → Memory
  | 0, _ => m
  | n + 1, v => Memory.write (m.set k (BitVec.ofNat 8 v)) (k + 1) n (v / 256)

/-- The bytes from a key up. -/
def Memory.bytes (m : Memory) (k : Nat) : Nat → List Byte
  | 0 => []
  | n + 1 => m.get k :: Memory.bytes m (k + 1) n

/-- Writes a list of bytes from a key up. -/
def Memory.put (m : Memory) (k : Nat) : List Byte → Memory
  | [] => m
  | b :: t => Memory.put (m.set k b) (k + 1) t

/-- The little-endian value of a list of bytes. -/
def leNat : List Byte → Nat
  | [] => 0
  | b :: t => b.toNat + 256 * leNat t

/-- The `n` little-endian bytes of a value. -/
def leBytes : Nat → Nat → List Byte
  | 0, _ => []
  | n + 1, v => BitVec.ofNat 8 v :: leBytes n (v / 256)

/-- The value of a key in a small map. -/
def look {α : Type} : List (Nat × α) → Nat → Option α
  | [], _ => none
  | (a, v) :: t, k => if a = k then some v else look t k

/-- Sets a key of a small map kept in rising order of keys. -/
def put {α : Type} : List (Nat × α) → Nat → α → List (Nat × α)
  | [], k, v => [(k, v)]
  | (a, w) :: t, k, v =>
    if k < a then (k, v) :: (a, w) :: t
    else if k = a then (k, v) :: t
    else (a, w) :: put t k v

/-- Drops a key of a small map. -/
def drop {α : Type} (m : List (Nat × α)) (k : Nat) : List (Nat × α) := m.filter fun p => p.1 ≠ k

/-- A field of a natural number: `n` bits from bit `lo` up. -/
def bits (v lo n : Nat) : Nat := v / 2 ^ lo % 2 ^ n

/-- A signed value of `n` bits. -/
def signed (v n : Nat) : Int := if v % 2 ^ n < 2 ^ (n - 1) then v % 2 ^ n else (v % 2 ^ n : Nat) - (2 ^ n : Nat)

/-- The two's complement value of an integer in `n` bits. -/
def unsigned (v : Int) (n : Nat) : Nat := (v % (2 ^ n : Nat)).toNat

/-- `f 0`, …, `f (n - 1)` applied in rising order. -/
def iterate {α : Type} (n : Nat) (f : Nat → α → α) (a : α) : α := (List.range n).foldl (fun s i => f i s) a

theorem Memory.get_set_ne (m : Memory) (k j : Nat) (b : Byte) (h : j ≠ k) : (m.set k b).get j = m.get j := by
  induction m with
  | nil =>
    simp only [Memory.set]
    split
    · rfl
    · simp [Memory.get, Ne.symm h]
  | cons p t ih =>
    obtain ⟨a, c⟩ := p
    simp only [Memory.set]
    split
    · split
      · rfl
      · simp [Memory.get, Ne.symm h]
    · split
      · rename_i _ e
        subst e
        split <;> simp [Memory.get, Ne.symm h]
      · simp [Memory.get, ih]

theorem Memory.get_of_lt (m : Memory) (k : Nat) (h : ∀ c ∈ m, k < c.1) : m.get k = 0 := by
  induction m with
  | nil => rfl
  | cons p t ih =>
    have h1 := h p (by simp)
    simp only [Memory.get]
    rw [if_neg (by omega)]
    exact ih fun c hc => h c (by simp [hc])

theorem Memory.get_set_self (m : Memory) (k : Nat) (b : Byte) (h : m.wf) : (m.set k b).get k = b := by
  induction m with
  | nil =>
    simp only [Memory.set]
    split
    · rename_i e; simp [Memory.get, e]
    · simp [Memory.get]
  | cons p t ih =>
    obtain ⟨a, c⟩ := p
    obtain ⟨hp, hz⟩ := h
    rw [List.pairwise_cons] at hp
    simp only [Memory.set]
    split
    · rename_i hlt
      split
      · rename_i e
        rw [e, Memory.get_of_lt]
        intro d hd
        rcases List.mem_cons.1 hd with rfl | hd
        · exact hlt
        · exact Nat.lt_trans hlt (hp.1 d hd)
      · simp [Memory.get]
    · split
      · rename_i e
        subst e
        split
        · rename_i e
          rw [e, Memory.get_of_lt _ _ hp.1]
        · simp [Memory.get]
      · rename_i h1 h2
        simp only [Memory.get]
        rw [if_neg (by omega)]
        exact ih ⟨hp.2, fun d hd => hz d (by simp [hd])⟩

theorem Memory.mem_set (m : Memory) (k : Nat) (b : Byte) (d : Host.Cell) (h : d ∈ m.set k b) :
    d ∈ m ∨ (d = (k, b) ∧ b ≠ 0) := by
  induction m with
  | nil =>
    simp only [Memory.set] at h
    split at h
    · simp at h
    · rename_i hb; exact .inr ⟨by simpa using h, hb⟩
  | cons p t ih =>
    obtain ⟨a, c⟩ := p
    simp only [Memory.set] at h
    split at h
    · split at h
      · exact .inl h
      · rename_i hb
        rcases List.mem_cons.1 h with h | h
        · exact .inr ⟨h, hb⟩
        · exact .inl h
    · split at h
      · split at h
        · exact .inl (by simp [h])
        · rename_i hb
          rcases List.mem_cons.1 h with h | h
          · exact .inr ⟨h, hb⟩
          · exact .inl (by simp [h])
      · rcases List.mem_cons.1 h with h | h
        · exact .inl (by simp [h])
        · rcases ih h with h | h
          · exact .inl (by simp [h])
          · exact .inr h

/-- Writing a byte keeps the canonical form. -/
theorem Memory.wf_set (m : Memory) (k : Nat) (b : Byte) (h : m.wf) : (m.set k b).wf := by
  induction m with
  | nil =>
    simp only [Memory.set]
    split
    · exact ⟨List.Pairwise.nil, by simp⟩
    · rename_i hb; exact ⟨by simp, by simpa using hb⟩
  | cons p t ih =>
    obtain ⟨a, c⟩ := p
    obtain ⟨hp, hz⟩ := h
    have hp' := hp
    rw [List.pairwise_cons] at hp
    have hzt : ∀ d ∈ t, d.2 ≠ 0 := fun d hd => hz d (by simp [hd])
    have ih := ih ⟨hp.2, hzt⟩
    simp only [Memory.set]
    split
    · rename_i hlt
      split
      · exact ⟨hp', hz⟩
      · rename_i hb
        refine ⟨List.pairwise_cons.2 ⟨?_, hp'⟩, ?_⟩
        · intro d hd
          rcases List.mem_cons.1 hd with rfl | hd
          · exact hlt
          · exact Nat.lt_trans hlt (hp.1 d hd)
        · intro d hd
          rcases List.mem_cons.1 hd with rfl | hd
          · exact hb
          · exact hz d hd
    · split
      · rename_i e
        subst e
        split
        · exact ⟨hp.2, hzt⟩
        · rename_i hb
          refine ⟨List.pairwise_cons.2 ⟨hp.1, hp.2⟩, ?_⟩
          intro d hd
          rcases List.mem_cons.1 hd with rfl | hd
          · exact hb
          · exact hzt d hd
      · rename_i h1 h2
        refine ⟨List.pairwise_cons.2 ⟨?_, ih.1⟩, ?_⟩
        · intro d hd
          rcases Memory.mem_set _ _ _ _ hd with hd | ⟨rfl, -⟩
          · exact hp.1 d hd
          · change a < k; omega
        · intro d hd
          rcases List.mem_cons.1 hd with rfl | hd
          · exact hz _ (by simp)
          · exact ih.2 d hd

theorem Memory.wf_write (n : Nat) : ∀ (m : Memory) (k v : Nat), m.wf → (m.write k n v).wf := by
  induction n with
  | zero => intro m k v h; exact h
  | succ n ih => intro m k v h; exact ih _ _ _ (Memory.wf_set _ _ _ h)

theorem Memory.wf_put (l : List Byte) : ∀ (m : Memory) (k : Nat), m.wf → (m.put k l).wf := by
  induction l with
  | nil => intro m k h; exact h
  | cons b t ih => intro m k h; exact ih _ _ (Memory.wf_set _ _ _ h)

theorem Memory.get_write_out (n : Nat) : ∀ (m : Memory) (k v j : Nat), j < k ∨ k + n ≤ j →
    (m.write k n v).get j = m.get j := by
  induction n with
  | zero => intro m k v j _; rfl
  | succ n ih =>
    intro m k v j h
    rw [Memory.write, ih _ _ _ _ (by omega), Memory.get_set_ne _ _ _ _ (by omega)]

theorem Memory.get_put_out (l : List Byte) : ∀ (m : Memory) (k j : Nat), j < k ∨ k + l.length ≤ j →
    (m.put k l).get j = m.get j := by
  induction l with
  | nil => intro m k j _; rfl
  | cons b t ih =>
    intro m k j h
    simp only [List.length_cons] at h
    rw [Memory.put, ih _ _ _ (by omega), Memory.get_set_ne _ _ _ _ (by omega)]

/-- Reading back what was written. -/
theorem Memory.read_write (n : Nat) : ∀ (m : Memory) (k v : Nat), m.wf → (m.write k n v).read k n = v % 256 ^ n := by
  induction n with
  | zero => intro m k v _; simp [Memory.read, Nat.mod_one]
  | succ n ih =>
    intro m k v h
    rw [Memory.write, Memory.read, ih _ _ _ (Memory.wf_set _ _ _ h), Memory.get_write_out _ _ _ _ _ (by omega),
      Memory.get_set_self _ _ _ h, BitVec.toNat_ofNat, show 256 ^ (n + 1) = 2 ^ 8 * 256 ^ n by omega]
    exact Nat.mod_mul.symm

end Sys2Proof.Machine
end

