-- ==== Sys2Proof/Machine/Regs.lean ====
section
/-! DEFINITION. Reading and writing registers: x0 (R26), fixed-latency results (R139 to R142), threads found by identity,
and the performance counters (R205). -/

namespace Sys2Proof.Machine

set_option linter.unusedVariables false

/-- `X[i]`: x0 reads 0 (R26). -/
def Thread.getX (t : Thread) (a : Reg) : Word := if a = 0 then 0 else t.x[a]

/-- Writes `X[d]`; a write to x0 is discarded (R26, R169). -/
def Thread.setX (t : Thread) (d : Reg) (v : Word) : Thread := if d = 0 then t else { t with x := t.x.set d v }

/-- `V[i]`. -/
def Thread.getV (t : Thread) (a : Reg) : BitVec 2048 := t.v[a]

def Thread.setV (t : Thread) (d : Reg) (v : BitVec 2048) : Thread := { t with v := t.v.set d v }

/-- The outstanding fixed-latency result of a register. -/
def Thread.pending (t : Thread) (r : Nat) : Option Pend := t.pend.find? fun p => p.reg = r

/-- Drops the outstanding result of a register, when a later result replaces it (R142). -/
def Thread.forget (t : Thread) (r : Nat) : Thread := { t with pend := t.pend.filter fun p => p.reg ≠ r }

/-- Every outstanding fixed-latency result lands and every credit becomes 0 (R142). -/
def Thread.land (t : Thread) : Thread := { t with pend := [] }

/-- Whether a register's last result is uncovered (R140). -/
def Thread.uncovered (t : Thread) (r : Nat) : Bool := t.pend.any fun p => p.reg = r

/-- The first uncovered operand, which traps STALL when `chk` is 1 (R141, R347). -/
def Thread.stalled (t : Thread) (rs : List Nat) : Option Nat := if t.chk then rs.find? t.uncovered else none

/-- A source operand (R141): an uncovered one reads the old value or the new one, as the free bit says, but the new one
once the result has landed. `k` tells the operands of one instruction apart. -/
def State.opX (s : State) (k : Nat) (a : Reg) : Word :=
  match s.th.pending a.val with
  | some p => if !p.landed && Config.freeBit (s.fresh + k) then BitVec.ofNat 64 p.old.toNat else s.th.getX a
  | none => s.th.getX a

/-- A vector source operand, likewise. -/
def State.opV (s : State) (k : Nat) (a : Reg) : BitVec 2048 :=
  match s.th.pending (32 + a.val) with
  | some p => if !p.landed && Config.freeBit (s.fresh + k) then p.old else s.th.getV a
  | none => s.th.getV a

/-- Writes an interlocked result to an x register (R139). -/
def State.wrX (s : State) (d : Reg) (v : Word) : State := { s with th := (s.th.setX d v).forget d.val }

/-- Writes a fixed-latency result of latency `l` to an x register; encoding version 1 interlocks every result (R167). -/
def State.wrXFix (s : State) (l : Nat) (d : Reg) (v : Word) : State :=
  if s.th.enc = 1 || d = 0 then s.wrX d v
  else
    let t := (s.th.setX d v).forget d.val
    { s with th := { t with pend := ⟨d.val, l, (s.th.getX d).setWidth 2048, false⟩ :: t.pend } }

/-- Writes an interlocked result to a vector register. -/
def State.wrV (s : State) (d : Reg) (v : BitVec 2048) : State := { s with th := (s.th.setV d v).forget (32 + d.val) }

/-- Writes a fixed-latency result of latency `l` to a vector register (R209). -/
def State.wrVFix (s : State) (l : Nat) (d : Reg) (v : BitVec 2048) : State :=
  if s.th.enc = 1 then s.wrV d v
  else
    let t := (s.th.setV d v).forget (32 + d.val)
    { s with th := { t with pend := ⟨32 + d.val, l, s.th.getV d, false⟩ :: t.pend } }

/-- The stall count W of the word being executed (R136). -/
def Thread.w (t : Thread) : Nat := t.ir.toNat / 2 ^ 30

/-- The credits after an instruction with stall count `w` has issued (R140); a credit of 0 or less is covered. -/
def spend (w : Nat) (ps : List Pend) : List Pend :=
  (ps.map fun p => { p with credit := p.credit - (w + 1) }).filter fun p => 0 < p.credit

/-- Updates the thread of an identity, wherever its slot. -/
def State.onTid (s : State) (tid : Nat) (f : Thread → Thread) : State :=
  if s.th.live && s.th.tid = tid then { s with th := f s.th }
  else { s with slots := s.slots.map fun t => if t.tid = tid then f t else t }

/-- The threads that hold slots. -/
def State.threads (s : State) : List Thread := if s.th.live then s.th :: s.slots else s.slots

/-- The thread of an identity, if it holds a slot. -/
def State.findTid (s : State) (tid : Nat) : Option Thread := s.threads.find? fun t => t.tid = tid

/-- The launch of an id. -/
def State.launch (s : State) (lid : Nat) : Option Launch := s.lp.launches.find? fun l => l.lid = lid

/-- Updates a launch. -/
def State.onLaunch (s : State) (lid : Nat) (f : Launch → Launch) : State :=
  { s with lp := { s.lp with launches := s.lp.launches.map fun l => if l.lid = lid then f l else l } }

/-- Whether a launch's rectangle holds a core. -/
def Launch.holds (l : Launch) (core : Nat) : Bool :=
  l.x0 ≤ core % 64 && core % 64 < l.x0 + 2 ^ l.wlog && l.y0 ≤ core / 64 && core / 64 < l.y0 + 2 ^ l.hlog

/-- A floe's state; an unlisted floe is as after reset. -/
def State.floe (s : State) (f : Nat) : Floe := (look s.floes f).getD Floe.reset

def State.setFloe (s : State) (f : Nat) (x : Floe) : State := { s with floes := put s.floes f x }

def State.onFloe (s : State) (f : Nat) (g : Floe → Floe) : State := s.setFloe f (g (s.floe f))

/-- A die's synchronisation engine. -/
def State.die (s : State) (d : Nat) : Die := s.sync.dies[Fin.ofNat 4 d]

def State.onDie (s : State) (d : Nat) (g : Die → Die) : State :=
  { s with sync := { s.sync with dies := s.sync.dies.set (Fin.ofNat 4 d) (g (s.die d)) } }

/-- The tenant table's entry (R36). -/
def State.tenantCfg (s : State) (t : Nat) : Option TenantCfg := s.lp.tenants.find? fun c => c.id = t

/-- Whether a tenant's sub-mesh holds a core (R36). -/
def holdsCore (c : TenantCfg) (core : Nat) : Bool :=
  c.x0 ≤ core % 64 && core % 64 < c.x0 + 2 ^ c.wlog && c.y0 ≤ core / 64 && core / 64 < c.y0 + 2 ^ c.hlog

/-- The tenant of a core: the one whose sub-mesh holds it (R36); 0 where none does. -/
def State.tenantOf (s : State) (core : Nat) : Nat :=
  match s.lp.tenants.find? fun c => holdsCore c core with
  | some c => c.id
  | none => 0

/-- Whether a tenant's sub-mesh holds at least one core of a floe (R37). -/
def State.reaches (s : State) (tenant floe : Nat) : Bool :=
  match s.tenantCfg tenant with
  | some c => (List.range 8).any fun i => holdsCore c (coreOfFloe floe i)
  | none => false

/-- Counts `n` occurrences of a performance event for a slot of a core (R205). -/
def Pmu.count (p : Pmu) (slot ev n : Nat) : Pmu :=
  iterate 4 (fun i p =>
    let k : Fin 4 := Fin.ofNat 4 i
    let c := p.sel[k].toNat
    if bits c 8 1 = 1 && bits c 0 8 = ev && (bits c 12 1 = 1 || bits c 10 2 = slot) then
      let v := p.cnt[k].toNat + n
      { p with
        cnt := p.cnt.set k (BitVec.ofNat 64 v)
        sel := if 2 ^ 64 ≤ v then p.sel.set k (p.sel[k] ||| 0x8000) else p.sel }
    else p) p

/-- Counts an event for a slot; a core whose counters were never written counts nothing (R205). -/
def State.countFor (s : State) (core slot ev n : Nat) : State :=
  { s with host := { s.host with pmu := s.host.pmu.map fun p => if p.core = core then p.count slot ev n else p } }

def State.count (s : State) (ev : Nat) : State := s.countFor s.th.core s.th.slot ev 1

end Sys2Proof.Machine
end

