-- ==== Sys2Proof/Machine/Cache.lean ====
section
/-! DEFINITION. The caches (R65, R67 to R69): lines of two sectors in sets, their retention hints, the placing and the
choosing of victims, and the sectors that L2 homes hold. -/

namespace Sys2Proof.Machine

set_option linter.unusedVariables false

/-! ### Lines, sets and hints -/

/-- The home of a line: die × 64 + slice (R65). -/
def homeOf (a : Nat) : Nat := bits a 8 8 ^^^ bits a 16 8 ^^^ bits a 24 8 ^^^ bits a 32 8

/-- How a cache keeps its sectors (R67): a sector's line and set, both numbered over all caches of the kind, the hint of a
line, the ways of a set and the most sticky ways. -/
structure Geo (α : Type) where
  line   : α → Nat
  sector : α → Nat
  set    : α → Nat
  hint   : α → Hint
  mark   : α → Hint → α
  ways   : Nat
  sticky : Nat

/-- The lines of a set, the most recently used first. -/
def Geo.lines {α : Type} (g : Geo α) (l : List α) (set : Nat) : List Nat :=
  ((l.filter fun c => g.set c = set).map g.line).eraseDups

/-- Whether a line is sticky. -/
def Geo.stuck {α : Type} (g : Geo α) (l : List α) (line : Nat) : Bool :=
  l.any fun c => g.line c = line && g.hint c = .hk

/-- The lines of a set that go first, `n` of them: the least recently used, sticky ones after all others (R68). -/
def Geo.victims {α : Type} (g : Geo α) (l : List α) (set n : Nat) : List Nat :=
  let ids := (g.lines l set).reverse
  ((ids.filter fun i => !g.stuck l i) ++ ids.filter fun i => g.stuck l i).take n

/-- Room for one more sticky line: the least recently used of too many becomes a default line (R69). -/
def Geo.demote {α : Type} (g : Geo α) (l : List α) (set : Nat) : List α :=
  let st := (g.lines l set).filter fun i => g.stuck l i
  if st.length < g.sticky then l
  else
    match st.getLast? with
    | some v => l.map fun c => if g.line c = v then g.mark c .hd else c
    | none => l

/-- A sector inserted or touched with the hint it has (R68, R69): its line records the hint and becomes the most recently
used, but a streaming insertion of a new line makes it the next victim of its set. -/
def Geo.place {α : Type} (g : Geo α) (l : List α) (c : α) (insert : Bool) : List α :=
  let mine := c :: (l.filter fun d => g.line d = g.line c && g.sector d ≠ g.sector c).map fun d => g.mark d (g.hint c)
  let rest := l.filter fun d => g.line d ≠ g.line c
  let rest := if g.hint c = .hk then g.demote rest (g.set c) else rest
  if insert && g.hint c = .hs then
    let v := g.victims rest (g.set c) ((g.lines rest (g.set c)).length + 1 - g.ways)
    (rest.filter fun d => !v.contains (g.line d)) ++ mine ++ rest.filter fun d => v.contains (g.line d)
  else mine ++ rest

/-- The lines that overfull sets have lost. -/
def Geo.spill {α : Type} (g : Geo α) (l : List α) : List Nat :=
  (l.map g.set).eraseDups.flatMap fun st => g.victims l st ((g.lines l st).length - g.ways)

/-- The L1D of a core: 256 sets of 12 ways, 3 sticky; a line's set is its number modulo 256. -/
def geo1 : Geo Copy1 where
  line c := c.core * 2 ^ 50 + c.sector / 2
  sector c := c.sector
  set c := c.core * 256 + c.sector / 2 % 256
  hint c := c.hint
  mark c h := { c with hint := h }
  ways := 12
  sticky := 3

/-- The L1I of a core: 64 sets of 4 ways; fetches carry no hint. -/
def geoI : Geo CopyI where
  line c := c.core * 2 ^ 50 + c.sector / 2
  sector c := c.sector
  set c := c.core * 64 + c.sector / 2 % 64
  hint _ := .hd
  mark c _ := c
  ways := 4
  sticky := 1

/-- The L2 slices: 512 sets of 24 ways each, 6 sticky; address bits [24:16] choose a line's set within its home slice. -/
def geo2 : Geo Copy2 where
  line c := c.sector / 2
  sector c := c.sector
  set c := homeOf (c.sector * 128) * 512 + bits (c.sector * 128) 16 9
  hint c := c.hint
  mark c h := { c with hint := h }
  ways := 24
  sticky := 6

/-- The retention hint of a line in L1 after an access: a bypass access never changes it (R69). -/
def touch (c : Copy1) (h : Hint) : Copy1 := if h = .hb then c else { c with hint := h }

/-- Inserts or touches a copy in its L1D (R68, R69). -/
def useCopy (l : List Copy1) (c : Copy1) : List Copy1 := geo1.place l c (!l.any fun d => geo1.line d = geo1.line c)

/-- The retention hint of a 2-bit code (R138). -/
def hintOf (c : Nat) : Hint :=
  match c % 4 with
  | 0 => .hd | 1 => .hs | 2 => .hk | _ => .hb

/-- The L2 takes a bypass access as streaming (R68). -/
def hint2 (h : Hint) : Hint := if h = .hb then .hs else h

/-! ### The sectors that L2 homes hold -/

/-- The storage key of a byte that its L2 home holds, by its virtual address (R77). -/
def vkey (a : Nat) : Nat := 2 ^ 61 + a

/-- The entry of an address's sector at its L2 home. -/
def MemSys.at2 (m : MemSys) (a : Nat) : Option Copy2 := m.l2.find? fun c => c.sector = a / 128

/-- Whether the L2 home of an address holds its sector. -/
def MemSys.resident (m : MemSys) (a : Nat) : Bool := m.l2.any fun c => c.sector = a / 128

/-- Where the home finds a byte: in its L2 slice, else in memory at its physical address. -/
def MemSys.homeKey (m : MemSys) (a phys : Nat) : Nat := if m.resident a then vkey a else phys

/-- The physical address of a byte that a home found at a key. -/
def MemSys.physKey (m : MemSys) (key : Nat) : Nat :=
  if 2 ^ 61 ≤ key then
    match m.at2 (key - 2 ^ 61) with
    | some c => c.key + key % 128
    | none => key
  else key

/-- Where a physical byte is found: in the L2 slice that holds its sector, else in memory. -/
def MemSys.frameKey (m : MemSys) (pa : Nat) : Nat :=
  match m.l2.find? fun c => c.key = pa / 128 * 128 with
  | some c => vkey (c.sector * 128 + pa % 128)
  | none => pa

/-- Rising insertion without repeats. -/
def addOff : List Nat → Nat → List Nat
  | [], o => [o]
  | x :: t, o => if o < x then o :: x :: t else if o = x then x :: t else x :: addOff t o

/-- Marks `n` bytes from a key dirty at their L2 home, when it holds them (R67); no write crosses a sector. -/
def dirty2 (l : List Copy2) (key n : Nat) : List Copy2 :=
  if key < 2 ^ 61 then l
  else l.map fun c =>
    if c.sector = (key - 2 ^ 61) / 128 then
      { c with dirty := (List.range n).foldl (fun d i => addOff d (key % 128 + i)) c.dirty }
    else c

/-- An access reaches a sector at its L2 home (R68, R69). -/
def touch2 (m : MemSys) (a : Nat) (h : Hint) : MemSys :=
  match m.at2 a with
  | none => m
  | some c =>
    let old := m.l2.any fun d => d.sector / 2 = c.sector / 2 && (d.sector ≠ c.sector || !d.new)
    { m with l2 := geo2.place m.l2 { c with hint := hint2 h, new := false } (c.new && !old) }

/-- Moves the marks of one sector's pending reductions from one place of its bytes to another. -/
def moveReds (l : List Red) (src dst : Nat) : List Red :=
  l.map fun r => if src ≤ r.key && r.key < src + 128 then { r with key := dst + (r.key - src) } else r

/-- Fills a sector into its L2 home from its physical place, with its poison (R67, R367). -/
def fill2 (m : MemSys) (a phys : Nat) (h : Hint) (new : Bool) : MemSys :=
  if m.resident a then m
  else
    let v := vkey (a / 128 * 128)
    let p := phys / 128 * 128
    let c : Copy2 := ⟨a / 128, p, [], hint2 h, new⟩
    { m with
      l2 := geo2.place m.l2 c (!m.l2.any fun d => d.sector / 2 = c.sector / 2)
      bytes := m.bytes.put v (m.bytes.bytes p 128)
      poison := if m.poison.contains p then v :: m.poison else m.poison
      reds := moveReds m.reds p v }

/-- Writes the dirty bytes of a sector at its L2 home to memory, with its poison (R67, R367); the home keeps the sector clean. -/
def clean2 (m : MemSys) (c : Copy2) : MemSys :=
  let v := vkey (c.sector * 128)
  let keep := m.poison.filter fun g => !(g = c.key && c.dirty.length = 128)
  { m with
    l2 := m.l2.map fun d => if d.sector = c.sector then { d with dirty := [] } else d
    bytes := c.dirty.foldl (fun b o => Memory.set b (c.key + o) (m.bytes.get (v + o))) m.bytes
    poison := if m.poison.contains v && !keep.contains c.key then c.key :: keep else keep }

/-- A sector leaves its L2 home, its bytes in memory as they stand there. -/
def forget2 (m : MemSys) (c : Copy2) : MemSys :=
  let v := vkey (c.sector * 128)
  { m with
    l2 := m.l2.filter fun d => d.sector ≠ c.sector
    bytes := m.bytes.filter fun b => b.1 < v || v + 128 ≤ b.1
    poison := m.poison.filter fun g => g ≠ v
    reds := moveReds m.reds v c.key }

end Sys2Proof.Machine
end

