-- ==== Sys2Proof/Machine/Num.lean ====
section
/-! DEFINITION. Number formats and exact arithmetic (R101 to R119): exact values, one rounding, exact accumulators and
the stochastic-rounding generator. Every function here is a function of its arguments alone. -/

namespace Sys2Proof

open Sys2Proof.Machine

set_option linter.unusedVariables false

/-- How one result rounds (R107); under SR the element's `k`-bit number `u` (R116). -/
inductive Mode where
  | rne | rz | rdn | rup
  | sr (k u : Nat)
  deriving DecidableEq, Repr

/-- The value of an element (R103): a NaN, an infinity, or (-1)^neg × m × 2^e. -/
inductive Val where
  | nan (sig : Bool)
  | inf (neg : Bool)
  | fin (neg : Bool) (m : Nat) (e : Int)
  deriving DecidableEq, Repr

/-- An exact result before its rounding: a NaN (with NV), an infinity (with DZ), or a magnitude m × 2^e plus, when `st`
is set, something positive below 2^e. -/
inductive Ex where
  | nan (nv : Bool)
  | inf (neg dz : Bool)
  | fin (neg : Bool) (m : Nat) (e : Int) (st : Bool)
  deriving DecidableEq, Repr

/-- A rounded result with the flags it raises, in the layout of `fflags` (R110). -/
structure Rnd where
  bits  : Nat
  flags : BitVec 6
  deriving DecidableEq, Repr

def fNX : BitVec 6 := 1
def fUF : BitVec 6 := 2
def fOF : BitVec 6 := 4
def fDZ : BitVec 6 := 8
def fNV : BitVec 6 := 16
def fSAT : BitVec 6 := 32

/-- A flag when a condition holds. -/
def flagIf (b : Bool) (f : BitVec 6) : BitVec 6 := if b then f else 0

/-- Mantissa bits (R103). -/
def Fmt.mant : Fmt → Nat
  | .fp64 => 52 | .fp32 => 23 | .fp16 => 10 | .bf16 => 7 | .e4m3 => 3 | .e5m2 => 2 | .e3m2 => 2 | .e2m3 => 3
  | .e2m1 => 1 | .qg8 | .qg4 | .i8 | .i16 | .i32 | .e8m0 => 0

/-- Exponent bits (R103). -/
def Fmt.expo : Fmt → Nat
  | .fp64 => 11 | .fp32 => 8 | .fp16 => 5 | .bf16 => 8 | .e4m3 => 4 | .e5m2 => 5 | .e3m2 => 3 | .e2m3 => 2
  | .e2m1 => 2 | .e8m0 => 8 | .qg8 | .qg4 | .i8 | .i16 | .i32 => 0

/-- The exponent bias (R103). -/
def Fmt.bias : Fmt → Int
  | .fp64 => 1023 | .fp32 => 127 | .fp16 => 15 | .bf16 => 127 | .e4m3 => 7 | .e5m2 => 15 | .e3m2 => 3 | .e2m3 => 1
  | .e2m1 => 1 | .e8m0 => 127 | .qg8 | .qg4 | .i8 | .i16 | .i32 => 0

/-- The exponent of the largest finite value (R103). -/
def Fmt.emax : Fmt → Int
  | .fp64 => 1023 | .fp32 => 127 | .fp16 => 15 | .bf16 => 127 | .e4m3 => 8 | .e5m2 => 15 | .e3m2 => 4 | .e2m3 => 2
  | .e2m1 => 2 | .e8m0 => 127 | .qg8 | .qg4 | .i8 | .i16 | .i32 => 0

/-- Width in memory, in bits (R102, R104). -/
def Fmt.width : Fmt → Nat
  | .fp64 => 64 | .fp32 => 32 | .fp16 => 16 | .bf16 => 16 | .e4m3 => 8 | .e5m2 => 8 | .e3m2 => 6 | .e2m3 => 6
  | .e2m1 => 4 | .qg8 => 8 | .qg4 => 4 | .i8 => 8 | .i16 => 16 | .i32 => 32 | .e8m0 => 8

/-- Width of the container in a vector lane (R102, R229). -/
def Fmt.cell : Fmt → Nat
  | .e3m2 | .e2m3 => 8
  | f => f.width

/-- Whether the format has infinities (R103). -/
def Fmt.hasInf : Fmt → Bool
  | .fp64 | .fp32 | .fp16 | .bf16 | .e5m2 => true
  | _ => false

/-- Whether the code is an integer (R101). -/
def Fmt.isInt : Fmt → Bool
  | .i8 | .i16 | .i32 => true
  | _ => false

/-- The canonical NaN (R103); formats with no NaN give +0 (R109). -/
def Fmt.canon : Fmt → Nat
  | .fp64 => 0x7FF8000000000000 | .fp32 => 0x7FC00000 | .fp16 => 0x7E00 | .bf16 => 0x7FC0 | .e4m3 => 0x7F
  | .e5m2 => 0x7E | .e8m0 => 0xFF
  | _ => 0

/-- The largest finite significand: all ones, but 1.110 for E4M3 (R103). -/
def Fmt.maxSig : Fmt → Nat
  | .e4m3 => 14
  | f => 2 ^ (f.mant + 1) - 1

/-- The bits of the largest finite value without its sign. -/
def Fmt.maxBits (f : Fmt) : Nat :=
  (f.emax + f.bias).toNat * 2 ^ f.mant + (f.maxSig - 2 ^ f.mant)

/-- The value of an integer. -/
def Val.ofInt (i : Int) : Val := .fin (i < 0) i.natAbs 0

/-- The value of an element's bits (R101, R103). QG codes read as the code itself (R106). -/
def Fmt.val (f : Fmt) (b : Nat) : Val :=
  match f with
  | .i8 => Val.ofInt (signed b 8)
  | .i16 => Val.ofInt (signed b 16)
  | .i32 => Val.ofInt (signed b 32)
  | .qg8 => .fin false (b % 256) 0
  | .qg4 => .fin false (b % 16) 0
  | .e8m0 => if b % 256 = 255 then .nan false else .fin false 1 (b % 256 - 127)
  | f =>
    let s := bits b (f.expo + f.mant) 1 = 1
    let e := bits b f.mant f.expo
    let m := bits b 0 f.mant
    if f.hasInf && e = 2 ^ f.expo - 1 then
      if m = 0 then .inf s else .nan (f.isWide && m < 2 ^ (f.mant - 1))
    else if f = .e4m3 && b % 128 = 127 then .nan false
    else if e = 0 then .fin s m (1 - f.bias - f.mant)
    else .fin s (2 ^ f.mant + m) (e - f.bias - f.mant)

/-- Whether the grid value is rounded away from zero (R107, R116): `rem` of `2^s`, with more behind when `st`. -/
def roundUp (md : Mode) (neg odd : Bool) (rem s : Nat) (st : Bool) : Bool :=
  match md with
  | .rne => 2 * rem > 2 ^ s || (2 * rem = 2 ^ s && (st || odd))
  | .rz => false
  | .rdn => neg && (rem ≠ 0 || st)
  | .rup => !neg && (rem ≠ 0 || st)
  | .sr k u => (rem ≠ 0 || st) && u < rem * 2 ^ k / 2 ^ s

/-- A magnitude on the grid of 2^q: the multiple, and whether it is inexact. -/
def onGrid (md : Mode) (neg : Bool) (m : Nat) (e : Int) (st : Bool) (q : Int) (odd : Nat → Bool) : Nat × Bool :=
  if q ≤ e then (m * 2 ^ (e - q).toNat, st)
  else
    let s := (q - e).toNat
    let n := m / 2 ^ s
    let r := m % 2 ^ s
    (n + (roundUp md neg (odd n) r s st).toNat, r ≠ 0 || st)

/-- The sign bit of a format over a magnitude's bits. -/
def withSign (f : Fmt) (neg : Bool) (b : Nat) : Nat := b + neg.toNat * 2 ^ (f.expo + f.mant)

/-- An infinity of a format: the infinity, or what R108 puts in its place. -/
def infBits (f : Fmt) (nsat neg : Bool) : Nat :=
  if f.hasInf then withSign f neg ((2 ^ f.expo - 1) * 2 ^ f.mant)
  else if f = .e4m3 && nsat then f.canon
  else withSign f neg f.maxBits

/-- The overflowed result (R108). -/
def overflow (f : Fmt) (md : Mode) (nsat neg : Bool) : Rnd :=
  if f.hasInf || (f = .e4m3 && nsat) then
    let toInf := match md with
      | .rne | .sr _ _ => true
      | .rz => false
      | .rup => !neg
      | .rdn => neg
    ⟨if toInf then infBits f nsat neg else withSign f neg f.maxBits, fOF ||| fNX⟩
  else ⟨withSign f neg f.maxBits, fSAT ||| fNX⟩

/-- Rounding to E8M0 (R107, R109): the power of two, the tie to the even code, clamped to -127 … 127. DESIGN CHOICE (log 114): a
value below 2^-127 sets SAT and NX and not UF. -/
def roundE8 (md : Mode) (m : Nat) (e : Int) (st : Bool) : Rnd :=
  let l := (Nat.log2 m : Int) + e
  let (n, ix) := onGrid md false m e st l (fun _ => (l + 127) % 2 = 1)
  let k := if n = 1 then l else l + 1
  if k < -127 then ⟨0, fSAT ||| fNX⟩
  else if 127 < k then ⟨0xFE, fSAT ||| fNX⟩
  else ⟨(k + 127).toNat, flagIf ix fNX⟩

/-- `Round` of a non-zero finite magnitude to a floating-point format (R107 to R109). -/
def roundFin (f : Fmt) (md : Mode) (nsat neg : Bool) (m : Nat) (e : Int) (st : Bool) : Rnd :=
  let l := (Nat.log2 m : Int) + e
  let emin := 1 - f.bias
  let q := max (l - f.mant) (emin - f.mant)
  let (n, ix) := onGrid md neg m e st q (fun n => n % 2 = 1)
  let mq := f.emax - f.mant
  if (if mq ≤ q then f.maxSig < n * 2 ^ (q - mq).toNat else f.maxSig * 2 ^ (mq - q).toNat < n) then
    overflow f md nsat neg
  else
    let fl := flagIf ix fNX ||| flagIf (ix && l < emin) fUF
    if n < 2 ^ f.mant then ⟨withSign f neg n, fl⟩
    else
      let g := Nat.log2 n - f.mant
      ⟨withSign f neg ((q + g + f.mant + f.bias).toNat * 2 ^ f.mant + (n / 2 ^ g - 2 ^ f.mant)), fl⟩

/-- `Round` of an exact result to a floating-point format, with every special value (R107 to R109). `sig` says that a
signalling NaN was an operand. -/
def round (f : Fmt) (md : Mode) (nsat : Bool) : Ex → Rnd
  | .nan nv => ⟨f.canon, flagIf (nv || f = .e3m2 || f = .e2m3 || f = .e2m1 || f = .e8m0) fNV⟩
  | .inf neg dz =>
    if f = .e8m0 then (if neg then ⟨0xFF, fNV⟩ else ⟨0xFE, fSAT⟩)
    else if f.hasInf then ⟨infBits f nsat neg, flagIf dz fDZ⟩
    else if f = .e4m3 && nsat then ⟨f.canon, fNV⟩
    else ⟨withSign f neg f.maxBits, fSAT⟩
  | .fin neg m e st =>
    if f = .e8m0 then (if neg || (m = 0 && !st) then ⟨0xFF, fNV⟩ else roundE8 md m e st)
    else if m = 0 then ⟨withSign f neg 0, 0⟩
    else roundFin f md nsat neg m e st

/-- Rounding to an integer of `w` bits, signed or not (R107, R109): the integer in two's complement. -/
def roundInt (w : Nat) (sgn : Bool) (md : Mode) : Ex → Rnd
  | .nan _ => ⟨0, fNV⟩
  | .inf neg _ =>
    ⟨if sgn then (if neg then 2 ^ (w - 1) else 2 ^ (w - 1) - 1) else (if neg then 0 else 2 ^ w - 1), fNV⟩
  | .fin neg m e st =>
    let (n, ix) := onGrid md neg m e st 0 (fun n => n % 2 = 1)
    let i : Int := if neg then -(n : Int) else n
    let lo : Int := if sgn then -(2 ^ (w - 1) : Nat) else 0
    let hi : Int := if sgn then (2 ^ (w - 1) : Nat) - 1 else (2 ^ w : Nat) - 1
    if i < lo then ⟨unsigned lo w, fNV⟩
    else if hi < i then ⟨unsigned hi w, fNV⟩
    else ⟨unsigned i w, flagIf ix fNX⟩

/-- Rounding to a format of R104: integers of `vcvt` and `vqcvt` are signed. -/
def roundTo (f : Fmt) (md : Mode) (nsat : Bool) (x : Ex) : Rnd :=
  match f with
  | .i8 => roundInt 8 true md x
  | .i16 => roundInt 16 true md x
  | .i32 => roundInt 32 true md x
  | f => round f md nsat x

/-- A value as an exact result: a signalling NaN raises NV. -/
def Val.ex : Val → Ex
  | .nan s => .nan s
  | .inf n => .inf n false
  | .fin n m e => .fin n m e false

def Val.isNan : Val → Bool
  | .nan _ => true
  | _ => false

def Val.isSig : Val → Bool
  | .nan s => s
  | _ => false

def Val.negate : Val → Val
  | .nan s => .nan s
  | .inf n => .inf (!n)
  | .fin n m e => .fin (!n) m e

/-- The integer of a finite value in units of 2^u, exact when u is at most the value's exponent. -/
def scaled (neg : Bool) (m : Nat) (e u : Int) : Int :=
  let n : Int := m * 2 ^ (e - u).toNat
  if neg then -n else n

/-- a + b (R174, R109); an exact zero of other terms is −0 under RDN (R107). -/
def addV (rdn : Bool) : Val → Val → Ex
  | .nan s, b => .nan (s || b.isSig)
  | a, .nan s => .nan (s || a.isSig)
  | .inf n, .inf k => if n = k then .inf n false else .nan true
  | .inf n, .fin _ _ _ => .inf n false
  | .fin _ _ _, .inf n => .inf n false
  | .fin n m e, .fin k l g =>
    let u := min e g
    let s := scaled n m e u + scaled k l g u
    if s = 0 then .fin (if m = 0 && l = 0 && n = k then n else rdn) 0 u false
    else .fin (s < 0) s.natAbs u false

/-- a × b as a value; NaN signals stand for an invalid product. -/
def mulV : Val → Val → Val × Bool
  | .nan s, b => (.nan (s || b.isSig), false)
  | a, .nan s => (.nan (s || a.isSig), false)
  | .inf n, .inf k => (.inf (n != k), false)
  | .inf n, .fin k m _ => if m = 0 then (.nan false, true) else (.inf (n != k), false)
  | .fin k m _, .inf n => if m = 0 then (.nan false, true) else (.inf (n != k), false)
  | .fin n m e, .fin k l g => (.fin (n != k) (m * l) (e + g), false)

/-- a × b as an exact result. -/
def mulE (a b : Val) : Ex :=
  let (p, inv) := mulV a b
  match p with
  | .nan s => .nan (s || inv)
  | p => p.ex

/-- a × b + c with one rounding (R174). -/
def fmaE (rdn : Bool) (a b c : Val) : Ex :=
  let (p, inv) := mulV a b
  match addV rdn p c with
  | .nan s => .nan (s || inv)
  | x => x

/-- a / b (R174, R109). -/
def divE : Val → Val → Ex
  | .nan s, b => .nan (s || b.isSig)
  | a, .nan s => .nan (s || a.isSig)
  | .inf _, .inf _ => .nan true
  | .inf n, .fin k _ _ => .inf (n != k) false
  | .fin n _ _, .inf k => .fin (n != k) 0 0 false
  | .fin n m e, .fin k l g =>
    if l = 0 then (if m = 0 then .nan true else .inf (n != k) true)
    else
      let s := 256 + Nat.log2 l
      .fin (n != k) (m * 2 ^ s / l) (e - g - s) (m * 2 ^ s % l ≠ 0)

/-- The integer square root, bit by bit. -/
def isqrtFrom (n : Nat) : Nat → Nat → Nat
  | 0, r => r
  | b + 1, r => if (r + 2 ^ b) * (r + 2 ^ b) ≤ n then isqrtFrom n b (r + 2 ^ b) else isqrtFrom n b r

def isqrt (n : Nat) : Nat := isqrtFrom n (Nat.log2 n / 2 + 1) 0

/-- √a (R174): √(−0) = −0. -/
def sqrtE : Val → Ex
  | .nan s => .nan s
  | .inf n => if n then .nan true else .inf false false
  | .fin n m e =>
    if m = 0 then .fin n 0 0 false
    else if n then .nan true
    else
      let odd := e % 2 = 1
      let m' := (if odd then 2 * m else m) * 2 ^ 512
      let e' := (if odd then e - 1 else e) / 2 - 256
      let r := isqrt m'
      .fin false r e' (r * r ≠ m')

/-- Whether a < b, both not NaN. -/
def ltV : Val → Val → Bool
  | .inf n, .inf k => n && !k
  | .inf n, _ => n
  | _, .inf k => !k
  | .fin n m e, .fin k l g => let u := min e g; scaled n m e u < scaled k l g u
  | _, _ => false

/-- Whether a = b, both not NaN; +0 = −0. -/
def eqV : Val → Val → Bool
  | .inf n, .inf k => n = k
  | .fin n m e, .fin k l g => let u := min e g; scaled n m e u = scaled k l g u
  | _, _ => false

/-- Whether a value is negative in sign. -/
def Val.sign : Val → Bool
  | .inf n | .fin n _ _ => n
  | .nan _ => false

/-- Whether a comes before b in the order of IEEE 754-2019 minimum, −0 below +0 (R114, R175). -/
def belowV (a b : Val) : Bool := ltV a b || (eqV a b && a.sign && !b.sign)

/-- A floating-point minimum or maximum of two elements' bits (R175): NaN gives the canonical NaN. -/
def minMax (f : Fmt) (isMax : Bool) (x y : Nat) : Rnd :=
  let a := f.val x
  let b := f.val y
  if a.isNan || b.isNan then ⟨f.canon, flagIf (a.isSig || b.isSig) fNV⟩
  else if belowV a b != isMax then ⟨x % 2 ^ f.width, 0⟩ else ⟨y % 2 ^ f.width, 0⟩

/-- The compares of R175 and R224: 0 eq, 1 lt, 2 le, 3 unordered. The flag is NV. -/
def cmpFp (f : Fmt) (op : Nat) (x y : Nat) : Bool × BitVec 6 :=
  let a := f.val x
  let b := f.val y
  let nan := a.isNan || b.isNan
  let sig := a.isSig || b.isSig
  match op with
  | 0 => (!nan && eqV a b, flagIf sig fNV)
  | 1 => (!nan && ltV a b, flagIf nan fNV)
  | 2 => (!nan && (ltV a b || eqV a b), flagIf nan fNV)
  | _ => (nan, flagIf sig fNV)

/-- An exact accumulator (R111, R112) with its sum as an integer; `wide` selects XA64. -/
structure Acc where
  wide : Bool
  nan  : Bool
  pinf : Bool
  ninf : Bool
  any  : Bool
  negz : Bool
  posz : Bool
  sum  : Int
  deriving DecidableEq, Repr

def Acc.empty (wide : Bool) : Acc := ⟨wide, false, false, false, false, true, true, 0⟩

/-- The unit's exponent and the width of the sum (R111, R112). -/
def Acc.unit (a : Acc) : Int := if a.wide then -1074 else -149
def Acc.width (a : Acc) : Nat := if a.wide then 2131 else 310

/-- `ExactAdd` (R113). -/
def Acc.add (a : Acc) : Val → Acc
  | .nan _ => { a with any := true, nan := true }
  | .inf n => if n then { a with any := true, ninf := true } else { a with any := true, pinf := true }
  | .fin n m e =>
    { a with
      any := true
      negz := a.negz && (m = 0 && n)
      posz := a.posz && (m = 0 && !n)
      sum := signed (unsigned (a.sum + scaled n m e a.unit) a.width) a.width }

/-- `ExactMerge` (R113). -/
def Acc.merge (p q : Acc) : Acc where
  wide := p.wide
  nan := p.nan || q.nan
  pinf := p.pinf || q.pinf
  ninf := p.ninf || q.ninf
  any := p.any || q.any
  negz := p.negz && q.negz
  posz := p.posz && q.posz
  sum := signed (unsigned (p.sum + q.sum) p.width) p.width

/-- The layout of an exact accumulator (R111, R112): its bytes, and its value as one number. -/
def Acc.size (wide : Bool) : Nat := if wide then 280 else 40

def Acc.code (a : Acc) : Nat :=
  let top := 8 * Acc.size a.wide - 6
  unsigned a.sum a.width + 2 ^ top *
    (a.posz.toNat + 2 * a.negz.toNat + 4 * a.any.toNat + 8 * a.ninf.toNat + 16 * a.pinf.toNat + 32 * a.nan.toNat)

def Acc.ofCode (wide : Bool) (c : Nat) : Acc :=
  let top := 8 * Acc.size wide - 6
  let b (i : Nat) : Bool := bits c (top + i) 1 = 1
  let w := (Acc.empty wide).width
  ⟨wide, b 5, b 4, b 3, b 2, b 1, b 0, signed (bits c 0 w) w⟩

/-- `ExactRead` before its rounding (R113). -/
def Acc.ex (a : Acc) (rdn : Bool) : Ex :=
  if a.nan then .nan false
  else if a.pinf && a.ninf then .nan true
  else if a.pinf then .inf false false
  else if a.ninf then .inf true false
  else if a.sum = 0 then
    if !a.any then .fin false 0 0 false
    else if rdn then .fin (!a.posz) 0 0 false
    else .fin a.negz 0 0 false
  else .fin (a.sum < 0) a.sum.natAbs a.unit false

/-- `ExactRead` (R113). -/
def Acc.read (a : Acc) (f : Fmt) (md : Mode) : Rnd := round f md false (a.ex (md = .rdn))

/-- `SRBits` (R117). -/
def srBits (seed : Word) (key : Word) (i : Word) : Word :=
  let z := (seed ^^^ (key * 0x9E3779B97F4A7C15)) + i * 0xD1B54A32D192ED03
  let z := (z ^^^ (z >>> 30)) * 0xBF58476D1CE4E5B9
  let z := (z ^^^ (z >>> 27)) * 0x94D049BB133111EB
  z ^^^ (z >>> 31)

/-- The format of a scalar or vector floating-point type (R148, R155). -/
def FT.fmt : FT → Fmt
  | .f64 => .fp64 | .f32 => .fp32 | .f16 => .fp16 | .bf16 => .bf16

/-- `ScaleExp` (R134) of a snapshot's FP32 bits. -/
def scaleExp (a : Nat) (f : Fmt) (mu : Int) : Int :=
  match Fmt.fp32.val a with
  | .nan _ => -127
  | .inf _ => -127
  | .fin _ m e =>
    if m = 0 then 0
    else
      let l := (Nat.log2 m : Int) + e
      let big : Bool := match f with
        | .e2m3 => 15 * 2 ^ Nat.log2 m < 8 * m
        | .e2m1 => 3 * 2 ^ Nat.log2 m < 2 * m
        | .i8 => 127 * 2 ^ Nat.log2 m < 64 * m
        | _ => 7 * 2 ^ Nat.log2 m < 4 * m
      let em := match f with
        | .i8 => 6
        | f => f.emax
      max (-127) (min 127 (em - l - (if big then 1 else 0) - mu))

/-- x × 2^k as an exact result. -/
def shiftE (k : Int) : Val → Ex
  | .fin n m e => .fin n m (e + k) false
  | v => v.ex

/-- ⌊log2 |v|⌋ of a non-zero magnitude. -/
def floorLog (m : Nat) (e : Int) : Int := (Nat.log2 m : Int) + e

end Sys2Proof
end

