-- ==== Sys2Proof/Machine/Mem.lean ====
section
/-! DEFINITION. Memory: the address map (R57 to R64), translation (R65, R66, R78 to R82), hardware-coherent lines and
leases (R84 to R88), SRAM banks (R89), software-coherent copies (R95), rime contributions (R124 to R127), poison (R367),
reduction stores (R189 to R191) and engine operations (R93). -/

namespace Sys2Proof.Machine

set_option linter.unusedVariables false

/-- Where an address lies (R58 to R62). -/
inductive Region where
  | virt
  | scratch (off : Nat)
  | floe (f off : Nat)
  | die (d off : Nat)
  | sync (d off : Nat)
  | event (f off : Nat)
  | reserved
  deriving DecidableEq, Repr

/-- The address map of R58. -/
def region (a : Nat) : Region :=
  if a < 0x00F0000000000000 then .virt
  else if a < 0x00F1000000000000 then
    let o := a - 0x00F0000000000000
    if o < 0x40000 then .scratch o else .reserved
  else if a < 0x00F2000000000000 then
    let o := a - 0x00F1000000000000
    if o / 0x1000000 < 256 && o % 0x1000000 < 0x200000 then .floe (o / 0x1000000) (o % 0x1000000) else .reserved
  else if a < 0x00F3000000000000 then
    let o := a - 0x00F2000000000000
    if o / 0x100000000 < 4 && o % 0x100000000 < 0x4000000 then .die (o / 0x100000000) (o % 0x100000000) else .reserved
  else if a < 0x00F4000000000000 then .reserved
  else if a < 0x00F5000000000000 then
    let o := a - 0x00F4000000000000
    if o / 0x10000000 < 4 then .sync (o / 0x10000000) (o % 0x10000000) else .reserved
  else if a < 0x00F6000000000000 then
    let o := a - 0x00F5000000000000
    if o / 0x1000 < 256 then .event (o / 0x1000) (o % 0x1000) else .reserved
  else .reserved

/-- The storage key of a core-scratch offset: every core's window has its own bytes (R59). -/
def scratchKey (core off : Nat) : Nat := 0x00F0000000000000 + core * 0x40000 + off

/-- The storage key of a byte of floe shared memory (R60) and of an accumulator tile (R240). -/
def floeKey (f off : Nat) : Nat := 0x00F1000000000000 + f * 0x1000000 + off
def tileKey (f tile off : Nat) : Nat := 2 ^ 60 + f * 0x40000 + tile * 0x4000 + off

/-- The end of a page-table walk (R78, R81). -/
inductive Walk where
  | leaf (p : Plb)
  /-- A compressed page: the entry's address and value. -/
  | firn (entry : Nat) (p : Plb)
  | absent
  | bad
  deriving DecidableEq, Repr

/-- The page that a leaf maps at the level whose lowest index bit is `lo` (R78). -/
def pageAt (lo : Nat) : PageSize := if lo ≤ 16 then .k64 else if lo ≤ 21 then .m2 else .g1

/-- One level after another (R78, R79): the remaining levels as their lowest index bit and index width. DESIGN CHOICE: a valid
entry at level 4 that is no leaf is malformed (log 112), and an entry with v = 0, c = 1 and leaf = 0 is not present (log 113). -/
def walkFrom (m : Memory) (va : Nat) : List (Nat × Nat) → Nat → Walk
  | [], _ => .bad
  | (lo, n) :: rest, table =>
    let ea := table + bits va lo n * 8
    let e := m.read ea 8
    let v := bits e 63 1 = 1
    let addr := bits e 12 40 * 0x1000
    let attr := bits e 60 2
    let owner := bits e 1 11
    let leaf := bits e 0 1 = 1
    let p : Plb := ⟨pageAt lo, va / 2 ^ (pageAt lo).log, BitVec.ofNat 52 addr, bits e 52 8, attr, owner⟩
    if v then
      if leaf then
        if 30 < lo || addr % 2 ^ lo ≠ 0 || (addr < 2 ^ 40 && bits addr 39 1 = 1) || (owner ≠ 0 && attr ≠ 2) ||
            (2 ^ 40 ≤ addr && (attr = 0 || attr = 2)) then .bad
        else .leaf p
      else if addr < 2 ^ 40 && bits addr 39 1 = 1 then .bad
      else walkFrom m va rest addr
    else if bits e 62 1 = 1 && leaf then (if lo ≤ 30 then .firn ea p else .bad)
    else .absent

/-- The page-table walk of an address (R78). -/
def walk (m : MemSys) (va : Nat) : Walk := walkFrom m.bytes va [(48, 9), (39, 9), (30, 9), (21, 9), (16, 5)] m.root

/-- What right an access needs (R80). -/
inductive Need where
  | rd | wr | ex
  deriving DecidableEq, Repr

/-- The outcome of the checks before an access (R57 to R62, R75, R80, R81). -/
inductive Acc1 where
  | ok (key : Nat) (cls : Cls)
  | trap (c : Cause) (val : Nat)
  | wait (w : Wait)
  deriving DecidableEq, Repr

/-- The tenant number under which Chirnaore itself acts; the tenant table ends at 15 (R36). -/
def chirnaore : Nat := 255

/-- Whether a tenant holds a right on a domain (R80); Chirnaore's own accesses need none. -/
def hasRight (s : State) (tenant dom : Nat) (n : Need) : Bool :=
  tenant = chirnaore ||
  match s.tenantCfg tenant with
  | some c => (match n with | .rd => c.rd | .wr => c.wr | .ex => c.ex).contains dom
  | none => false

/-- A core's PLB entry for an address (R80). -/
def plbFind (s : State) (core a : Nat) : Option Plb :=
  (s.mem.plb.find? fun p => p.1 = core && a / 2 ^ p.2.lsz = p.2.vpn).map (·.2)

/-- Whether an attribute change holds a page back: from its mark to its install (R76). -/
def inTransition (s : State) (a : Nat) : Bool :=
  s.lp.mm.any fun r => r.held.any fun p => p.1 ≤ a && a < p.1 + p.2

/-- The class of a translated page (R66, R74). -/
def Plb.cls (p : Plb) : Cls :=
  if 2 ^ 40 ≤ p.pa then .peer
  else match p.attr with
    | 0 => .hc
    | 1 => .swc
    | _ => .prv

/-- Whether a fabric node is lost (R374). -/
def State.isLost (s : State) (node : Nat) : Bool := s.fab.lost.contains node

/-- Whether a page lies in the memory of a lost node (R375). -/
def Plb.gone (s : State) (p : Plb) : Bool := p.cls = .peer && s.isLost (p.pa / 2 ^ 40)

/-- The checks of a page (R66, R75, R80, R375): memory of a lost node cannot be read. -/
def pageCheck (s : State) (core tenant : Nat) (n : Need) (a : Nat) (p : Plb) : Acc1 :=
  if p.attr = 3 || inTransition s a then .wait (.trans p.va)
  else if !hasRight s tenant p.dom n || (p.attr = 2 && p.owner ≠ core) then .trap .prot 0
  else if n ≠ .wr && p.gone s then .trap .prot 4
  else .ok (s.mem.homeKey a (p.pa + (a - p.va))) p.cls

/-- The checks of a page before an engine's access: memory of a lost node cannot be written either (R375). -/
def pageCheckE (s : State) (core tenant : Nat) (n : Need) (a : Nat) (p : Plb) : Acc1 :=
  match pageCheck s core tenant n a p with
  | .ok k c => if p.gone s then .trap .prot 4 else .ok k c
  | r => r

/-- The checks of `n` bytes at an address in a window (R58 to R62, R37). -/
def windowCheck (s : State) (core tenant a n : Nat) : Acc1 :=
  match region a with
  | .virt | .reserved => .trap .prot 0
  | .scratch o => .ok (scratchKey core o) .bank
  | .floe f o => if s.reaches tenant f then .ok (floeKey f o) .bank else .trap .prot 0
  | .die d o =>
    match s.tenantCfg tenant with
    | some c => if c.spBase ≤ o && o + n ≤ c.spBase + c.spLen then .ok a .bank else .trap .prot 0
    | none => .trap .prot 0
  | .sync _ _ | .event _ _ => .trap .syncwin 0

/-- An HC line's timestamps; an untouched line has both 0 and its home as owner (R84). -/
def State.line (s : State) (l : Nat) : Line := (s.mem.lines.find? fun x => x.line = l).getD ⟨l, 0, 0, none⟩

/-- The copy of a sector in a core's L1D (R67). -/
def State.copyOf (s : State) (core a : Nat) (hc : Bool) : Option Copy1 :=
  s.mem.l1.find? fun c => c.core = core && c.sector = a / 128 && c.hc = hc

/-- The copy of a sector in a core's L1I. -/
def State.copyI (s : State) (core a : Nat) : Option CopyI :=
  s.mem.l1i.find? fun c => c.core = core && c.sector = a / 128

/-- The binding that covers an address (R128). -/
def bindAt (s : State) (a : Nat) : Option Bind := s.sync.binds.find? fun b => b.base ≤ a && a < b.base + b.len

/-- Whether the lease of an HC copy serves a load of the current slot (R86). -/
def leased (s : State) (c : Copy1) : Bool := s.th.pts ≤ c.rts && c.rts < s.th.pts + s.th.lease

/-- Whether the core's L1 serves an access of the current slot without its home: a fetch from its L1I; an HC line that it owns,
or a load under a lease (R86, R87); an SWC copy, but for a store into a bound range (R95, R127); a PRV copy. -/
def l1Serves (s : State) (core : Nat) (n : Need) (a : Nat) (cls : Cls) : Bool :=
  if n = .ex then (s.copyI core a).isSome
  else
    match cls with
    | .hc =>
      match s.copyOf core a true with
      | some c => (s.line (a / 256)).owner = some core || (n = .rd && leased s c)
      | none => false
    | .swc | .peer => (s.copyOf core a false).isSome && (n = .rd || (bindAt s a).isNone)
    | .prv => (s.copyOf core a true).isSome
    | .bank => false

/-- Whether an access that its L1 does not serve misses in L2 (R351). -/
def missesL2 (s : State) (a : Nat) (cls : Cls) : Bool := cls ≠ .bank && !s.mem.resident a

/-- Whether a collective operation has still to read any of `n` bytes at an address (R93, R273); every core has a scratch window of
its own (R59). -/
def leasedTo (s : State) (core a n : Nat) : Bool :=
  s.fab.leases.any fun l => l.a < a + n && a < l.a + l.n && match region a with
    | .scratch _ => l.core = core
    | _ => true

/-- The same for a write that comes to this package's memory at a physical address. -/
def leasedPhys (s : State) (pa n : Nat) : Bool :=
  s.fab.leases.any fun l => (List.range (l.n / 0x10000 + 2)).any fun i =>
    let a := max l.a ((l.a / 0x10000 + i) * 0x10000)
    let e := min (l.a + l.n) ((l.a / 0x10000 + i + 1) * 0x10000)
    a < e && region a = .virt && match walk s.mem a with
      | .leaf p =>
        let k := p.pa + (a - p.va)
        k < pa + n && pa < k + (e - a)
      | _ => false

/-- A write waits while an operation has still to read its bytes (R93, R273). -/
def Acc1.unleased (r : Acc1) (s : State) (core : Nat) (n : Need) (a size : Nat) : Acc1 :=
  match r with
  | .ok k c => if n = .wr && leasedTo s core a size then .wait .poll else .ok k c
  | r => r

/-- The checks of a thread's access: address, window or PLB, rights (R57, R58, R80), and the walk of an access that misses in
the PLB or in L2 (R351). -/
def resolve (s : State) (core tenant : Nat) (n : Need) (a : Nat) (size : Nat := 1) : Acc1 :=
  if 2 ^ 57 ≤ a then .trap .prot 0
  else if region a = .virt then
    match plbFind s core a with
    | some p =>
      match pageCheck s core tenant n a p with
      | .ok k c =>
        if l1Serves s core n a c || !missesL2 s a c || p.gone s then (Acc1.ok k c).unleased s core n a size
        else .wait (.walk a none)
      | r => r
    | none => .wait (.walk a none)
  else (windowCheck s core tenant a size).unleased s core n a size

/-- The checks of an engine's access (R352): the walk is made at once; a page in transition is waited for; a compressed page
that `settle` has left compressed has no free frame. -/
def resolveE (s : State) (core tenant : Nat) (n : Need) (a : Nat) (size : Nat := 1) : Acc1 :=
  if 2 ^ 57 ≤ a then .trap .prot 0
  else if region a = .virt then
    match plbFind s core a with
    | some p => (pageCheckE s core tenant n a p).unleased s core n a size
    | none =>
      match walk s.mem a with
      | .leaf p => (pageCheckE s core tenant n a p).unleased s core n a size
      | .firn _ _ => .trap .page 1
      | .absent | .bad => .trap .page 0
  else (windowCheck s core tenant a size).unleased s core n a size

/-- The storage key of an address for a statistics update: the PLB's translation, or the page table's. -/
def xlate (s : State) (core a : Nat) : Option Nat :=
  match plbFind s core a with
  | some p => some (s.mem.homeKey a (p.pa + (a - p.va)))
  | none =>
    match walk s.mem a with
    | .leaf p => some (s.mem.homeKey a (p.pa + (a - p.va)))
    | _ => none

/-- Whether a storage key is in translated memory, as an L2 home or as memory keeps it; otherwise it is in an SRAM window or
an accumulator tile (R367). -/
def isHbm (key : Nat) : Bool := key < 2 ^ 52 || 2 ^ 61 ≤ key

/-- The size of a poison granule at a key (R367). -/
def granule (key : Nat) : Nat := if isHbm key then 128 else 8

/-- Whether any of `n` bytes at a key is poisoned (R367). -/
def poisoned (s : State) (key n : Nat) : Bool :=
  s.mem.poison.any fun g => g < key + n && key < g + granule g

/-- The unit that a POISON trap reports (R347). -/
def poisonUnit (key : Nat) : Nat := if isHbm key then 0 else 1

/-- The SRAM banks that an access of `n` bytes at a key reaches (R60, R89). DESIGN CHOICE (log 105): the scratchpad of a die
counts as one bank. -/
def banksOf (key n : Nat) : List Nat :=
  if key < 0x00F1000000000000 then [(key - 0x00F0000000000000) / 0x40000]
  else if key < 0x00F2000000000000 then
    let o := key - 0x00F1000000000000
    let f := o / 0x1000000
    let b := o % 0x1000000 / 4
    (List.range ((key % 4 + n + 3) / 4)).map fun i => 2048 + f * 32 + (b + i) % 32
  else [16384 + (key - 0x00F2000000000000) / 0x100000000]

def State.bts (s : State) (b : Nat) : Nat := (look s.mem.bts b).getD 0

/-- Sets a line's timestamps. -/
def setLine (ls : List Line) (x : Line) : List Line := x :: ls.filter fun y => y.line ≠ x.line

def State.onMem (s : State) (f : MemSys → MemSys) : State := { s with mem := f s.mem }

def State.setLine (s : State) (x : Line) : State := s.onMem fun m => { m with lines := Machine.setLine m.lines x }

/-- Raises the current slot's `pts` (R92). -/
def State.raise (s : State) (t : Nat) : State := { s with th := { s.th with pts := max s.th.pts t } }

def dropCopy (l : List Copy1) (core sector : Nat) : List Copy1 := l.filter fun c => !(c.core = core && c.sector = sector)

/-- The bytes of a sector at their offsets, as a copy holds them. -/
def sectorData (m : Memory) (key : Nat) : Memory := Memory.put [] 0 (m.bytes key 128)

/-! ### Rime statistics -/

def Stats.zero : Stats := ⟨0, 0, 0, 0, []⟩

/-- Saturating addition of counts of `n` bits (R122). -/
def satAdd (n a b : Nat) : Nat := min (a + b) (2 ^ n - 1)

/-- The bucket of a magnitude's exponent (R124). -/
def bucketOf (base e : Int) : Nat := if e ≤ base then 0 else if base + 47 ≤ e then 47 else (e - base).toNat

/-- One element's contribution (R124). -/
def Stats.add (st : Stats) (base : Int) (v : Val) : Stats :=
  let st := { st with total := satAdd 64 st.total 1 }
  match v with
  | .nan _ | .inf _ => { st with nonfin := satAdd 32 st.nonfin 1 }
  | .fin _ m e =>
    if m = 0 then { st with zeros := satAdd 64 st.zeros 1 }
    else
      let b := bucketOf base (floorLog m e)
      { st with
        amax := max st.amax (round .fp32 .rup false (.fin false m e false)).bits
        bucket := put st.bucket b (satAdd 32 ((look st.bucket b).getD 0) 1) }

/-- The merge of a fold (R130). -/
def Stats.merge (a b : Stats) : Stats where
  total := satAdd 64 a.total b.total
  zeros := satAdd 64 a.zeros b.zeros
  nonfin := satAdd 32 a.nonfin b.nonfin
  amax := max a.amax b.amax
  bucket := b.bucket.foldl (fun m p => put m p.1 (satAdd 32 ((look m p.1).getD 0) p.2)) a.bucket

/-- The bound record, when writes to it count: allocated, not poisoned, `en` 1 (R125, R369). -/
def liveRime (s : State) (h : Nat) : Option Rime :=
  match look s.sync.objs h with
  | some o => match o.kind with
    | .rime r => if r.en && !o.poison then some r else none
    | _ => none
  | none => none

/-- Adds one value to the partial record of a die (R124, R130, R131). -/
def contribute (s : State) (die h : Nat) (base : Int) (v : Val) : State :=
  s.onDie die fun d =>
    match d.partials.find? fun p => p.1 = h with
    | some p => { d with partials := d.partials.map fun q => if q.1 = h then (h, q.2.1, q.2.2.add base v) else q }
    | none => { d with partials := (h, s.host.cycle, Stats.zero.add base v) :: d.partials }

/-- The bits of element `i` of a bound range (R102, R123): memory as it stands, byte by byte through translation. -/
def elemAt (s : State) (core base w i : Nat) : Nat :=
  let lo := i * w
  let b0 := lo / 8
  let n := (lo % 8 + w + 7) / 8
  let v := (List.range n).foldr (fun j acc =>
    (match xlate s core (base + b0 + j) with
      | some k => (s.mem.bytes.get k).toNat
      | none => 0) + 256 * acc) 0
  bits v (lo % 8) w

/-- Whether an address lies in another package's memory (R66). -/
def isPeer (s : State) (core a : Nat) : Bool :=
  match plbFind s core a with
  | some p => p.cls = .peer
  | none =>
    match walk s.mem a with
    | .leaf p => p.cls = .peer
    | _ => false

/-- The elements of `w` bits of a binding that `n` bytes at an address touch: the first, and how many (R123). -/
def Bind.touched (b : Bind) (w a n : Nat) : Nat × Nat :=
  let i0 := (a - b.base) * 8 / w
  let i1 := min ((a - b.base + n) * 8 - 1) (b.len * 8 - 1) / w
  (i0, min (i1 + 1) (b.len * 8 / w) - i0)

/-- The contributions of `n` bytes at an address as part of a write that has already counted the elements of the ranges
`seen` (R123 to R125): each element touched, once, whole. -/
def contributeRange (s : State) (core : Nat) (seen : List (Nat × Nat)) (a n : Nat) : State :=
  match (if isPeer s core a then none else bindAt s a) with
  | none => s
  | some b =>
    match liveRime s b.handle with
    | none => s
    | some r =>
      let w := r.fmt.width
      let e := b.touched w a n
      let before := (seen.filter fun x => bindAt s x.1 = some b).map fun x => b.touched w x.1 x.2
      iterate e.2 (fun j s =>
        if before.any fun x => x.1 ≤ e.1 + j && e.1 + j < x.1 + x.2 then s
        else contribute s (homeOf a / 64) b.handle r.base (r.fmt.val (elemAt s core b.base w (e.1 + j)))) s

/-- The contributions of a write of `n` bytes at an address. -/
def contributeWrite (s : State) (core a n : Nat) : State := contributeRange s core [] a n

/-- The contributions of one write of several ranges, once it has been performed. -/
def contributeAll (core : Nat) : List (Nat × Nat) → List (Nat × Nat) → State → State
  | _, [], s => s
  | seen, x :: t, s => contributeAll core (x :: seen) t (contributeRange s core seen x.1 x.2)

/-- A reduction store's contribution: the value added, rounded by RNE to the record's format (R126). -/
def contributeValue (s : State) (a : Nat) (v : Val) : State :=
  match bindAt s a with
  | none => s
  | some b =>
    match liveRime s b.handle with
    | none => s
    | some r => contribute s (homeOf a / 64) b.handle r.base (r.fmt.val (roundTo r.fmt .rne false v.ex).bits)

/-! ### Bytes at their home -/

/-- Whether an entry of pending reductions overlaps a range of keys. -/
def Red.meets (r : Red) (key n : Nat) : Bool := r.key < key + n && key < r.key + (r.fmt.width + 7) / 8

/-- Writes bytes where they are held: a write that covers a whole granule clears its poison (R367), and a plain write
ends the pending reductions of the elements that it overlaps (R114, R191). -/
def homePut (m : MemSys) (key : Nat) (bs : List Byte) : MemSys :=
  { m with
    bytes := m.bytes.put key bs
    l2 := dirty2 m.l2 key bs.length
    poison := m.poison.filter fun g => !(key ≤ g && g + granule g ≤ key + bs.length)
    reds := m.reds.filter fun r => !r.meets key bs.length }

def State.homePut (s : State) (key : Nat) (bs : List Byte) : State := s.onMem fun m => Machine.homePut m key bs

/-- A write at its home with its rime contributions (R125). -/
def homeWrite (s : State) (core a key : Nat) (bs : List Byte) : State :=
  contributeWrite (s.homePut key bs) core a bs.length

/-- Rising offsets as runs of a first offset and a length. -/
def runs : List Nat → List (Nat × Nat)
  | [] => []
  | o :: t =>
    match runs t with
    | [] => [(o, 1)]
    | (p, n) :: r => if p = o + 1 then (o, n + 1) :: r else (o, 1) :: (p, n) :: r

/-- Bytes bound for a lost node are discarded and counted (R375). -/
def discard (s : State) (node n : Nat) : State :=
  { s with fab := { s.fab with dropped := put s.fab.dropped node ((look s.fab.dropped node).getD 0 + n) } }

/-- Whether a physical address lies in the memory of a lost node. -/
def State.lostAt (s : State) (phys : Nat) : Bool := 0 < phys / 2 ^ 40 && s.isLost (phys / 2 ^ 40)

/-- Marks a granule poisoned (R367). -/
def addPoison (l : List Nat) (g : Nat) : List Nat := if l.contains g then l else g :: l

/-- Writes back the dirty bytes of an L1 copy to their home, each run of them as one write (R125), with its poison (R367). -/
def writeBack (s : State) (c : Copy1) : State :=
  if !s.mem.resident (c.sector * 128) && s.lostAt c.key then discard s (c.key / 2 ^ 40) c.dirty.length
  else
    let k := s.mem.homeKey (c.sector * 128) c.key
    let s := (runs c.dirty).foldl
      (fun s r => homeWrite s c.core (c.sector * 128 + r.1) (k + r.1) (c.data.bytes r.1 r.2)) s
    if c.bad && c.dirty ≠ [] then s.onMem fun m => { m with poison := addPoison m.poison k } else s

/-- Writes back a sector's dirty bytes from its L2 home. -/
def State.clean2 (s : State) (c : Copy2) : State :=
  if c.dirty ≠ [] && s.lostAt c.key then
    (discard s (c.key / 2 ^ 40) c.dirty.length).onMem fun m => { m with
      l2 := m.l2.map fun d => if d.sector = c.sector then { d with dirty := [] } else d }
  else s.onMem fun m => Machine.clean2 m c

/-- A sector leaves its L2 home, its dirty bytes written back. -/
def State.drop2 (s : State) (c : Copy2) : State := (s.clean2 c).onMem fun m => forget2 m c

/-- The L2 sectors of other packages' memory are carried to their owners (R97, R192). -/
def carryOut (s : State) : State := s.mem.l2.foldl (fun s c => if 2 ^ 40 ≤ c.key && c.dirty ≠ [] then s.clean2 c else s) s

/-- A sector of memory is filled into its L2 home, when its page can be accessed (R67, R76). -/
def bringIn (s : State) (a : Nat) (h : Hint) (new : Bool) : State :=
  if s.mem.resident a || region a ≠ .virt || 2 ^ 57 ≤ a then s
  else
    match walk s.mem a with
    | .leaf p =>
      if p.attr = 3 || inTransition s a || p.gone s then s
      else s.onMem fun m => fill2 m a (p.pa + (a - p.va)) h new
    | _ => s

/-! ### Replay snapshots -/

/-- The sectors of a range leave L2, their dirty bytes in memory. -/
def flush2 (s : State) (p : Nat → Bool) : State := (s.mem.l2.filter fun c => p (c.sector * 128)).foldl State.drop2 s

/-- The physical addresses of the 64 KiB pieces of a range; none where one is not mapped in this package's memory. -/
def frames64 (s : State) (a : Nat) : Nat → Option (List Nat)
  | 0 => some []
  | n + 1 =>
    match walk s.mem a, frames64 s (a + 0x10000) n with
    | .leaf p, some l => if p.pa < 2 ^ 40 then some ((p.pa + (a - p.va)) :: l) else none
    | _, _ => none

/-- A frame of 64 KiB takes the contents of another: its bytes, its poison and its pending reductions (R114, R367). -/
def copyFrame (m : MemSys) (src dst : Nat) : MemSys :=
  let in_ (f k : Nat) : Bool := f ≤ k && k < f + 0x10000
  let move (k : Nat) : Nat := dst + (m.physKey k - src)
  { m with
    bytes := (m.bytes.filter fun c => in_ src c.1).foldl (fun (t : Memory) (c : Host.Cell) => Memory.set t (move c.1) c.2)
      (m.bytes.filter fun c => !in_ dst c.1)
    poison := ((m.poison.filter fun g => in_ src (m.physKey g)).map move).eraseDups ++ m.poison.filter fun g => !in_ dst g
    reds := ((m.reds.filter fun r => in_ src (m.physKey r.key)).map fun (r : Red) => { r with key := move r.key }) ++
      m.reds.filter fun r => !in_ dst r.key }

/-- Copies `n` pieces of 64 KiB between two ranges of translated memory as the L2 homes hold them; none where one is not mapped. -/
def copyPieces (s : State) (src dst n : Nat) : Option State :=
  let s := (s.mem.l2.filter fun c => src ≤ c.sector * 128 && c.sector * 128 < src + n * 0x10000).foldl State.clean2 s
  let s := flush2 s fun x => dst ≤ x && x < dst + n * 0x10000
  match frames64 s src n, frames64 s dst n with
  | some a, some b => some (s.onMem fun m => (a.zip b).foldl (fun m x => copyFrame m x.1 x.2) m)
  | _, _ => none

/-- The launch number that stands for none: a launch's is below 65,536. -/
def noLid : Nat := 65536

/-- While a replay session runs, the first write of its launch to a page first copies the page into the replay area (R340). The
session fails when its area cannot hold the pages. -/
def notePage (s : State) (lid a : Nat) : State :=
  if s.host.replayState ≠ 1 || lid ≠ s.host.replayLid || region a ≠ .virt then s
  else
    match walk s.mem a with
    | .leaf p =>
      let n := 2 ^ p.lsz
      let area := leNat ((s.host.replayDesc.drop 8).take 8)
      let len := leNat ((s.host.replayDesc.drop 16).take 8)
      if (s.host.replayPages.any fun x => x.1 = p.va) || (p.va < area + len && area < p.va + n) then s
      else
        let used := s.host.replayPages.foldl (fun k x => k + x.2.1) 0
        let fail : State := { s with host := { s.host with replayState := 3 } }
        if len < used + n then fail
        else
          match copyPieces s p.va (area + used) (n / 0x10000) with
          | some s => { s with host := { s.host with replayPages := (p.va, n, area + used) :: s.host.replayPages } }
          | none => fail
    | _ => s

/-- The pages of a range that an engine operation of a launch writes. -/
def noteRange (s : State) (lid a len : Nat) : State :=
  if s.host.replayState ≠ 1 then s
  else iterate (len / 0x10000 + 2) (fun i s =>
    let b := max a ((a / 0x10000 + i) * 0x10000)
    if b < a + len then notePage s lid b else s) s

/-- The L2 is touched by an access at its home. -/
def State.touch2 (s : State) (a : Nat) (h : Hint) : State := s.onMem fun m => Machine.touch2 m a h

/-- Writes back a core's copy of a sector and keeps or drops it (R192). -/
def cleanCopy (s : State) (core a : Nat) (keep : Bool) : State :=
  match s.copyOf core a false with
  | none => s
  | some c =>
    let s := writeBack s c
    if keep then s.onMem fun m => { m with l1 := m.l1.map fun d => if d = c then { d with dirty := [] } else d }
    else s.onMem fun m => { m with l1 := dropCopy m.l1 core (a / 128) }

/-- Drops a core's copy of a sector with its dirty bytes (R192). -/
def loseCopy (s : State) (core a : Nat) : State :=
  match s.copyOf core a false with
  | none => s
  | some c => s.onMem fun m => { m with l1 := dropCopy m.l1 core (a / 128) }

/-! ### A thread's accesses -/

/-- The lowest timestamp a bank access of the current slot may take (R89). DESIGN CHOICE (log 105): an access that reaches two
banks takes the larger timestamp, and both banks get it. -/
def bankTime (s : State) (key n : Nat) : Nat := (banksOf key n).foldl (fun t b => max t (s.bts b)) s.th.pts

/-- Takes a bank timestamp and raises `pts` to it (R89). -/
def bankTake (s : State) (key n : Nat) : State :=
  let t := bankTime s key n
  (s.onMem fun m => { m with bts := (banksOf key n).foldl (fun l b => put l b t) m.bts }).raise t

/-- A fresh copy of a sector as the home holds it (R67), with the poison of the sector (R367). -/
def newCopy (s : State) (a key : Nat) (hc : Bool) (wts rts : Nat) (h : Hint) : Copy1 :=
  let k := key - a % 128
  ⟨s.th.core, a / 128, s.mem.physKey k, hc, wts, rts, sectorData s.mem.bytes k, [], h, s.mem.poison.contains k⟩

/-- Keeps a copy in the issuing core's L1D. -/
def keepCopy (s : State) (c : Copy1) : State := s.onMem fun m => { m with l1 := useCopy m.l1 c }

/-- An HC load's timestamps and L1 (R86): the bytes read and the state after. `fresh` forces a renewal (R94). -/
def hcLoad (s : State) (a key n : Nat) (h : Hint) (fresh : Bool) : Nat × State :=
  let t := s.th
  let l := s.line (a / 256)
  if l.owner = some t.core && !fresh then
    let ts := max t.pts l.wts
    let s' := (s.setLine { l with rts := max l.rts ts }).raise ts
    (s.mem.bytes.read key n,
      match s.copyOf t.core a true with
      | some c => keepCopy s' (touch c h)
      | none =>
        let s' := (s'.touch2 a h).count 0x04
        if h = .hb then s' else keepCopy s' (newCopy s a key true l.wts l.rts h))
  else
    let renew : Nat × State :=
      let l' : Line := { l with owner := none, rts := max l.rts (t.pts + t.lease - 1) }
      let s' := ((s.setLine l').count 0x07).touch2 a h
      let s' := if h = .hb && (s.copyOf t.core a true).isNone then s'
        else keepCopy s' (touch (newCopy s a key true l.wts l'.rts (((s.copyOf t.core a true).map (·.hint)).getD h)) h)
      (s.mem.bytes.read key n, s'.raise l.wts)
    match s.copyOf t.core a true with
    | some c =>
      if leased s c && !fresh then (c.data.read (a % 128) n, (keepCopy s (touch c h)).raise c.wts) else renew
    | none => let r := renew; (r.1, r.2.count 0x04)

/-- The timestamp of an HC write (R87, R190). -/
def hcTime (s : State) (a : Nat) : Nat := max s.th.pts ((s.line (a / 256)).rts + 1)

/-- An HC write takes its line and its timestamp (R87); a line in a bound range is never owned by an L1 (R127). -/
def hcTake (s : State) (a : Nat) (own : Bool) : State :=
  let t := hcTime s a
  let o := if own && (bindAt s a).isNone then some s.th.core else none
  ((s.setLine ⟨a / 256, t, t, o⟩).onMem fun m =>
    if o.isSome then m
    else { m with l1 := m.l1.filter fun c => !(c.core = s.th.core && c.sector = a / 128 && c.hc) }).raise t

/-- The owning L1's copy of a sector after an HC write (R87): a bypass store places none. -/
def hcKeep (s : State) (a key : Nat) (h : Hint) : State :=
  let l := s.line (a / 256)
  if l.owner = some s.th.core then
    match s.copyOf s.th.core a true with
    | some c => keepCopy s (touch { newCopy s a key true l.wts l.rts c.hint with bad := c.bad } h)
    | none =>
      let s' := (s.touch2 a h).count 0x04
      if h = .hb then s' else keepCopy s' (newCopy s a key true l.wts l.rts h)
  else s.touch2 a h

/-- The owning core's copy of a sector of PRV memory after an access of its own (R67, R68, R75). DESIGN CHOICE (log 117): the copy
always holds what the home holds. -/
def prvKeep (s : State) (a key : Nat) (h : Hint) : State :=
  match s.copyOf s.th.core a true with
  | some c => keepCopy s (touch (newCopy s a key true 0 0 c.hint) h)
  | none =>
    let s' := (s.touch2 a h).count 0x04
    if h = .hb then s' else keepCopy s' (newCopy s a key true 0 0 h)

/-- An SWC load (R95): any copy in the core's L1, else a fill. -/
def swcLoad (s : State) (a key n : Nat) (h : Hint) : Nat × State :=
  match s.copyOf s.th.core a false with
  | some c => (c.data.read (a % 128) n, keepCopy s (touch c h))
  | none =>
    let s' := (s.touch2 a h).count 0x04
    (s.mem.bytes.read key n, if h = .hb then s' else keepCopy s' (newCopy s a key false 0 0 h))

/-- A copy with a store's bytes, dirty or not. -/
def Copy1.put (c : Copy1) (o : Nat) (bs : List Byte) (dirty : Bool) : Copy1 :=
  { c with
    data := c.data.put o bs
    dirty := if dirty then (List.range bs.length).foldl (fun l i => addOff l (o + i)) c.dirty else c.dirty }

/-- An SWC store (R95): into the core's L1, or at the home when it lies in a bound range (R127) or bypasses L1 (R68). -/
def swcStore (s : State) (a key n v : Nat) (h : Hint) : State :=
  let bs := leBytes n v
  let core := s.th.core
  let o := a % 128
  match s.copyOf core a false with
  | some c =>
    if (bindAt s a).isSome then homeWrite (keepCopy (s.touch2 a h) (touch (c.put o bs false) h)) core a key bs
    else keepCopy s (touch (c.put o bs true) h)
  | none =>
    let s' := (s.touch2 a h).count 0x04
    if (bindAt s a).isSome || h = .hb then homeWrite s' core a key bs
    else keepCopy s' ((newCopy s a key false 0 0 h).put o bs true)

/-- Whether what a load of the current slot would read is poisoned (R367): in its L1 copy where one serves it. -/
def badRead (s : State) (a key n : Nat) (cls : Cls) : Bool :=
  match cls with
  | .hc =>
    match s.copyOf s.th.core a true with
    | some c => if (s.line (a / 256)).owner ≠ some s.th.core && leased s c then c.bad else poisoned s key n
    | none => poisoned s key n
  | .swc | .peer =>
    match s.copyOf s.th.core a false with
    | some c => c.bad
    | none => poisoned s key n
  | _ => poisoned s key n

/-- Whether what an access finds at its home is poisoned, once the core's own copy has been written back (R367). -/
def badHome (s : State) (a key n : Nat) : Bool :=
  poisoned s key n || (s.copyOf s.th.core a false).any fun c => c.bad

/-- Whether an access that is made at its home misses in L2 (R351); an HC line that the core owns is at hand, and the memory of a
lost node is not waited for (R375). -/
def needsHome (s : State) (a key : Nat) (cls : Cls) : Bool :=
  missesL2 s a cls && !s.lostAt key && !(cls = .hc && l1Serves s s.th.core .wr a .hc)

/-- A load of the current slot (R86, R89, R95, R98): the value and the state after. -/
def loadAt (s : State) (a key n : Nat) (cls : Cls) (h : Hint) (fresh : Bool) : Nat × State :=
  match cls with
  | .bank => let s := bankTake s key n; (s.mem.bytes.read key n, s)
  | .hc => hcLoad s a key n h fresh
  | .swc | .peer => swcLoad s a key n h
  | .prv => (s.mem.bytes.read key n, prvKeep s a key h)

/-- A store of the current slot at its class (R87, R89, R95). -/
def storeIn (s : State) (a key n v : Nat) (cls : Cls) (h : Hint) : State :=
  match cls with
  | .bank => (bankTake s key n).homePut key (leBytes n v)
  | .hc => hcKeep (homeWrite (hcTake s a true) s.th.core a key (leBytes n v)) a key h
  | .swc | .peer => swcStore s a key n v h
  | .prv => prvKeep (homeWrite s s.th.core a key (leBytes n v)) a key h

/-- The current slot's write to an address, as a replay session sees it (R340). -/
def noteOwn (s : State) (a : Nat) : State := if s.host.replayState = 1 then notePage s s.th.lid a else s

/-- A store of the current slot. -/
def storeAt (s : State) (a key n v : Nat) (cls : Cls) (h : Hint) : State := storeIn (noteOwn s a) a key n v cls h

/-- The place of an atomic's operand: another package performs atomics to its memory itself (R98). -/
def atomicKey (s : State) (key : Nat) (cls : Cls) : Nat := if cls = .peer then s.mem.physKey key else key

/-- This package's L2 gives up its copy of a sector of another package's memory, its dirty bytes carried there first. -/
def handOver (s : State) (a : Nat) (cls : Cls) : State :=
  if cls = .peer then
    match s.mem.at2 a with
    | some c => s.drop2 c
    | none => s
  else s

/-- The state in which an atomic finds its old value, once its place in the order is taken (R186, R188). -/
def atomicTake (s : State) (a key n : Nat) (cls : Cls) : State :=
  let s := noteOwn s a
  match cls with
  | .bank => bankTake s key n
  | .hc => hcTake s a true
  | .swc | .peer => handOver (cleanCopy s s.th.core a false) a cls
  | .prv => s

/-- An atomic that writes nothing takes its place as a read (R186). -/
def atomicRead (s : State) (a key n : Nat) (cls : Cls) (h : Hint) : State :=
  match cls with
  | .bank => bankTake s key n
  | .hc => (hcLoad s a key n h true).2
  | .swc | .peer => handOver (cleanCopy s s.th.core a false) a cls
  | .prv => s.touch2 a h

/-- The write half of an atomic (R188). -/
def atomicPut (s : State) (a key n v : Nat) (cls : Cls) (h : Hint) : State :=
  match cls with
  | .bank => s.homePut key (leBytes n v)
  | .hc => hcKeep (homeWrite s s.th.core a key (leBytes n v)) a key h
  | .peer => s.homePut key (leBytes n v)
  | _ => homeWrite (s.touch2 a h) s.th.core a key (leBytes n v)

/-! ### Reduction stores -/

/-- The accumulator of an entry. -/
def Red.acc (r : Red) : Acc := ⟨decide (r.fmt = Fmt.fp64), r.nan, r.pinf, r.ninf, r.any, r.negz, r.posz, r.sum⟩

def Red.ofAcc (key op : Nat) (f : Fmt) (a : Acc) : Red :=
  ⟨key, op, f, a.nan, a.pinf, a.ninf, a.any, a.negz, a.posz, a.sum⟩

/-- Combines a value into an element (R114, R189, R191): the pending exact sum goes on when it is of the same op and
format at the same place; otherwise it starts afresh from the value that memory holds. -/
def reduce (m : MemSys) (op : Nat) (f : Fmt) (key v : Nat) : MemSys :=
  let n := (f.width + 7) / 8
  let old := m.bytes.read key n
  let same := m.reds.find? fun r => r.key = key && r.op = op && r.fmt = f
  let rest := m.reds.filter fun r => !r.meets key n
  let m := { m with l2 := dirty2 m.l2 key n }
  if f.isInt then
    let w := f.width
    let a := signed old w
    let b := signed v w
    let r := match op with
      | 0 => a + b
      | 1 => min a b
      | _ => max a b
    { m with bytes := m.bytes.write key n (unsigned r w), reds := Red.ofAcc key op f (Acc.empty false) :: rest }
  else if op = 0 then
    let acc := (match same with
      | some r => r.acc
      | none => (Acc.empty (f = Fmt.fp64)).add (f.val old)).add (f.val v)
    { m with bytes := m.bytes.write key n (acc.read f .rne).bits, reds := Red.ofAcc key 0 f acc :: rest }
  else
    { m with
      bytes := m.bytes.write key n (minMax f (op = 2) old v).bits
      reds := Red.ofAcc key op f (Acc.empty false) :: rest }

/-! ### Engine operations -/

/-- One byte range that an engine operation reads or writes, by address, with its key and class. -/
structure Span where
  a   : Nat
  key : Nat
  n   : Nat
  cls : Cls
  deriving DecidableEq, Repr

/-- What stops an engine operation: FAULT with the first failing address, or a wait. -/
inductive Fit where
  | ok (l : List Span)
  | fault (a : Nat)
  | wait
  deriving DecidableEq, Repr

/-- Cuts a range at 128-byte sectors, and in the SRAM windows at 8-byte granules, and checks each piece (R93, R352); poison
stops a read (R367). -/
def spansFrom (s : State) (core tenant : Nat) (n : Need) : Nat → Nat → Nat → List Span → Fit
  | 0, _, _, acc => .ok acc.reverse
  | fuel + 1, a, len, acc =>
    if len = 0 then .ok acc.reverse
    else
      let k := if region a = .virt then min len (128 - a % 128) else min len (8 - a % 8)
      match resolveE s core tenant n a k with
      | .ok key cls =>
        if n = .rd && poisoned s key k then .fault a
        else spansFrom s core tenant n fuel (a + k) (len - k) (⟨a, key, k, cls⟩ :: acc)
      | .trap _ _ => .fault a
      | .wait _ => .wait

def spans (s : State) (core tenant : Nat) (n : Need) (a len : Nat) : Fit :=
  spansFrom s core tenant n (len + 1) a len []

/-- The spans of several ranges, in order. -/
def spansList (s : State) (core tenant : Nat) (n : Need) : List (Nat × Nat) → Fit
  | [] => .ok []
  | (a, len) :: t =>
    match spans s core tenant n a len with
    | .ok l =>
      match spansList s core tenant n t with
      | .ok l' => .ok (l ++ l')
      | f => f
    | f => f

/-- The order point of an engine operation (R93): Ti, the sources' `wts`, one more than the destinations' `rts`. -/
def engineTe (s : State) (ti : Nat) (src dst : List Span) : Nat :=
  let t := src.foldl (fun t x => if x.cls = .hc then max t (s.line (x.a / 256)).wts else t) ti
  dst.foldl (fun t x => if x.cls = .hc then max t ((s.line (x.a / 256)).rts + 1) else t) t

/-- The bytes that an engine reads: the latest versions, the issuing core's dirty SWC bytes not among them. -/
def engineRead (s : State) (src : List Span) : List Byte :=
  src.foldr (fun x acc => s.mem.bytes.bytes x.key x.n ++ acc) []

/-- The sources' leases at completion (R93). -/
def engineLease (s : State) (te : Nat) (src : List Span) : State :=
  src.foldl (fun s x =>
    if x.cls = .hc then
      let l := s.line (x.a / 256)
      s.setLine { l with rts := max l.rts te, owner := none }
    else s) s

/-- Puts an engine's bytes over its destination spans at its order point (R93). -/
def enginePut (s : State) (core te : Nat) : List Span → List Byte → State
  | [], _ => s
  | x :: t, bs =>
    let b := bs.take x.n
    let s := match x.cls with
      | .hc => (s.setLine ⟨x.a / 256, te, te, none⟩).homePut x.key b
      | .bank =>
        (s.onMem fun m => { m with
          bts := (banksOf x.key x.n).foldl (fun l k => put l k (max te ((look l k).getD 0))) m.bts }).homePut x.key b
      | _ => s.homePut x.key b
    enginePut s core te t (bs.drop x.n)

/-- The address ranges of spans. -/
def spanRanges (l : List Span) : List (Nat × Nat) := l.map fun x => (x.a, x.n)

/-- Whether spans together cover the granule that begins at a key. -/
def spansCover (l : List Span) (g : Nat) : Bool :=
  (List.range (granule g)).all fun i => l.any fun x => x.key ≤ g + i && g + i < x.key + x.n

/-- One write of an engine (R93): its bytes, with the poison of every granule that it covers cleared (R367), then its rime
contributions, each element once (R125). -/
def engineWrite (s : State) (core te : Nat) (l : List Span) (bs : List Byte) : State :=
  let s := (enginePut s core te l bs).onMem fun m => { m with poison := m.poison.filter fun g => !spansCover l g }
  contributeAll core [] (spanRanges l) s

/-- One engine operation that reads ranges and writes their bytes, transformed, to others. -/
inductive EngineEnd where
  | done (s : State) (te : Nat)
  | fault (a : Nat)
  | wait

/-- A whole engine operation (R93): checks, order point, reads, writes, leases. -/
def engineOp (s : State) (core tenant ti : Nat) (src dst : List (Nat × Nat)) (f : List Byte → List Byte) : EngineEnd :=
  match spansList s core tenant .rd src with
  | .fault a => .fault a
  | .wait => .wait
  | .ok ss =>
    match spansList s core tenant .wr dst with
    | .fault a => .fault a
    | .wait => .wait
    | .ok ds =>
      let te := engineTe s ti ss ds
      .done (engineLease (engineWrite s core te ds (f (engineRead s ss))) te ss) te

/-- Pieces of a range, each within one sector: address and length. -/
def sectorPieces : Nat → Nat → Nat → List (Nat × Nat)
  | 0, _, _ => []
  | fuel + 1, a, n =>
    if n = 0 then []
    else
      let k := min n (128 - a % 128)
      (a, k) :: sectorPieces fuel (a + k) (n - k)

/-- Writes a list of bytes as one engine operation; a fault changes nothing. -/
def engineStore (s : State) (core tenant ti a : Nat) (bs : List Byte) : Option (State × Nat) :=
  match engineOp s core tenant ti [] [(a, bs.length)] (fun _ => bs) with
  | .done s te => some (s, te)
  | _ => none

/-! ### Expansion and the PLB -/

/-- Takes a frame of a size from Chirnaore's list (R82). -/
def takeFrame : List (Nat × Nat) → Nat → Option (Nat × List (Nat × Nat))
  | [], _ => none
  | (a, n) :: t, k =>
    if n = k && a % k = 0 then some (a, t)
    else (takeFrame t k).map fun r => (r.1, (a, n) :: r.2)

/-- Expands a compressed page into a frame and rewrites its entry (R79, R82): the entry's address names the image. None when
no frame has its size. -/
def expandPage (m : MemSys) (va : Nat) : Option MemSys :=
  match walk m va with
  | .firn ea p =>
    match takeFrame m.frames (2 ^ p.lsz) with
    | none => none
    | some (f, rest) =>
      let img := m.images.find? fun i => i.addr = p.pa
      let e := m.bytes.read ea 8
      let e' := e % 2 ^ 12 + f / 0x1000 * 0x1000 + bits e 52 10 * 2 ^ 52 + 2 ^ 63
      let out (k : Nat) : Bool := k < f || f + 2 ^ p.lsz ≤ k
      let m := { m with
        bytes := m.bytes.filter fun c => out c.1
        poison := m.poison.filter out
        reds := m.reds.filter fun r => out r.key }
      let m := match img with
        | none => m
        | some i => { m with
            bytes := i.data.foldl (fun (b : Memory) (c : Host.Cell) => Memory.set b (f + c.1) c.2) m.bytes
            poison := i.bad.map (f + ·) ++ m.poison
            reds := i.reds.map (fun (r : Red) => { r with key := f + r.key }) ++ m.reds }
      some { m with
        bytes := m.bytes.write ea 8 e'
        frames := rest
        images := m.images.filter fun i => i.addr ≠ p.pa }
  | _ => some m

/-- Expands every compressed page that a range meets, where a frame is free (R82, R352). -/
def expandRange (s : State) (a len : Nat) : State :=
  iterate (len / 0x10000 + 2) (fun i s =>
    let b := max a ((a / 0x10000 + i) * 0x10000)
    if b < a + len then
      match walk s.mem b with
      | .firn _ _ =>
        match expandPage s.mem b with
        | some m => { s with mem := m }
        | none => s
      | _ => s
    else s) s

/-- Fills the sectors of a range into their L2 homes (R67, R68). -/
def bringRange (s : State) (a len : Nat) (h : Hint) : State :=
  iterate ((a % 128 + len + 127) / 128) (fun i s => (bringIn s (a / 128 * 128 + 128 * i) h true).touch2 (a / 128 * 128 + 128 * i) h) s

/-- What precedes an engine's accesses of a range: its compressed pages are expanded (R352), and its sectors come into L2 with
the engine's retention hint (R68). -/
def settleHint (s : State) (a len : Nat) (h : Hint) : State := bringRange (expandRange s a len) a len h

def settle (s : State) (a len : Nat) : State := settleHint s a len .hd

/-- The cause that stops an engine's access of a range, as a thread's access would meet it (R219). -/
def faultCause (s : State) (core tenant : Nat) (n : Need) (a : Nat) : Cause :=
  match resolveE s core tenant n a 1 with
  | .trap c _ => c
  | _ => if n = .rd then .poison else .page

/-! ### Fences -/

/-- The sectors of other packages' memory that this package's L2 holds are taken afresh but for their dirty bytes (R97). -/
def renew2 (s : State) : State :=
  s.mem.l2.foldl (fun s c =>
    if c.key < 2 ^ 40 then s
    else if c.dirty = [] then s.drop2 c
    else s.onMem fun m => { m with
      bytes := ((List.range 128).filter fun o => !c.dirty.contains o).foldl
        (fun b o => Memory.set b (vkey (c.sector * 128 + o)) (m.bytes.get (c.key + o))) m.bytes }) s

/-- An acquire of a core (R94, R96, R97): its HC copies go, and the SWC copies in the scope's reach are taken afresh but for
their dirty bytes. -/
def acquireCore (s : State) (core : Nat) (sc : Scope) : State :=
  let s := if sc = .sys then renew2 s else s
  s.onMem fun m => { m with
    l1 := m.l1.filterMap fun c =>
      if c.core ≠ core then some c
      else if c.hc then none
      else if sc = .core || (2 ^ 40 ≤ c.key && sc ≠ .sys) then some c
      else if c.dirty = [] then none
      else
        let k := m.homeKey (c.sector * 128) c.key
        some { c with
          data := c.dirty.foldl (fun d o => Memory.set d o (c.data.get o)) (sectorData m.bytes k)
          bad := c.bad || m.poison.contains k } }

/-- A release of a core (R97): every dirty SWC byte of its L1 reaches its home, and at scope `.sys` other packages' bytes
reach their owners. -/
def releaseCore (s : State) (core : Nat) (sc : Scope) : State :=
  if sc = .core then s
  else
    let s' := s.mem.l1.foldl (fun s c => if c.core = core && !c.hc then writeBack s c else s) s
    let s' := s'.onMem fun m => { m with l1 := m.l1.map fun c => if c.core = core then { c with dirty := [] } else c }
    if sc = .sys then carryOut s' else s'

/-- Whether the island of a core is power-gated (R83). -/
def gatedCore (s : State) (core : Nat) : Bool :=
  match look s.host.islands (islandOfFloe (floeOfCore core)) with
  | some i => i.gated
  | none => false

/-- A walk's result enters the core's PLB as its newest entry, in place of an entry for the same page (R80); the PLB of a
power-gated core is empty (R83). -/
def plbAdd (s : State) (core : Nat) (p : Plb) : State :=
  if gatedCore s core then s
  else s.onMem fun m => { m with
    plb := (core, p) :: m.plb.filter fun q => !(q.1 = core && q.2.vpn = p.vpn && q.2.size = p.size) }

/-- The entries of PLBs less those beyond a core's newest 128 (R80), given the cores of the entries before them. -/
def plbKeep (before : List Nat) : List (Nat × Plb) → List (Nat × Plb)
  | [] => []
  | e :: t => if before.count e.1 < 128 then e :: plbKeep (e.1 :: before) t else plbKeep before t

/-- A full PLB has lost its oldest entry (R80). -/
def plbEvict (s : State) : State :=
  if s.mem.plb.length ≤ 128 then s else s.onMem fun m => { m with plb := plbKeep [] m.plb }

/-! ### Evictions -/

/-- Overfull L1D sets have lost lines (R67): their dirty bytes reach their homes, and the home owns an HC line again (R87). -/
def evict1 (s : State) : State :=
  let v := geo1.spill s.mem.l1
  let gone := s.mem.l1.filter fun c => v.contains (geo1.line c)
  let s := gone.foldl (fun s c =>
    if c.hc then
      let l := s.line (c.sector / 2)
      if l.owner = some c.core then s.setLine { l with owner := none } else s
    else writeBack s c) s
  s.onMem fun m => { m with l1 := m.l1.filter fun c => !v.contains (geo1.line c) }

/-- Overfull L2 sets have lost lines (R67), their dirty sectors written back. -/
def evict2 (s : State) : State :=
  let v := geo2.spill s.mem.l2
  (s.mem.l2.filter fun c => v.contains (geo2.line c)).foldl State.drop2 s

/-- Overfull L1I sets have lost lines. -/
def evictI (s : State) : State :=
  s.onMem fun m =>
    let v := geoI.spill m.l1i
    { m with l1i := m.l1i.filter fun c => !v.contains (geoI.line c) }

/-- What a step has evicted from the caches (R67). -/
def cacheEvict (s : State) : State :=
  let s := if s.mem.l1.length ≤ geo1.ways then s else evict1 s
  let s := if s.mem.l1i.length ≤ geoI.ways then s else evictI s
  if s.mem.l2.length ≤ geo2.ways then s else evict2 s

end Sys2Proof.Machine
end

