-- ==== Sys2Proof/Machine/Report.lean ====
section
/-! DEFINITION. What the device reports: MSI-X, error logs (R371, R385), trace records (R339), ring halts and packet
completion (R381, R392). -/

namespace Sys2Proof.Machine

set_option linter.unusedVariables false

/-- `ptime` at the moraine die, which every core's copy equals in this model (R33). -/
def State.ptime (s : State) : Nat := s.host.time.ns

/-- Raises a ring's MSI-X vector; a message that cannot be sent is dropped (R323, R383). -/
def raiseIrq (s : State) (ring : Nat) : State :=
  if s.host.linkUp then { s with host := { s.host with msix := ring :: s.host.msix } } else s

/-- The class of a device virtual address. -/
def devClass (s : State) (a : Nat) : Cls :=
  match walk s.mem a with
  | .leaf p => p.cls
  | _ => .prv

/-- The pieces of a range of device virtual addresses that have present pages, with their bytes. -/
def devPieces (s : State) : List (Nat × Nat) → List Byte → List (Span × List Byte)
  | [], _ => []
  | (a, n) :: t, bs =>
    match xlate s 2048 a with
    | some k => (⟨a, k, n, devClass s a⟩, bs.take n) :: devPieces s t (bs.drop n)
    | none => devPieces s t (bs.drop n)

/-- Writes bytes that the device itself places in memory at a device virtual address, as one write (R125); a byte with no
present page is not written. -/
def devWrite (s : State) (a : Nat) (bs : List Byte) : State :=
  let l := devPieces s (sectorPieces bs.length a bs.length) bs
  engineWrite s 2048 (engineTe s 0 [] (l.map (·.1))) (l.map (·.1)) (l.flatMap (·.2))

/-- Reads bytes at a device virtual address for the device itself; none where a page is not present. -/
def devRead (s : State) (a : Nat) : Nat → Option (List Byte)
  | 0 => some []
  | n + 1 =>
    match xlate s 2048 a with
    | none => none
    | some k =>
      match devRead s (a + 1) n with
      | none => none
      | some t => some (s.mem.bytes.get k :: t)

/-- A 32-byte record of an error log (R371). -/
def logRecord (ty unit core count time addr corr : Nat) : List Byte :=
  leBytes 1 ty ++ leBytes 1 unit ++ leBytes 2 core ++ leBytes 4 count ++ leBytes 8 time ++ leBytes 8 addr ++ leBytes 8 corr

/-- Appends one record to a log with room for it. -/
def logPut (s : State) (g : Fin 5) (bs : List Byte) : State :=
  let l := s.host.logs[g]
  let s := devWrite s (l.base + 32 * (l.prod % 4096)) bs
  { s with host := { s.host with logs := s.host.logs.set g { l with prod := (l.prod + 1) % 2 ^ 64 } } }

/-- Writes the loss record of a log that has room again (R371). -/
def logLoss (s : State) (g : Nat) : State :=
  let g : Fin 5 := Fin.ofNat 5 g
  if 0 < s.host.logs[g].lost && s.host.logs[g].prod - s.host.logs[g].cons < 4096 then
    let s' := logPut s g (logRecord 7 0 0xFFFF s.host.logs[g].lost s.ptime 0 0)
    { s' with host := { s'.host with logs := s'.host.logs.set g { s'.host.logs[g] with lost := 0 } } }
  else s

/-- Logs an error (R371): when the log is full the record is counted and dropped, and a record of type 7 with the count
is written once space returns. -/
def logError (s : State) (g : Nat) (ty unit core count addr corr : Nat) : State :=
  let g : Fin 5 := Fin.ofNat 5 g
  let room (s : State) : Bool := s.host.logs[g].prod - s.host.logs[g].cons < 4096
  let s := logLoss s g
  if room s then logPut s g (logRecord ty unit core count s.ptime addr corr)
  else
    let l := s.host.logs[g]
    { s with host := { s.host with
        logs := s.host.logs.set g { l with lost := l.lost + 1, drop := min (l.drop + 1) (2 ^ 64 - 1) } } }

/-- A 32-byte trace record (R339). -/
def traceBytes (ty slot core corr time p1 p2 : Nat) : List Byte :=
  leBytes 1 ty ++ leBytes 1 slot ++ leBytes 2 core ++ leBytes 4 corr ++ leBytes 8 time ++ leBytes 8 p1 ++ leBytes 8 p2

/-- The enable bit of TRCTL that a record type needs (R325). -/
def traceBit (ty : Nat) : Nat := if ty = 1 then 1 else if ty ≤ 4 then 2 else 3

def Trace.size (t : Trace) : Nat := 2 ^ (12 + bits t.ctl.toNat 20 4)

/-- Appends a record to a core's trace buffer when its kind is enabled (R325, R339). -/
def traceFor (s : State) (core slot ty corr p1 p2 : Nat) : State :=
  match s.host.trace.find? fun t => t.core = core with
  | none => s
  | some t =>
    if bits t.ctl.toNat 0 1 = 1 && bits t.ctl.toNat (traceBit ty) 1 = 1 then
      let set (s : State) (t : Trace) : State :=
        { s with host := { s.host with trace := s.host.trace.map fun u => if u.core = core then t else u } }
      let room (t : Trace) : Bool := t.wr + 32 - t.rd ≤ t.size
      let one (s : State) (t : Trace) (bs : List Byte) : State × Trace :=
        (devWrite s (t.base.toNat + t.wr % t.size) bs, { t with wr := (t.wr + 32) % 2 ^ 64 })
      let (s, t) :=
        if 0 < t.lost && room t then
          let r := one s t (traceBytes 7 slot core 0 s.ptime t.lost 0)
          (r.1, { r.2 with lost := 0 })
        else (s, t)
      if room t then
        let r := one s t (traceBytes ty slot core corr s.ptime p1 p2)
        set r.1 r.2
      else set s { t with lost := t.lost + 1 }
    else s

/-- A trace record of the current slot. -/
def State.trace (s : State) (ty p1 p2 : Nat) : State := traceFor s s.th.core s.th.slot ty s.th.corr.toNat p1 p2

/-- The CRC-32 of one more byte. -/
def crcByte (c : BitVec 32) (b : Byte) : BitVec 32 :=
  iterate 8 (fun _ c => if c.getLsbD 0 then (c >>> 1) ^^^ 0xEDB88320 else c >>> 1) (c ^^^ b.setWidth 32)

/-- A taken branch enters the path signature of its core while a replay session runs (R340). -/
def State.branch (s : State) (src dst : Nat) : State :=
  if s.host.replayState = 1 then
    let old := BitVec.ofNat 32 ((look s.host.replaySig s.th.core).getD 0xFFFFFFFF)
    let c := (leBytes 8 src ++ leBytes 8 dst).foldl crcByte old
    { s with host := { s.host with replaySig := put s.host.replaySig s.th.core c.toNat } }
  else s

/-- A submission ring; an unlisted ring reads as after reset (R326). -/
def State.ring (s : State) (r : Nat) : SubRing := (look s.lp.rings r).getD ⟨0, 0, 0, 0, 0, 0, [], none, none, []⟩

def State.setRing (s : State) (r : Nat) (x : SubRing) : State := { s with lp := { s.lp with rings := put s.lp.rings r x } }

/-- Halts a ring at the packet at its head (R381, R385). -/
def haltRing (s : State) (r code op corr : Nat) : State :=
  let x := s.ring r
  let err := corr * 2 ^ 96 + x.head * 2 ^ 64 + op * 2 ^ 32 + code
  let s := s.setRing r { x with cfg := x.cfg ||| 0x80000, err := BitVec.ofNat 128 err }
  raiseIrq (logError s 4 12 15 0xFFFF 0 r corr) r

/-- A packet completes (R392): its interrupt is raised if it asked for it. -/
def completePacket (s : State) (r seq : Nat) : State :=
  let x := s.ring r
  match x.open_.find? fun p => p.seq = seq with
  | none => s
  | some p =>
    let s := s.setRing r { x with open_ := x.open_.filter fun q => q.seq ≠ seq }
    if p.irq then raiseIrq s r else s

/-- Ends the wait-on-object packets that a test selects; their rings proceed (R328). -/
def releaseRings (s : State) (p : RingWait → Bool) : State :=
  s.lp.rings.foldl (fun s e =>
    match e.2.held with
    | some w =>
      if p w then completePacket (s.setRing e.1 { s.ring e.1 with held := none }) e.1 w.seq else s
    | none => s) s

end Sys2Proof.Machine
end

