-- ==== Sys2Proof/Machine/Ports.lean ====
section
/-! DEFINITION. Stream ports (R216 to R220): fetching, performing pushes and ending a binding. -/

namespace Sys2Proof.Machine

set_option linter.unusedVariables false

/-- The bytes of one vector of a thread: 128 × granules (R206, R216). -/
def Thread.vbytes (t : Thread) : Nat := 128 * t.gran

/-- The address of vector `k` of a stream (R216). -/
def Port.addr (p : Port) (k : Nat) : Nat := (p.base + p.stride * BitVec.ofNat 64 k).toNat

/-- The bytes of a vector register's first `n` bytes. -/
def vecBytes (v : BitVec 2048) (n : Nat) : List Byte := leBytes n v.toNat

/-- Performs the oldest pushed vector of a write port as an engine operation (R218); a failure discards the queue and
sets flt (R219). None when it has to wait. -/
def portPush (s : State) (t : Thread) (p : Port) : Option (State × Port) :=
  match p.queue with
  | [] => some (s, p)
  | (v, ti) :: rest =>
    let bs := vecBytes v t.vbytes
    let a := p.addr p.done
    match engineOp s t.core (s.tenantOf t.core) ti [] [(a, t.vbytes)] (fun _ => bs) with
    | .done s' te => some (s', { p with queue := rest, done := p.done + 1, te := max p.te te })
    | .fault b =>
      some (s, { p with
        queue := [], flt := true, fail := some (faultCause s t.core (s.tenantOf t.core) .wr b, b) })
    | .wait => none

/-- Performs every pushed vector, oldest first (R220 step 1). -/
def portDrain : Nat → State → Thread → Port → Option (State × Port)
  | 0, s, _, p => some (s, p)
  | n + 1, s, t, p =>
    if p.queue = [] then some (s, p)
    else
      let a := p.addr p.done
      match portPush (noteRange (settleHint s a t.vbytes (hintOf p.hint)) t.lid a t.vbytes) t p with
      | some (s', p') => portDrain n s' t p'
      | none => none

/-- Fetches the next vector of a read port as an engine operation (R218, R219). None when it has to wait. -/
def portFetch (s : State) (t : Thread) (p : Port) : Option (State × Port) :=
  let k := p.done + p.ahead.length
  let a := p.addr k
  match engineOp s t.core (s.tenantOf t.core) t.pts [(a, t.vbytes)] [] id with
  | .done s' te =>
    match spans s t.core (s.tenantOf t.core) .rd a t.vbytes with
    | .ok l =>
      let v := BitVec.ofNat 2048 (leNat (engineRead s l))
      some (s', { p with ahead := p.ahead ++ [⟨k, v, te, none⟩], te := max p.te te })
    | _ => none
  | .fault b =>
    some (s, { p with
      ahead := p.ahead ++ [⟨k, 0, t.pts, some (faultCause s t.core (s.tenantOf t.core) .rd b, b)⟩] })
  | .wait => none

/-- The status fields that the end of a binding writes at byte 24 of the descriptor (R216). -/
def Port.status (p : Port) : List Byte :=
  leBytes 8 (p.done % 2 ^ 32 + p.ovf.toNat * 2 ^ 32 + p.flt.toNat * 2 ^ 33)

/-- Performs the pushes of a thread's port, which stays bound (R220 step 1). None when one has to wait. -/
def portFlush (s : State) (t : Thread) (n : Nat) : Option (State × Thread) :=
  match look t.ports n with
  | none => some (s, t)
  | some p =>
    if p.queue = [] then some (s, t)
    else (portDrain (p.queue.length + 1) s t p).map fun r => (r.1, { t with ports := put t.ports n r.2 })

/-- Ends a binding (R220): pushes performed, descriptor written, `pts` raised. None when a push or the write of the
descriptor has to wait. -/
def portEnd (s : State) (t : Thread) (n : Nat) : Option (State × Thread) :=
  match look t.ports n with
  | none => some (s, t)
  | some p =>
    match portDrain (p.queue.length + 1) s t p with
    | none => none
    | some (s, p) =>
      let t := { t with ports := drop t.ports n, pts := max t.pts p.te
                        v := t.v.set (Fin.ofNat 32 (24 + n)) (Config.freeVec (s.fresh + n)) }
      match engineOp (noteRange (settle s p.desc 32) t.lid p.desc 32) t.core (s.tenantOf t.core) t.pts [] [(p.desc + 24, 8)] (fun _ => p.status) with
      | .done s' te => some (s', { t with pts := max t.pts te })
      | .fault _ => some (s, t)
      | .wait => none

/-- Ends every binding of a thread. None when one has to wait. -/
def portsEnd (s : State) (t : Thread) : Option (State × Thread) :=
  t.ports.foldl (fun acc e => acc.bind fun x => portEnd x.1 x.2 e.1) (some (s, t))

end Sys2Proof.Machine
end

