-- ==== Sys2Proof/Machine/Objects.lean ====
section
/-! DEFINITION. Synchronisation objects as their engines perform operations on them (R99, R249 to R257): waiters and their
release, barriers, mutexes, counters, event lines, the global barrier, the record pools, and the end of a thread. -/

namespace Sys2Proof.Machine

set_option linter.unusedVariables false

/-! ### Completing an instruction -/

/-- The PC after an instruction that continues in sequence: the next word, or what an active repetition says (R180). -/
def Thread.advance (t : Thread) : Thread :=
  match t.rep with
  | none => { t with pc := t.pc + 4 }
  | some r =>
    if t.pc + 4 = r.start + BitVec.ofNat 64 (4 * r.len) then
      if r.left ≤ 1 then { t with pc := t.pc + 4, rep := none }
      else { t with pc := r.start, rep := some { r with left := r.left - 1, iter := r.iter + 1 } }
    else { t with pc := t.pc + 4 }

/-- The index of an address in a pin. -/
def Pin.index (p : Pin) (a : Word) : Option Nat :=
  let d := (a - p.start).toNat
  if d % 4 = 0 && d / 4 < p.words.length then some (d / 4) else none

/-- Counts an execution of a pinned word (R338). -/
def Pin.ran (p : Pin) (a : Word) : Pin :=
  match p.index a with
  | some i => { p with runs := p.runs.modify i (· + 1) }
  | none => p

/-- The bookkeeping of an issued and completed instruction (R39, R140): its W is waited out and spends credits. -/
def Thread.issued (t : Thread) : Thread :=
  { t with stall := t.w, pend := spend t.w t.pend, pin := t.pin.map fun p => p.ran t.pc, hold := none }

/-- An instruction completes and continues in sequence. -/
def Thread.complete (t : Thread) : Thread := t.issued.advance

/-! ### Waiters -/

/-- The register in which a wait returns its status; 0 for none. -/
def Wait.rd : Wait → Nat
  | .bar _ _ rd _ | .mtx _ rd _ | .cnt _ _ rd _ | .gbar _ rd _ | .take rd _ | .fab _ _ rd | .logged rd _ _ | .owed rd _ _ => rd
  | _ => 0

/-- The object or line that a wait names. -/
def Wait.obj : Wait → Option Nat
  | .bar h _ _ _ | .line h _ | .mtx h _ _ | .cnt h _ _ _ => some h
  | _ => Option.none

/-- The object, line or engine that ends a thread's wait, as the source of its wake-up message (R100). -/
def Thread.source (t : Thread) : Nat :=
  match t.wait with
  | .bar h _ _ _ | .line h _ | .mtx h _ _ | .cnt h _ _ _ => h
  | .gbar _ _ _ => 2 ^ 60 + t.lid
  | .take _ _ => 2 ^ 61 + floeOfCore t.core
  | .fab k a _ => 2 ^ 62 + 4 * a + k
  | _ => 0

/-- A wait's place in the order of waiting. -/
def Wait.place : Wait → Nat
  | .bar _ _ _ q | .line _ q | .mtx _ _ q | .cnt _ _ _ q | .gbar _ _ q | .take _ q => q
  | _ => 0

/-- A wait ends (R92): its status and timestamp arrive, and the instruction completes; the slot is ready once its wake-up
message, sent in a cycle, has arrived (R43). -/
def Thread.deliver (t : Thread) (cycle : Nat) (status : Word) (ts : Nat) : Thread :=
  let d : Reg := Fin.ofNat 32 t.wait.rd
  let t' := ((t.setX d status).forget d.val).complete
  { t' with pts := max t.pts ts, wait := .waking t.source cycle t.wait.place }

/-- The code of a cause (R347). -/
def Cause.code : Cause → Nat
  | .illegal => 0x01 | .priv => 0x02 | .misalign => 0x03 | .page => 0x04 | .prot => 0x05 | .syncwin => 0x06
  | .nolanes => 0x07 | .stall => 0x08 | .rescale => 0x09 | .brk => 0x0A | .step => 0x0B | .engine => 0x0C
  | .poison => 0x0D | .sys => 0x0F | .watch => 0x10

/-- An entry of an arrival log: 16 bytes whose layout the spec leaves open (R55). -/
def logEntry (k : Nat) : List Byte := leBytes 8 (Config.freeWord k).toNat ++ leBytes 8 (Config.freeWord (k + 1)).toNat

/-- What an append to an arrival log meets (R55, R358): room, a full log or a page in transition, or a failure with its cause. -/
inductive Append where
  | done (s : State)
  | full
  | bad (c : Cause)

/-- Appends an entry to a launch's arrival log. -/
def tryAppend (s : State) (l : Launch) : Append :=
  if l.logLen < l.logPos + 16 then .full
  else
    let a := l.logAddr + l.logPos
    let s := settle s a 16
    match spans s 2048 l.tenant .wr a 16 with
    | .fault b => .bad (faultCause s 2048 l.tenant .wr b)
    | .wait => .full
    | .ok ds =>
      if ds.any fun x => poisoned s x.key x.n then .bad .poison
      else
        let s := engineWrite s 2048 (engineTe s 0 [] ds) ds (logEntry (s.fresh + l.logPos / 8))
        .done (s.onLaunch l.lid fun l => { l with logPos := l.logPos + 16 })

/-- Appends an entry to a launch's arrival log, if it can be appended now. A full log marks the launch for restore (R55), and a
failure is remembered (R358). -/
def appendLog (s : State) (lid : Nat) : Bool × State :=
  match s.launch lid with
  | none => (false, s)
  | some l =>
    match tryAppend s l with
    | .done s => (true, s)
    | .full => (false, s.onLaunch lid fun l => { l with urgent := true })
    | .bad c => (false, s.onLaunch lid fun l => { l with logBad := c.code })

/-- A saved wait ends while its launch is out (R55): its event is logged, or held back at the unit that sends it; the wait
completes at restore. -/
def logWait (s : State) (lid tid : Nat) (status : Word) (ts : Nat) : State :=
  let r := appendLog s lid
  let end_ (t : Thread) : Thread :=
    if t.tid = tid then { t with wait := if r.1 then .logged t.wait.rd status ts else .owed t.wait.rd status ts } else t
  r.2.onLaunch lid fun l => { l with saved := l.saved.map fun e => (e.1, end_ e.2) }

/-- The saved threads of launches that are out, in order, with their launches. -/
def savedOf (s : State) : List (Nat × Thread) := s.lp.launches.flatMap fun l => l.saved.map fun e => (l.lid, e.2)

/-- Releases every waiter that a test selects (R251, R252, R256, R257): the slots', and the saved ones of launches that are
out, whose releases are logged (R55). With a scope, each release acts as an acquiring fence (R237, R263). -/
def State.release (s : State) (p : Thread → Bool) (status : Word) (ts : Nat) (acq : Option Scope) : State :=
  let hit (t : Thread) : Bool := t.live && p t
  let f (t : Thread) : Thread := if hit t then t.deliver s.host.cycle status ts else t
  let cores := (s.threads.filter hit).map (·.core)
  let saved := (savedOf s).filter fun e => hit e.2
  let s := { s with th := f s.th, slots := s.slots.map f }
  let s := match acq with
    | some sc => cores.foldl (fun s c => acquireCore s c sc) s
    | none => s
  saved.foldl (fun s e => logWait s e.1 e.2.tid status ts) s

/-- Whether any slot, saved slot, parked record or ring waits on an object (R249, R250). -/
def hasWaiters (s : State) (h : Nat) : Bool :=
  (s.threads.any fun t => t.wait.obj = some h) ||
  (s.lp.launches.any fun l => l.saved.any fun e => e.2.wait.obj = some h) ||
  (s.sync.parked.any fun p => p.handle = h) ||
  (s.lp.rings.any fun r => r.2.held.any fun w => w.handle = h)

/-- The next place in the order of waiting. -/
def State.nextSeq (s : State) : Nat × State := (s.sync.seq, { s with sync := { s.sync with seq := s.sync.seq + 1 } })

/-! ### Records and pools -/

/-- How many records a die's pool holds: 4,096 in SRAM and the part of the overflow area kept for its spill (R48, R359). -/
def dieCap (d : Die) : Nat := 4096 + min d.ovf d.spill * 16384

/-- Appends a record to a die's pool. -/
def dieEnqueue (s : State) (d : Nat) (r : Rec) (pts : Nat) : State :=
  s.onDie d fun x => { x with pool := x.pool ++ [{ r with since := s.host.cycle }], poolMark := max x.poolMark pts }

/-- Enqueues a record in a floe's pool, or in its die's when that is full (R48); none when both are. -/
def enqueue (s : State) (f : Nat) (r : Rec) (pts : Nat) : Option State :=
  let x := s.floe f
  if x.pool.length < 256 then
    some (s.setFloe f { x with pool := x.pool ++ [{ r with since := s.host.cycle }], mark := max x.mark pts })
  else if (s.die (f / 64)).pool.length < dieCap (s.die (f / 64)) then some (dieEnqueue s (f / 64) r pts)
  else none

/-- Enqueues a released record: in the pool of the floe on which its thread last ran, else in that die's pool, beyond its
capacity if need be, since a release cannot fail (R46, R48). -/
def enqueueAnyway (s : State) (r : Rec) (pts : Nat) : State :=
  match enqueue s (floeOfCore r.core) r pts with
  | some s' => s'
  | none => dieEnqueue s (dieOfCore r.core) r pts

/-- Releases the parked records that a test selects, in parking order, with a resume reason (R46). The pool's mark is raised to
the releasing phase's or firer's timestamp and to the suspended thread's own `pts` (R92; DESIGN CHOICE, log 106). -/
def unpark (s : State) (p : Parked → Bool) (reason ts : Nat) : State :=
  let out := s.sync.parked.filter p
  let s := { s with sync := { s.sync with parked := s.sync.parked.filter fun x => !p x } }
  out.foldl (fun s x => enqueueAnyway s { x.cont with reason := reason } (max ts x.pts)) s

/-! ### Objects -/

def State.obj (s : State) (h : Nat) : Option Obj := look s.sync.objs h

def State.setObj (s : State) (h : Nat) (o : Obj) : State := { s with sync := { s.sync with objs := put s.sync.objs h o } }

def State.setKind (s : State) (h : Nat) (k : Kind) : State :=
  match s.obj h with
  | some o => s.setObj h { o with kind := k }
  | none => s

/-- The barrier object of a handle. -/
def State.bar (s : State) (h : Nat) : Option Bar :=
  match s.obj h with
  | some ⟨_, _, _, .bar b⟩ => some b
  | _ => none

def poisonedObj (s : State) (h : Nat) : Bool :=
  match s.obj h with
  | some o => o.poison
  | none => false

/-- Whether phase `t` has completed (R250). -/
def Bar.done (b : Bar) (t : Nat) : Bool := let d := (b.phase + 65536 - t) % 65536; 1 ≤ d && d ≤ 32767

/-- Whether phase `t` is in the future (R250). -/
def Bar.future (b : Bar) (t : Nat) : Bool := 32768 ≤ (b.phase + 65536 - t) % 65536

/-- Whether a thread waits on a barrier for a phase that a test selects. -/
def waitsBar (h : Nat) (p : Nat → Bool) (t : Thread) : Bool :=
  match t.wait with
  | .bar h' ph _ _ => h' = h && p ph
  | _ => false

/-- Releases waiters and parked records of a barrier with OK and PHASE (2), or with BROKEN for both (R46, R251). -/
def barRelease (s : State) (h : Nat) (p : Nat → Bool) (broken : Bool) (ts : Nat) : State :=
  let s := s.release (waitsBar h p) (if broken then 2 else 0) ts (some .pkg)
  let s := unpark s (fun x => x.handle = h && p x.phase) (if broken then 3 else 2) ts
  releaseRings s fun w => w.handle = h && p (w.target.toNat % 65536)

/-- The members of a barrier that have ended. -/
def Bar.endedCount (b : Bar) : Nat := (b.members.filter fun m => m.ended).length

/-- Breaks a barrier (R251). -/
def barBreak (s : State) (h : Nat) : State :=
  match s.bar h with
  | none => s
  | some b => barRelease (s.setKind h (.bar { b with brk := true, arr := 0 })) h (fun _ => true) true b.pts

/-- Completes the current phase (R251). -/
def barComplete (s : State) (h : Nat) : State :=
  match s.bar h with
  | none => s
  | some b =>
    let s := barRelease s h (fun t => t = b.phase) false b.pts
    let s := s.setKind h (.bar { b with
      phase := (b.phase + 1) % 65536
      arr := if b.drop then b.endedCount else 0 })
    if !b.drop && 0 < b.endedCount then barBreak s h else s

/-- A member's arrival for a phase. -/
def barMember (ms : List BarMember) (tid phase : Nat) : List BarMember :=
  if ms.any fun m => m.tid = tid then ms.map fun m => if m.tid = tid then { m with last := some phase } else m
  else ms ++ [⟨tid, some phase, false⟩]

/-- Counts one arrival for the current phase and completes the phase at the last one (R251). -/
def barCount (s : State) (h : Nat) (b : Bar) : State :=
  let s := s.setKind h (.bar { b with arr := b.arr + 1 })
  if b.arr + 1 = b.exp then barComplete s h else s

/-- An arrival at a barrier (R251) by a thread or, with no thread, by an engine, at an incarnation; the status. An object
that is gone makes an engine's arrival stale (R249), and a poisoned one breaks every arrival (R369). -/
def barArrive (s : State) (h inc t : Nat) (tid : Option Nat) (pts : Nat) : Nat × State :=
  match s.bar h with
  | none => (3, s)
  | some b =>
    if poisonedObj s h then (2, s)
    else if inc ≠ b.inc || t ≠ b.phase then (3, s)
    else if b.brk then (2, s)
    else
      let ms := match tid with
        | some i => barMember b.members i t
        | none => b.members
      (0, barCount s h { b with members := ms, pts := max b.pts pts })

/-- An engine breaks its completion object at the incarnation it snapshotted (R236); a stale break is discarded. -/
def engineBreak (s : State) (h inc : Nat) : State :=
  match s.bar h with
  | none => s
  | some b => if b.inc = inc then barBreak s h else s

/-- The end of a member of one barrier (R253). -/
def barEnd (s : State) (h tid : Nat) : State :=
  match s.bar h with
  | none => s
  | some b =>
    match b.members.find? fun m => m.tid = tid && !m.ended with
    | none => s
    | some m =>
      let b := { b with members := b.members.map fun x => if x.tid = tid then { x with ended := true } else x }
      let s := s.setKind h (.bar b)
      if b.brk || poisonedObj s h || m.last = some b.phase then s
      else if b.drop then barCount s h b
      else barBreak s h

/-! ### Mutexes -/

/-- The window address of an event-unit offset (R58, R62). -/
def eventAddr (f off : Nat) : Nat := 0x00F5000000000000 + f * 0x1000 + off

/-- Whether an address is a mutex line (R62). -/
def isMutexLine (h : Nat) : Bool :=
  match region h with
  | .event _ o => 0xA00 ≤ o && o < 0xC00 && o % 0x40 = 0
  | _ => false

/-- A mutex: an allocated object, or a line, which exists free from start-up (R255). -/
def State.mtx (s : State) (h : Nat) : Mtx :=
  match s.obj h with
  | some ⟨_, _, _, .mtx m⟩ => m
  | _ => ⟨none, false, 0⟩

def State.setMtx (s : State) (h : Nat) (m : Mtx) : State :=
  match s.obj h with
  | some o => s.setObj h { o with kind := .mtx m }
  | none => s.setObj h ⟨0, true, false, .mtx m⟩

/-- The place of a thread in a mutex's queue. -/
def mtxSeq (h : Nat) (t : Thread) : Option Nat :=
  match t.wait with
  | .mtx h' _ seq => if h' = h && t.live then some seq else none
  | _ => none

/-- The least of a list. -/
def least : List Nat → Option Nat
  | [] => none
  | x :: t =>
    match least t with
    | none => some x
    | some y => some (min x y)

/-- Passes a mutex to its oldest request, or frees it (R255). -/
def mtxPass (s : State) (h pts : Nat) (aband : Bool) : State :=
  match least (s.threads.filterMap (mtxSeq h)) with
  | none => s.setMtx h ⟨none, aband, pts⟩
  | some q =>
    let tid := (s.threads.find? fun t => mtxSeq h t = some q).map (·.tid)
    let s := s.setMtx h ⟨tid, false, pts⟩
    s.release (fun t => mtxSeq h t = some q) (if aband then 2 else 0) pts (some .pkg)

/-- The mutexes that a thread holds. -/
def heldBy (s : State) (tid : Nat) : List Nat :=
  s.sync.objs.filterMap fun e =>
    match e.2.kind with
    | .mtx m => if m.holder = some tid then some e.1 else none
    | _ => none

/-! ### Counters and lines -/

/-- Sets a counter and re-tests its waiters (R256). -/
def cntSet (s : State) (h : Nat) (v : Word) (pts : Nat) : State :=
  let s := s.setKind h (.cnt v pts)
  let s := s.release (fun t => match t.wait with
    | .cnt h' thr _ _ => h' = h && thr ≤ v.toNat
    | _ => false) 0 pts (some .pkg)
  releaseRings s fun w => w.handle = h && w.target.toNat ≤ v.toNat

/-- A line fires (R254): its gated slots wake and its parked records are released with EVENT. -/
def lineFire (s : State) (h pts : Nat) : State :=
  let s := s.release (fun t => match t.wait with
    | .line h' _ => h' = h
    | _ => false) 0 pts none
  unpark s (fun x => x.handle = h) 4 pts

/-! ### The global barrier -/

/-- The end of an engine's write of bytes: performed at an order point, suppressed by a fault, or waiting for a page in
transition (R352, R354). -/
inductive Recorded where
  | done (s : State) (te : Nat)
  | fault
  | wait

/-- Writes bytes as an engine operation after any expansion that it has to wait for. -/
def record (s : State) (core tenant ti a : Nat) (bs : List Byte) : Recorded :=
  match engineOp (settle s a bs.length) core tenant ti [] [(a, bs.length)] (fun _ => bs) with
  | .done s te => .done s te
  | .fault _ => .fault
  | .wait => .wait

/-- The live threads of a launch that take part in its current global phase and have not arrived, in slots, saved, in
pools or parked (R257). -/
def gbarMissing (s : State) (l : Launch) : Bool :=
  let out (tid born lid : Nat) : Bool := lid = l.lid && born ≤ l.gphase && !l.garr.contains tid
  (s.threads.any fun t => out t.tid t.gborn t.lid) ||
  (l.saved.any fun e => out e.2.tid e.2.gborn e.2.lid) ||
  (s.floes.any fun f => f.2.pool.any fun r => out r.tid r.gborn r.lid) ||
  (s.sync.dies.toList.any fun d => d.pool.any fun r => out r.tid r.gborn r.lid) ||
  (s.sync.parked.any fun p => out p.cont.tid p.cont.gborn p.cont.lid)

/-- The imbalance record of a phase (R257). -/
def imbalance (l : Launch) : List Byte :=
  let sum := min (l.gtimes.foldl (fun a x => a + (x - l.gearly)) 0) (2 ^ 64 - 1)
  leBytes 8 l.gearly ++ leBytes 8 l.glate ++ leBytes 8 sum ++
    leBytes 8 (l.gphase % 65536 + (l.garr.length + l.gended) % 2 ^ 25 * 2 ^ 16 + l.glast % 2 ^ 11 * 2 ^ 41)

/-- The imbalance record's place in translated memory, when it can be written there: the record is dropped where its sector is
poisoned or its address lies elsewhere (R257). -/
def gbarRecord (s : State) (l : Launch) : Recorded :=
  if region l.gaddr ≠ .virt || 2 ^ 57 ≤ l.gaddr then .fault
  else
    match xlate s l.glast l.gaddr with
    | some k =>
      if poisoned s k 32 then .fault
      else record (noteRange s l.lid l.gaddr 32) l.glast l.tenant l.gpts l.gaddr (imbalance l)
    | none => record (noteRange s l.lid l.gaddr 32) l.glast l.tenant l.gpts l.gaddr (imbalance l)

/-- The end of a launch's global phase: its waiters are released and the next phase begins (R257). -/
def gbarPass (s : State) (l : Launch) : State :=
  let s := s.onLaunch l.lid fun l => { l with
    gphase := l.gphase + 1, garr := [], gaddr := 0, gearly := 0, glate := 0, gtimes := [] }
  s.release (fun t => match t.wait with
    | .gbar ph _ _ => t.lid = l.lid && ph = l.gphase
    | _ => false) 0 l.gpts (some .pkg)

/-- Completes a launch's global phase once every thread has arrived or ended, its imbalance record first (R257). The phase
waits while the record's page is in transition (R352). -/
def gbarCheck (s : State) (lid : Nat) : State :=
  match s.launch lid with
  | none => s
  | some l =>
    if gbarMissing s l then s
    else if l.gaddr ≠ 0 && l.garr ≠ [] then
      match gbarRecord s l with
      | .done s' _ => gbarPass s' l
      | .fault => gbarPass s l
      | .wait => s
    else gbarPass s l

/-! ### The end of a thread -/

/-- What the end of a thread does to objects, mutexes and its launch's global barrier (R253, R255, R257): its mutexes pass on as
by `mtx.unlock`, which first releases at `.pkg` (R237). A price form of it that waits for its bank is withdrawn. -/
def threadGone (s : State) (tid core lid pts : Nat) : State :=
  let s := { s with fab := { s.fab with forms := s.fab.forms.filter fun f => f.src ≠ (Sum.inl tid : Nat ⊕ Nat) } }
  let s := (s.sync.objs.map (·.1)).foldl (fun s h => barEnd s h tid) s
  let s := if heldBy s tid = [] then s else releaseCore s core .pkg
  let s := (heldBy s tid).foldl (fun s h => mtxPass s h pts true) s
  let s := s.onLaunch lid fun l => { l with
    gended := l.gended + 1, glast := core, pts := max l.pts pts }
  gbarCheck s lid

/-! ### The clocks of slots -/

/-- The `pts` of a slot that holds no thread, and the cycles since it last advanced (R84, R85). -/
def State.clock (s : State) (core slot : Nat) : Nat × Nat :=
  let c := (look s.lp.clocks (core * 4 + slot)).getD (0, 0)
  (c.1 + (s.host.cycle - c.2) / 64, (s.host.cycle - c.2) % 64)

/-- A slot keeps the `pts` of the thread that leaves it (R84). -/
def State.keepClock (s : State) (t : Thread) : State :=
  { s with lp := { s.lp with clocks := put s.lp.clocks (t.core * 4 + t.slot) (t.pts, s.host.cycle - t.ptsFrac) } }

/-- Frees the slot of a thread, which keeps its `pts`. -/
def State.freeSlot (s : State) (t : Thread) : State :=
  let s := s.keepClock t
  if s.th.live && s.th.tid = t.tid then { s with th := Thread.idle s.th.core s.th.slot }
  else { s with slots := s.slots.filter fun u => u.tid ≠ t.tid }

/-- Puts a thread's new value back in its slot. -/
def State.putThread (s : State) (t : Thread) : State := s.onTid t.tid fun _ => t

/-- Kills a thread (R199, R368): its bindings end as at an exit, its claim and pin go, its slot frees, and its launch reports the
first cause. While a push of its ports has to wait, the thread is dying. -/
def killThread (s : State) (t : Thread) (c : Cause) : State :=
  match portsEnd s t with
  | none => s.onTid t.tid fun _ => { t with wait := .dying c }
  | some (s, t) =>
    let s := s.freeSlot t
    let s := s.onLaunch t.lid fun l => if l.cause = 0 then { l with cause := c.code } else l
    threadGone s t.tid t.core t.lid t.pts

/-- Ends the current thread as `exit` does (R196). None when a push has to wait. -/
def endCurrent (s : State) : Option State :=
  match portsEnd s s.th with
  | none => none
  | some (s, t) =>
    let s := s.freeSlot t
    some (threadGone s t.tid t.core t.lid t.pts)

end Sys2Proof.Machine
end

