-- ==== Sys2Proof/Machine/Ops.lean ====
section
/-! DEFINITION. The operations that every meaning is built from: completing an instruction, waiting, taking a trap (R199)
and returning from one (R200), the checks before an instruction (R141, R170) and before an access (R57 to R62, R80), and
fences (R97, R237). -/

namespace Sys2Proof.Machine

set_option linter.unusedVariables false

/-- The outcome of every meaning: the machine goes on. -/
def done (s : State) : Host.Outcome State Fault Refusal := .next s

/-! ### Completing and waiting -/

/-- The current instruction completes, and its thread continues in sequence. -/
def retire (s : State) : State := { s with th := s.th.complete }

/-- The current instruction completes with a result in an x register, interlocked (R139). -/
def retX (s : State) (d : Reg) (v : Word) : State := retire (s.wrX d v)

/-- The current instruction completes with a fixed-latency result (R139). -/
def retXFix (s : State) (l : Nat) (d : Reg) (v : Word) : State := retire (s.wrXFix l d v)

/-- The current instruction transfers control; a taken branch or jump is traced (R339). -/
def jumpTo (s : State) (target : Word) : State :=
  let s' := (s.trace 1 s.th.pc.toNat target.toNat).branch s.th.pc.toNat target.toNat
  { s' with th := { s'.th.issued with pc := target } }

/-- The current slot waits; its instruction has not completed (R39, R43). -/
def gate (s : State) (w : Wait) : State := { s with th := { s.th with wait := w } }

/-- The current instruction is to be executed again (R258). -/
def poll (s : State) : State := gate s .poll

/-! ### Traps -/

/-- The trap CSRs and the repetition that a trap records (R199 steps 1 to 4). -/
def Thread.trapped (t : Thread) (c : Cause) (xaddr xval : Nat) (xpc : Word) : Thread :=
  let t := { t.land with
    xcause := BitVec.ofNat 8 c.code
    xpc := xpc
    xaddr := BitVec.ofNat 64 xaddr
    xval := BitVec.ofNat 64 xval
    pin := none
    stall := 0
    hold := none
    vpart := none
    wait := .none }
  match t.rep with
  | some r => { t with
      xrep := true
      xrlen := BitVec.ofNat 12 r.len
      xridx := BitVec.ofNat 12 ((xpc - r.start).toNat / 4)
      xrcnt := r.left
      xriter := r.iter
      rep := none }
  | none => { t with xrep := false }

/-- Taking a trap on the current slot (R199), with the address that `xpc` gets. -/
def trapAt (s : State) (c : Cause) (xaddr xval : Nat) (xpc : Word) : State :=
  let s := (s.count 0x0B).trace 2 xpc.toNat c.code
  let t := s.th.trapped c xaddr xval xpc
  if t.xvec = 0 || t.inh then killThread { s with th := t, took := some c } t c
  else { s with th := { t with inh := true, pc := t.xvec }, took := some c }

/-- Taking a trap at the current instruction (R199, R347). -/
def trap (s : State) (c : Cause) (xaddr xval : Nat) : State := trapAt s c xaddr xval s.th.pc

/-- ILLEGAL, with the word in `xval` (R165, R347). -/
def trapIllegal (s : State) : State := trap s .illegal 0 s.th.ir.toNat

/-- Returning from a handler (R200): the repetition resumes as the trap CSRs say, and the PC is `xpc`. -/
def trapReturn (s : State) : State :=
  if !s.th.inh then trap s .priv 0 0x105
  else
    let t := s.th.issued
    let rep : Option Rep :=
      if t.xrep then some ⟨t.xpc - BitVec.ofNat 64 (4 * t.xridx.toNat), t.xrlen.toNat, t.xrcnt, t.xriter⟩ else none
    { s with th := { t with inh := false, rep := rep, pc := t.xpc } }

/-! ### Choosing the current slot -/

/-- Makes a slot the current one; an empty slot becomes current with no thread. -/
def selectSlot (s : State) (l : Loc) : State :=
  if s.th.core = l.core && s.th.slot = l.slot then s
  else
    let rest := if s.th.live then s.th :: s.slots else s.slots
    match rest.find? fun t => t.core = l.core && t.slot = l.slot with
    | some t => { s with th := t, slots := rest.filter fun u => !(u.core = l.core && u.slot = l.slot) }
    | none => { s with th := Thread.idle l.core l.slot, slots := rest }

/-- The thread in a slot. -/
def State.atLoc (s : State) (l : Loc) : Option Thread :=
  s.threads.find? fun t => t.core = l.core && t.slot = l.slot

/-! ### The checks before an instruction -/

/-- ILLEGAL, then STALL, then NOLANES, and then the instruction's own effect `k` (R141, R170, R208). `rs` lists the
source registers, 32 + i for vector register i. -/
def attempt (s : State) (ill : Bool) (rs : List Nat) (vec : Bool) (k : State) : State :=
  if ill then trapIllegal s
  else
    match s.th.stalled rs with
    | some r => trap s .stall 0 r
    | none => if vec && s.th.gran = 0 then trap s .nolanes 0 0 else k

/-- A word that must not stand inside a repetition (R181). -/
def inRep (s : State) : Bool := s.th.rep.isSome

/-- The rounding mode that an instruction uses: its field, or `frm` (R107, R138); none for `frm` 5 to 7. -/
def rmEff (r : RM) (frm : BitVec 3) : Option RM :=
  match r with
  | .dyn =>
    match frm.toNat with
    | 0 => some .rne | 1 => some .rz | 2 => some .rdn | 3 => some .rup | 4 => some .sr
    | _ => none
  | r => some r

/-- The rounding of one result of an instruction with draw `n` (R116 to R118): `p` results share lane `lane`, of which
this is number `e`. -/
def Thread.mode (t : Thread) (r : RM) (lane p e : Nat) : Mode :=
  match r with
  | .rne => .rne
  | .rz => .rz
  | .rdn => .rdn
  | .rup => .rup
  | .sr | .dyn =>
    let z := srBits t.srseed (t.key.setWidth 64) (BitVec.ofNat 64 (t.draw.toNat * 64 + lane))
    if p ≤ 1 then .sr 32 (bits z.toNat 32 32)
    else
      let k := 64 / p
      .sr k (bits z.toNat (k * e) k)

/-- An instruction that rounds under SR consumes one draw (R118). -/
def State.drawn (s : State) (r : RM) : State :=
  if r = .sr then { s with th := { s.th with draw := s.th.draw + 1 } } else s

/-- Accumulates flags (R110). -/
def State.flags (s : State) (f : BitVec 6) : State := { s with th := { s.th with fflags := s.th.fflags ||| f } }

/-! ### The checks before an access -/

/-- A slot waits for a walk, an expansion or a transition (R351, R354); performance events 0x08, when the PLB has missed, and 0x0D
(R205). -/
def stallOn (s : State) (w : Wait) : State :=
  match w with
  | .walk a _ => gate (if (plbFind s s.th.core a).isSome then s else s.count 0x08) w
  | .expand _ _ => gate (s.count 0x0D) w
  | _ => gate s w

/-- The current slot's tenant. -/
def State.tenant (s : State) : Nat := s.tenantOf s.th.core

/-! ### Data comparators -/

/-- A core's debug module; an untouched one is as after reset (R336). -/
def State.dbg (s : State) (core : Nat) : Dbg :=
  (s.host.dbg.find? fun d => d.core = core).getD
    ⟨core, 0, false, 0, 0, 0, 0, Vector.replicate 4 0, Vector.replicate 2 0, none, false, none, false⟩

def State.setDbg (s : State) (d : Dbg) : State :=
  { s with host := { s.host with dbg := d :: s.host.dbg.filter fun e => e.core ≠ d.core } }

/-- The iteration that a match of the current instruction reports (R338). -/
def Thread.iter (t : Thread) : Nat :=
  match t.rep with
  | some r => r.iter
  | none =>
    match t.pin with
    | some p =>
      match p.index t.pc with
      | some i => p.runs.getD i 0
      | none => 0
    | none => 0

/-- A comparator halts the current core before the instruction (R336, R338): the results of all its slots land (R142). An
instruction that has halted its core once executes when the core resumes. -/
def haltAt (s : State) (d : Dbg) (why cmp : Nat) : State :=
  let s := s.setDbg { d with
    halted := true, why := why, cmp := cmp, slot := s.th.slot, iter := s.th.iter, passed := true
    armed := none, inside := false, stepping := none }
  let land (t : Thread) : Thread := if t.core = d.core then t.land else t
  { s with th := land s.th, slots := s.slots.map land }

/-- The data comparator that an access matches (R336): its number and act. -/
def dataMatch (d : Dbg) (acc : List Nat) (write : Bool) : Option (Nat × Nat × Nat) :=
  (List.range 2).findSome? fun i =>
    let v := d.da[Fin.ofNat 2 i].toNat
    if bits v 0 2 = 0 || (bits v 2 1 = 1 && !write) then none
    else (acc.find? fun a => a / 8 = v / 8).map fun a => (i, bits v 0 2, a)

/-- The data comparators, before an instruction's accesses are performed (R336, R338). -/
def watched (s : State) (acc : List Nat) (write : Bool) (k : State) : State :=
  match s.host.dbg.find? fun d => d.core = s.th.core with
  | none => k
  | some d =>
    match dataMatch d acc write with
    | none => k
    | some (i, act, a) =>
      if act = 2 then trap s .watch a (i + if write then 0x100 else 0)
      else if act = 1 && !(d.passed && d.why = 3 && d.slot = s.th.slot) then haltAt s d 3 i
      else k

/-- An access of the current slot that needs a right: alignment, address, window, page, right, L2, poison, and then `k` with the
storage key and the class (R170, R183, R351). `home` says in which classes it is made at its home, whatever the core's L1
holds. -/
def access (s : State) (n : Need) (a size : Nat) (k : Nat → Cls → State) (home : Cls → Bool := fun _ => false) : State :=
  if a % size ≠ 0 then trap s .misalign a 0
  else
    match resolve s s.th.core s.tenant n a size with
    | .trap c v => trap s c a v
    | .wait w => stallOn s w
    | .ok key cls =>
      if home cls && needsHome s a key cls then stallOn s (.walk a none)
      else if n = .rd && (if home cls then badHome s a key size else badRead s a key size cls) then
        trap s .poison a (poisonUnit key)
      else watched s ((List.range ((size + 7) / 8)).map fun i => a + 8 * i) (n = .wr) (k key cls)

/-- An access that reads and writes: both rights, and poison (R80, R186). -/
def accessRW (s : State) (a size : Nat) (k : Nat → Cls → State) : State :=
  access s .wr a size fun key cls => access s .rd a size (fun _ _ => k key cls) fun _ => true

/-! ### Fences and synchronisation -/

/-- A release at a scope by the current slot (R97). -/
def fenceRel (s : State) (sc : Scope) : State := releaseCore s s.th.core sc

/-- An acquire at a scope by the current slot (R94, R97). -/
def fenceAcq (s : State) (sc : Scope) : State := acquireCore s s.th.core sc

/-- Which kind of object an instruction takes. -/
inductive HKind where
  | bar | cnt | mtx | rime
  deriving DecidableEq, Repr

def Kind.is : Kind → HKind → Bool
  | .bar _, .bar | .cnt _ _, .cnt | .mtx _, .mtx | .rime _, .rime => true
  | _, _ => false

/-- Whether an address lies in a synchronisation window (R58). -/
def inSync (h : Nat) : Bool :=
  match region h with
  | .sync _ _ => true
  | _ => false

/-- The trap that a handle check ends in, or none (R57, R58, R170, R235). -/
def handleCheck (s : State) (h : Nat) (k : HKind) : Option Cause :=
  if h % (if k = .rime then 256 else 64) ≠ 0 then some .misalign
  else if 2 ^ 57 ≤ h || region h = .reserved then some .prot
  else if !inSync h then some .syncwin
  else
    match s.obj h with
    | none => some .syncwin
    | some o => if !o.kind.is k then some .syncwin else if o.tenant ≠ s.tenant then some .prot else none

/-- The checks of an instruction on an object, then its effect (R235). -/
def onHandle (s : State) (h : Nat) (k : HKind) (eff : State) : State :=
  match handleCheck s h k with
  | some c => trap s c h 0
  | none => eff

/-- The incarnation of an object slot, before it has one 0 (R250). -/
def incOf (s : State) (h : Nat) : Nat := (look s.sync.incs h).getD 0

/-- A failure record of the current slot that a test covers traps ENGINE and is cleared (R236, R355). -/
def coveredFailure (t : Thread) (p : Fail → Bool) : Option Fail := t.fails.find? p

/-- The `xval` of an ENGINE trap (R355). -/
def Fail.xval (f : Fail) : Nat := f.corr % 2 ^ 32 + f.status * 2 ^ 32 + f.folded * 2 ^ 40

/-- Takes the ENGINE trap of a failure record. -/
def trapEngine (s : State) (f : Fail) : State :=
  trap { s with th := { s.th with fails := s.th.fails.erase f } } .engine f.addr f.xval

/-- Adds a failure record, in the order of issue: at most eight, later failures folded into the newest (R355). -/
def addFail (l : List Fail) (f : Fail) : List Fail :=
  if l.length < 8 then (l.filter fun x => x.since ≤ f.since) ++ f :: l.filter fun x => f.since < x.since
  else
    match l.reverse with
    | [] => [f]
    | x :: r => ({ x with folded := min (x.folded + 1) 255 } :: r).reverse

/-- Records a failure against the thread of an identity, in its slot or saved (R236, R357). -/
def recordFail (s : State) (tid : Nat) (f : Fail) : State :=
  let up (t : Thread) : Thread := if t.tid = tid then { t with fails := addFail t.fails f } else t
  let s := s.onTid tid up
  { s with lp := { s.lp with launches := s.lp.launches.map fun l => { l with saved := l.saved.map fun e => (e.1, up e.2) } } }

/-- Updates the thread of an identity, in its slot or saved. -/
def onThread (s : State) (tid : Nat) (f : Thread → Thread) : State :=
  let up (t : Thread) : Thread := if t.tid = tid then f t else t
  let s := s.onTid tid up
  { s with lp := { s.lp with launches := s.lp.launches.map fun l => { l with saved := l.saved.map fun e => (e.1, up e.2) } } }

end Sys2Proof.Machine
end

