-- ==== Sys2Proof/Machine/Fetch.lean ====
section
/-! DEFINITION. Instruction fetch (R179, R182). -/

namespace Sys2Proof.Machine

set_option linter.unusedVariables false

/-- The end of a fetch. -/
inductive Fetch where
  | word (w : Lane)
  | trap (c : Cause) (xaddr xval : Nat)
  | wait (w : Wait)
  deriving DecidableEq, Repr

/-- The fetch of the word at an address (R179): translated memory with execute right, else PROT at the target. -/
def fetchAt (s : State) (a : Word) : Fetch :=
  let n := a.toNat
  if n % 4 ≠ 0 then .trap .misalign n 0
  else if region n ≠ .virt then .trap .prot n 0
  else
    match resolve s s.th.core s.tenant .ex n with
    | .trap c v => .trap c n v
    | .wait w => .wait w
    | .ok key _ =>
      match s.copyI s.th.core n with
      | some c => if c.bad then .trap .poison n 2 else .word (BitVec.ofNat 32 (c.data.read (n % 128) 4))
      | none => if poisoned s key 4 then .trap .poison n 2 else .word (BitVec.ofNat 32 (s.mem.bytes.read key 4))

/-- A fetched word's sector enters the core's L1I, or is used there (R67); a miss is performance event 0x05 (R205). -/
def fillI (s : State) (a : Word) : State :=
  let n := a.toNat
  match s.copyI s.th.core n with
  | some c => s.onMem fun m => { m with l1i := geoI.place m.l1i c false }
  | none =>
    match resolve s s.th.core s.tenant .ex n with
    | .ok key _ =>
      let k := key - n % 128
      let c : CopyI := ⟨s.th.core, n / 128, sectorData s.mem.bytes k, s.mem.poison.contains k⟩
      ((s.touch2 n .hd).onMem fun m => { m with l1i := geoI.place m.l1i c true }).count 0x05
    | _ => s

/-- Whether the current word comes from the slot's pin (R182). -/
def pinned (s : State) : Bool := s.th.pin.any fun p => (p.index s.th.pc).isSome

/-- The fetch of the current slot's next word: a pinned word returns its snapshot (R182). -/
def fetch (s : State) : Fetch :=
  match s.th.pin with
  | some p =>
    match p.index s.th.pc with
    | some i => .word (p.words.getD i 0)
    | none => fetchAt s s.th.pc
  | none => fetchAt s s.th.pc

/-- The snapshot of `n` words from an address (R182). -/
def fetchMany (s : State) (a : Word) : Nat → List Lane → Except Fetch (List Lane)
  | 0, acc => .ok acc.reverse
  | n + 1, acc =>
    match fetchAt s a with
    | .word w => fetchMany s (a + 4) n (w :: acc)
    | f => .error f

end Sys2Proof.Machine
end

