-- ==== Sys2Proof/Machine/Trans.lean ====
section
/-! DEFINITION. The vector functions of R225: the exact mathematical value rounded once. A value that is irrational is
enclosed between two multiples of 2^-P that round to the same result; P grows until they do. -/

namespace Sys2Proof

open Sys2Proof.Machine

/-- The functions of major 0x28 (R155). -/
inductive Fn where
  | sqrt | rcp | rsqrt | exp2 | log2 | exp | log | tanh | sigm | sin | cos
  deriving DecidableEq, Repr

/-- Σ over odd k of ±1 / (k nᵏ) times 2^p, by floors: a state of power, odd number, sum and sign. -/
def arcSum (n2 : Nat) (alt : Bool) : Nat → Nat → Nat → Int → Bool → Int
  | 0, _, _, acc, _ => acc
  | fuel + 1, pw, k, acc, neg =>
    let t : Int := pw / k
    arcSum n2 alt fuel (pw / n2) (k + 2) (if neg then acc - t else acc + t) (if alt then !neg else false)

/-- ln 2 times 2^p, within p + 40 of its floor and its ceiling. -/
def ln2At (p : Nat) : Nat × Nat :=
  let a := (2 * arcSum 9 false (p / 3 + 10) (2 ^ p / 3) 1 0 false).toNat
  (a, a + 2 * p + 40)

/-- π times 2^p with an error bound (Machin's formula). -/
def piAt (p : Nat) : Nat × Nat :=
  let n := p / 4 + 10
  let a := 16 * arcSum 25 true n (2 ^ p / 5) 1 0 false - 4 * arcSum (239 * 239) true n (2 ^ p / 239) 1 0 false
  ((a - 40 * n).toNat, (a + 40 * n).toNat)

/-- Σ rᵏ / k! times 2^p; `up` adds one to every term and bounds the rest of the series. -/
def expSum (p : Nat) (up : Nat) (r : Nat) : Nat → Nat → Nat → Nat → Nat
  | 0, _, t, acc => if up = 0 then acc else acc + 2 * t + 2
  | fuel + 1, k, t, acc =>
    let t' := t * r / (2 ^ p * k) + up
    expSum p up r fuel (k + 1) t' (acc + t')

/-- e^r for 0 ≤ r < 1 between two multiples of 2^-p. -/
def expIv (p rlo rhi : Nat) : Nat × Nat :=
  let n := p / 4 + 20
  (expSum p 0 rlo n 1 (2 ^ p) (2 ^ p), expSum p 1 rhi n 1 (2 ^ p) (2 ^ p))

/-- A magnitude m × 2^e as a multiple of 2^-p, by floor, and whether anything is left. -/
def fixed (p m : Nat) (e : Int) : Nat × Bool :=
  if 0 ≤ e + p then (m * 2 ^ (e + p).toNat, false)
  else let s := (-(e + p)).toNat; (m / 2 ^ s, m % 2 ^ s ≠ 0)

/-- e^x for x = ±m × 2^e: bounds of a mantissa and its exponent. -/
def expOf (p : Nat) (neg : Bool) (m : Nat) (e : Int) : Nat × Nat × Int :=
  let (xl, st) := fixed p m e
  let xh := xl + st.toNat
  let (ll, lh) := ln2At p
  if neg then
    let k := xh / ll + 1
    let (a, b) := expIv p (k * ll - xh) (k * lh - xl)
    (a, b, -(k : Int) - p)
  else
    let k := xl / lh
    let (a, b) := expIv p (xl - k * lh) (xh - k * ll)
    (a, b, (k : Int) - p)

/-- 2 atanh of z = a/b ≤ 1/3 times 2^p: the odd powers' sum by floors. -/
def atanhSum (p z2 : Nat) : Nat → Nat → Nat → Nat → Nat
  | 0, _, _, acc => acc
  | fuel + 1, t, k, acc => atanhSum p z2 fuel (t * z2 / 2 ^ p) (k + 2) (acc + t / k)

/-- ln x for x = m × 2^e > 0: signed bounds in multiples of 2^-p. -/
def lnOf (p m : Nat) (e : Int) : Int × Int :=
  let l := Nat.log2 m
  let ex : Int := l + e
  let (ll, lh) := ln2At p
  let z := (m - 2 ^ l) * 2 ^ p / (m + 2 ^ l)
  let n := p / 3 + 10
  let s := 2 * atanhSum p (z * z / 2 ^ p) n z 1 0
  let lo : Int := s
  let hi : Int := s + 8 * n + 16
  if 0 ≤ ex then (ex * ll + lo, ex * lh + hi) else (ex * lh + lo, ex * ll + hi)

/-- Σ ± r^k / k! over every second k, by floors (sine from k = 1, cosine from k = 0). -/
def trigSum (p r2 : Nat) : Nat → Nat → Nat → Int → Bool → Int
  | 0, _, _, acc, _ => acc
  | fuel + 1, t, k, acc, neg =>
    trigSum p r2 fuel (t * r2 / (2 ^ p * ((k + 1) * (k + 2)))) (k + 2) (if neg then acc - t else acc + t) (!neg)

/-- sin or cos of x = m × 2^e ≥ 0: signed bounds in multiples of 2^-p. -/
def trigOf (p : Nat) (cos : Bool) (m : Nat) (e : Int) : Int × Int :=
  let l := ((Nat.log2 m : Int) + e).toNat
  let q := p + l + 8
  let (pl, ph) := piAt q
  let (xl, st) := fixed q m e
  let k := 2 * xl / ph
  let rl := (2 * xl - k * ph) / 2 / 2 ^ (l + 8)
  let rh := (2 * xl + 2 * st.toNat - k * pl) / 2 / 2 ^ (l + 8) + 1
  let r2 := rl * rl / 2 ^ p
  let n := p / 4 + 20
  let quad := k % 4
  let useCos := (quad % 2 = 1) != cos
  let s := if useCos then trigSum p r2 n (2 ^ p) 0 0 false else trigSum p r2 n rl 1 0 false
  let err : Int := 8 * n + 16 + (rh - rl)
  let neg := if cos then quad = 1 || quad = 2 else 2 ≤ quad
  if neg then (-s - err, -s + err) else (s - err, s + err)

/-- A result just below 1 or just above it, for arguments so small or so large that the rest cannot matter. -/
def justBelow (neg : Bool) (m : Nat) (e : Int) : Ex := .fin neg (m * 2 ^ 200 - 1) (e - 200) true
def justAbove (neg : Bool) (m : Nat) (e : Int) : Ex := .fin neg (m * 2 ^ 200) (e - 200) true

/-- Bounds of 1 / (1 + y) × c for y between a and b times 2^e, in a mantissa and exponent. -/
def recip1 (p c a b : Nat) (e : Int) : Nat × Nat × Int :=
  let k := (max 0 (-e)).toNat
  let s := (max 0 e).toNat
  let dl := a * 2 ^ s + 2 ^ k
  let dh := b * 2 ^ s + 2 ^ k
  let w := 2 * p + Nat.log2 dh
  (c * 2 ^ w / dh, c * 2 ^ w / dl + 1, (k : Int) - w)

/-- Bounds of an irrational result's magnitude: sign, mantissas and exponent; none when 0 lies between them. -/
def enclose (fn : Fn) (p : Nat) (neg : Bool) (m : Nat) (e : Int) : Option (Bool × Nat × Nat × Int) :=
  let ofInt (lo hi : Int) : Option (Bool × Nat × Nat × Int) :=
    if 0 < lo then some (false, lo.toNat, hi.toNat, -(p : Int))
    else if hi < 0 then some (true, (-hi).toNat, (-lo).toNat, -(p : Int))
    else none
  match fn with
  | .exp => let (a, b, g) := expOf p neg m e; some (false, a, b, g)
  | .exp2 =>
    let (x, st) := fixed p m e
    let x := if neg then -(x : Int) - (if st then 1 else 0) else x
    let n := x / (2 ^ p : Nat)
    let f := (x % (2 ^ p : Nat)).toNat
    let (ll, lh) := ln2At p
    let (a, b) := expIv p (f * ll / 2 ^ p) ((f + st.toNat) * lh / 2 ^ p + 1)
    some (false, a, b, n - p)
  | .log => let (a, b) := lnOf p m e; ofInt a b
  | .log2 =>
    let (a, b) := lnOf p m e
    let (ll, lh) := ln2At p
    let d (x : Int) (l : Nat) : Int := x * (2 ^ p : Nat) / l
    ofInt (min (d a ll) (d a lh) - 1) (max (d b ll) (d b lh) + 1)
  | .sigm =>
    let (a, b, g) := expOf p (!neg) m e
    let (lo, hi, k) := recip1 p 1 a b g
    some (false, lo, hi, k)
  | .tanh =>
    let (a, b, g) := expOf p false (2 * m) e
    let (lo, hi, k) := recip1 p 2 a b g
    let one := 2 ^ (-k).toNat
    if hi < one then some (neg, one - hi, one - lo, k) else none
  | .sin => let (a, b) := trigOf p false m e; (ofInt a b).map fun (n, x) => (n != neg, x)
  | .cos => let (a, b) := trigOf p true m e; ofInt a b
  | .sqrt | .rcp | .rsqrt => none

/-- Rounds an enclosed result, with more and more bits until both bounds round alike. -/
def settle (fn : Fn) (f : Fmt) (md : Mode) (neg : Bool) (m : Nat) (e : Int) : Nat → Nat → Rnd
  | 0, _ => ⟨f.canon, 0⟩
  | fuel + 1, p =>
    match enclose fn p neg m e with
    | some (n, lo, hi, g) =>
      let a := round f md false (.fin n lo g true)
      if a = round f md false (.fin n (hi - 1) g true) then a
      else if fuel = 0 then a
      else settle fn f md neg m e fuel (2 * p)
    | none => settle fn f md neg m e fuel (2 * p)

/-- 1/√x for x > 0 (R225). -/
def rsqrtE (m : Nat) (e : Int) : Ex :=
  let odd := e % 2 = 1
  let m' := if odd then 2 * m else m
  let h := (if odd then e - 1 else e) / 2
  let s := 300 + Nat.log2 m'
  let r := isqrt (2 ^ (2 * s) / m')
  .fin false r (-h - s) (r * r * m' ≠ 2 ^ (2 * s))

/-- One element of a vector function (R225). -/
def fnRound (fn : Fn) (f : Fmt) (md : Mode) (x : Val) : Rnd :=
  let rnd := round f md false
  match fn, x with
  | _, .nan s => rnd (.nan s)
  | .sqrt, v => rnd (sqrtE v)
  | .rcp, v => rnd (divE (.fin false 1 0) v)
  | .rsqrt, .inf n => rnd (if n then .nan true else .fin false 0 0 false)
  | .rsqrt, .fin n m e =>
    rnd (if m = 0 then .inf n true else if n then .nan true else rsqrtE m e)
  | .exp, .inf n => rnd (if n then .fin false 0 0 false else .inf false false)
  | .exp2, .inf n => rnd (if n then .fin false 0 0 false else .inf false false)
  | .log, .inf n => rnd (if n then .nan true else .inf false false)
  | .log2, .inf n => rnd (if n then .nan true else .inf false false)
  | .tanh, .inf n => rnd (.fin n 1 0 false)
  | .sigm, .inf n => rnd (if n then .fin false 0 0 false else .fin false 1 0 false)
  | .sin, .inf _ => rnd (.nan true)
  | .cos, .inf _ => rnd (.nan true)
  | fn, .fin n m e =>
    let l := floorLog m e
    match fn with
    | .exp | .exp2 =>
      if m = 0 then rnd (.fin false 1 0 false)
      else if 13 ≤ l then rnd (.fin false (2 ^ 300) (if n then -6000 else 6000) true)
      else if l < -100 then rnd (if n then justBelow false 1 0 else justAbove false 1 0)
      else if fn = .exp2 && (0 ≤ e || m % 2 ^ (-e).toNat = 0) then
        let k := (fixed 0 m e).1
        rnd (.fin false 1 (if n then -(k : Int) else k) false)
      else settle fn f md n m e 4 300
    | .log | .log2 =>
      if m = 0 then rnd (.inf true true)
      else if n then rnd (.nan true)
      else if m = 2 ^ Nat.log2 m && (fn = .log2 || l = 0) then
        rnd (.fin (l < 0) l.natAbs 0 false)
      else settle fn f md n m e 4 300
    | .tanh =>
      if m = 0 then rnd (.fin n 0 0 false)
      else if l < -64 then rnd (justBelow n m e)
      else if 8 ≤ l then rnd (justBelow n 1 0)
      else settle fn f md n m e 4 300
    | .sigm =>
      if m = 0 then rnd (.fin false 1 (-1) false)
      else if l < -100 then rnd (if n then justBelow false 1 (-1) else justAbove false 1 (-1))
      else if 13 ≤ l then
        rnd (if n then .fin false (2 ^ 300) (-6000) true else justBelow false 1 0)
      else settle fn f md n m e 4 (if n then 300 else 1600)
    | .sin =>
      if m = 0 then rnd (.fin n 0 0 false)
      else if l < -64 then rnd (justBelow n m e)
      else settle fn f md n m e 4 300
    | .cos =>
      if m = 0 then rnd (.fin false 1 0 false)
      else if l < -50 then rnd (justBelow false 1 0)
      else settle fn f md n m e 4 300
    | _ => rnd (.nan true)

end Sys2Proof
end

