-- ==== Sys2Proof/Machine/Operands.lean ====
section
/-! DEFINITION. Operand forms: register operands of scalar instructions, and the elements, masks and lanes of vector
instructions (R102, R206, R207). -/

namespace Sys2Proof.Machine

set_option linter.unusedVariables false

/-- `sx32` (R171). -/
def sx32 (v : Word) : Word := (v.setWidth 32).signExtend 64

/-- A value of `n` bits sign-extended to 64. -/
def sxN (v n : Nat) : Word := BitVec.ofInt 64 (signed v n)

/-- A source register of an instruction, for the STALL check (R141): a vector register as 32 + its number. -/
def xr (a : Reg) : Nat := a.val
def vr (a : Reg) : Nat := 32 + a.val

/-- An interlocked scalar form with two register sources. -/
def opXX (s : State) (d a b : Reg) (f : Word → Word → Word) : State :=
  attempt s false [xr a, xr b] false (retX s d (f (s.opX 0 a) (s.opX 1 b)))

/-- An interlocked scalar form with one register source. -/
def opX1 (s : State) (d a : Reg) (f : Word → Word) : State :=
  attempt s false [xr a] false (retX s d (f (s.opX 0 a)))

/-- A fixed-latency scalar form with two register sources (R139). -/
def opXXFix (s : State) (l : Nat) (d a b : Reg) (f : Word → Word → Word) : State :=
  attempt s false [xr a, xr b] false (retXFix s l d (f (s.opX 0 a) (s.opX 1 b)))

/-! ### Elements of vectors -/

/-- VL (R206): a thread holds at most 2 granules (R210). -/
def Thread.vl (t : Thread) : Nat := 32 * min t.gran 2

/-- The number of elements of width `w` (R206). -/
def Thread.n (t : Thread) (w : Nat) : Nat := t.vl * 32 / w

/-- Element `i` of width `w` (R102, R206). -/
def elem (v : BitVec 2048) (w i : Nat) : Nat := bits v.toNat (i * w) w

/-- A vector made of elements of width `w`, element 0 first. -/
def packNat (w : Nat) : List Nat → Nat
  | [] => 0
  | x :: t => x % 2 ^ w + 2 ^ w * packNat w t

/-- A vector register's value from its elements. -/
def pack (w : Nat) (l : List Nat) : BitVec 2048 := BitVec.ofNat 2048 (packNat w l)

/-- The elements of a vector. -/
def elems (v : BitVec 2048) (w n : Nat) : List Nat := (List.range n).map fun i => elem v w i

/-- The governing lane of element `i` of width `w` (R207). -/
def lane (w i : Nat) : Nat := i * w / 32

/-- The register of a mask field: x25 to x31 (R138). -/
def maskReg (m : Mask) : Reg := Fin.ofNat 32 (24 + m.val)

/-- The mask of an instruction: every lane when the field is 0 (R207). -/
def State.maskOf (s : State) (m : Mask) : Nat :=
  if m = 0 then 2 ^ 64 - 1 else (s.opX 7 (maskReg m)).toNat

/-- The mask register as a source. -/
def maskSrc (m : Mask) : List Nat := if m = 0 then [] else [xr (maskReg m)]

/-- Whether the element with a governing lane is active (R207). -/
def active (mask g : Nat) : Bool := bits mask g 1 = 1

/-- The elements of a destination: the active ones take their new value, the others keep their old one (R207), and
everything above the first `n` is `rest` of the old register. -/
def blend (w n mask : Nat) (old : BitVec 2048) (f : Nat → Nat) : List Nat :=
  (List.range n).map fun i => if active mask (lane w i) then f i else elem old w i

/-- A compare's mask (R222): a bit for every lane with an active element for which the condition holds. -/
def cmpMask (w n mask vl : Nat) (c : Nat → Bool) : Nat :=
  packNat 1 ((List.range vl).map fun L =>
    if w = 64 then (active mask (L / 2 * 2) && c (L / 2)).toNat
    else ((List.range (32 / w)).any fun j => active mask L && c (L * (32 / w) + j)).toNat)

end Sys2Proof.Machine

namespace Sys2Proof

/-- The width of an element-width field (R152). -/
def EW.bits : EW → Nat
  | .w8 => 8 | .w16 => 16 | .w32 => 32 | .w64 => 64

/-- The width and signedness of a vector integer type (R153). -/
def IT.bits : IT → Nat
  | .i8 | .n8 => 8 | .i16 | .n16 => 16 | .i32 | .n32 => 32 | .i64 | .n64 => 64
def IT.signed : IT → Bool
  | .i8 | .i16 | .i32 | .i64 => true
  | _ => false

/-- An element as an integer of a type. -/
def IT.int (t : IT) (v : Nat) : Int := if t.signed then Machine.signed v t.bits else ((v % 2 ^ t.bits : Nat) : Int)

/-- The range of a type. -/
def IT.lo (t : IT) : Int := if t.signed then -(2 ^ (t.bits - 1) : Nat) else 0
def IT.hi (t : IT) : Int := if t.signed then (2 ^ (t.bits - 1) : Nat) - 1 else (2 ^ t.bits : Nat) - 1

end Sys2Proof
end

