-- ==== Sys2Proof/Machine/Control.lean ====
section
/-! DEFINITION. Control transfer, repetition and pinning (R177 to R182). -/

namespace Sys2Proof.Machine

set_option linter.unusedVariables false

/-- A word offset as a byte distance (R177, R178). -/
def wordOff {n : Nat} (o : BitVec n) : Word := (o.signExtend 64) <<< 2

/-- `j` (R177). -/
def execJ (o : BitVec 24) (s : State) : Host.Outcome State Fault Refusal :=
  done (attempt s (inRep s) [] false (jumpTo s (s.th.pc + wordOff o)))

/-- `jal` (R177): links in x1. -/
def execJal (o : BitVec 24) (s : State) : Host.Outcome State Fault Refusal :=
  done (attempt s (inRep s) [] false (jumpTo (s.wrX 1 (s.th.pc + 4)) (s.th.pc + wordOff o)))

/-- `jalr` (R177): the target is computed from the old xa. -/
def execJalr (d a : Reg) (i : BitVec 14) (s : State) : Host.Outcome State Fault Refusal :=
  let t := s.opX 0 a + i.signExtend 64
  done (attempt s (inRep s) [xr a] false
    (if t.toNat % 4 ≠ 0 then trap s .misalign t.toNat 0 else jumpTo (s.wrX d (s.th.pc + 4)) t))

/-- A branch (R178): to PC + 4 × offset when its condition holds. -/
def branch (s : State) {n : Nat} (o : BitVec n) (c : Bool) : State :=
  if c then jumpTo s (s.th.pc + wordOff o) else retire s

/-- `beq` (R178). -/
def execBeq (a b : Reg) (o : BitVec 14) (s : State) : Host.Outcome State Fault Refusal :=
  done (attempt s (inRep s) [xr a, xr b] false (branch s o (s.opX 0 a == s.opX 1 b)))

/-- `bne` (R178). -/
def execBne (a b : Reg) (o : BitVec 14) (s : State) : Host.Outcome State Fault Refusal :=
  done (attempt s (inRep s) [xr a, xr b] false (branch s o (s.opX 0 a != s.opX 1 b)))

/-- `blt` (R178). -/
def execBlt (a b : Reg) (o : BitVec 14) (s : State) : Host.Outcome State Fault Refusal :=
  done (attempt s (inRep s) [xr a, xr b] false (branch s o ((s.opX 0 a).slt (s.opX 1 b))))

/-- `bge` (R178). -/
def execBge (a b : Reg) (o : BitVec 14) (s : State) : Host.Outcome State Fault Refusal :=
  done (attempt s (inRep s) [xr a, xr b] false (branch s o (!(s.opX 0 a).slt (s.opX 1 b))))

/-- `bltu` (R178). -/
def execBltu (a b : Reg) (o : BitVec 14) (s : State) : Host.Outcome State Fault Refusal :=
  done (attempt s (inRep s) [xr a, xr b] false (branch s o ((s.opX 0 a).ult (s.opX 1 b))))

/-- `bgeu` (R178). -/
def execBgeu (a b : Reg) (o : BitVec 14) (s : State) : Host.Outcome State Fault Refusal :=
  done (attempt s (inRep s) [xr a, xr b] false (branch s o (!(s.opX 0 a).ult (s.opX 1 b))))

/-- `bbs` (R178). -/
def execBbs (a : Reg) (n : BitVec 6) (o : BitVec 12) (s : State) : Host.Outcome State Fault Refusal :=
  done (attempt s (inRep s) [xr a] false (branch s o ((s.opX 0 a).getLsbD n.toNat)))

/-- `bbc` (R178). -/
def execBbc (a : Reg) (n : BitVec 6) (o : BitVec 12) (s : State) : Host.Outcome State Fault Refusal :=
  done (attempt s (inRep s) [xr a] false (branch s o (!(s.opX 0 a).getLsbD n.toNat)))

/-- Starting a repetition of the next `n` words (R180): a count of 0 skips them. -/
def startRep (s : State) (c : Word) (n : Nat) : State :=
  let next := s.th.pc + 4
  if c = 0 then { s with th := { s.th.issued with pc := next + BitVec.ofNat 64 (4 * n) } }
  else { s with th := { s.th.issued with pc := next, rep := some ⟨next, n, c, 0⟩ } }

/-- `rep` (R180). -/
def execRep (a : Reg) (n : BitVec 12) (s : State) : Host.Outcome State Fault Refusal :=
  done (attempt s (inRep s) [xr a] false (startRep s (s.opX 0 a) n.toNat))

/-- The sectors of `n` fetched words enter the L1I. -/
def fillMany (s : State) (a : Word) (n : Nat) : State :=
  iterate n (fun i s =>
    let x := a + BitVec.ofNat 64 (4 * i)
    if i = 0 || x.toNat % 128 = 0 then fillI s x else s) s

/-- Pins the next `n` words (R182): a word that cannot be fetched traps here as at its own fetch. -/
def startPin (s : State) (n : Nat) : State :=
  match fetchMany s (s.th.pc + 4) n [] with
  | .ok ws =>
    let s := fillMany s (s.th.pc + 4) n
    retire { s with th := { s.th with pin := some ⟨s.th.pc + 4, ws, List.replicate n 0⟩ } }
  | .error (.trap c a v) => trap s c a v
  | .error (.wait w) => stallOn s w
  | .error (.word _) => s

/-- `lpin` (R182). -/
def execLpin (n : BitVec 12) (s : State) : Host.Outcome State Fault Refusal :=
  done (attempt s (inRep s) [] false (startPin s n.toNat))

/-- `lunpin` (R182). -/
def execLunpin (s : State) : Host.Outcome State Fault Refusal :=
  done (attempt s (inRep s) [] false (retire { s with th := { s.th with pin := none } }))

/-- `pause` (R42, R194): a later `pause` restarts the count. -/
def execPause (n : BitVec 14) (s : State) : Host.Outcome State Fault Refusal :=
  let s := retire s
  done { s with th := { s.th with pause := n.toNat } }

/-- `sys` (R198). -/
def execSys (n : BitVec 14) (s : State) : Host.Outcome State Fault Refusal := done (trap s .sys 0 n.toNat)

/-- `brk` (R198). -/
def execBrk (s : State) : Host.Outcome State Fault Refusal := done (trap s .brk 0 0)

end Sys2Proof.Machine
end

