-- ==== Sys2Proof/Machine/Threads.lean ====
section
/-! DEFINITION. Thread control: records (R44 to R47, R195, R196), event lines (R197, R254). -/

namespace Sys2Proof.Machine

set_option linter.unusedVariables false

/-- A continuation record of a thread (R44, R45). -/
def recordOf (s : State) (t : Thread) (tid : Nat) (pc : Word) (reason gborn : Nat) : Rec where
  tid := tid
  pc := pc
  lid := t.lid
  prio := match s.launch t.lid with
    | some l => l.prio
    | none => 0
  tenant := s.tenantOf t.core
  reason := reason
  key := t.key
  draw := t.draw
  x10 := t.getX 10
  x11 := t.getX 11
  x12 := t.getX 12
  x13 := t.getX 13
  x14 := t.getX 14
  gborn := gborn
  core := t.core
  since := s.host.cycle

/-- Whether a floe's pool, or the die pool behind it, has room (R48). -/
def poolRoom (s : State) (f : Nat) : Bool :=
  (s.floe f).pool.length < 256 || (s.die (f / 64)).pool.length < dieCap (s.die (f / 64))

/-- `spawn` (R45, R47, R195). -/
def spawnTo (s : State) (d : Reg) (target : Word) : State :=
  if target.toNat % 4 ≠ 0 then trap s .misalign target.toNat 0
  else
    let born := match s.launch s.th.lid with
      | some l => l.gphase + 1
      | none => 0
    let r := recordOf s s.th s.lp.nextTid target 0 born
    match enqueue s (floeOfCore s.th.core) r s.th.pts with
    | some s' =>
      let s' := { s' with lp := { s'.lp with nextTid := s'.lp.nextTid + 1 } }
      retX { s' with th := { s'.th with draw := s'.th.draw + BitVec.ofNat 48 (2 ^ 24) } } d 0
    | none => retX s d 7

/-- `spawn` reads its target and x10 to x14 (R45, R141). -/
def execSpawn (d a : Reg) (s : State) : Host.Outcome State Fault Refusal :=
  done (attempt s false [xr a, 10, 11, 12, 13, 14] false (spawnTo s d (s.opX 0 a)))

/-- The slot of the current thread frees once its pushed vectors have reached memory, and its record goes where `k` puts
it (R73, R196); the event is traced (R339). -/
def leave (s : State) (reason : Nat) (k : State → Rec → Nat → State) : State :=
  let pc := s.th.pc + 4
  match portsEnd { s with th := s.th.land } s.th.land with
  | none => poll s
  | some (s, t) =>
    let r := recordOf s t t.tid pc reason t.gborn
    let s := traceFor s t.core t.slot 3 t.corr.toNat t.pc.toNat 0
    k (s.freeSlot t) r t.pts

/-- `yield` (R45, R196, R349): with every pool full it does nothing. -/
def execYield (s : State) : Host.Outcome State Fault Refusal :=
  done (attempt s (inRep s || s.th.inh) [] false
    (if poolRoom s (floeOfCore s.th.core) then
      leave s 1 fun s' r pts => (enqueue s' (floeOfCore s.th.core) r pts).getD s'
    else retire { s with th := s.th.land }))

/-- `exit` (R196). -/
def execExit (s : State) : Host.Outcome State Fault Refusal :=
  done (attempt s (inRep s) [] false
    (match endCurrent { s with th := s.th.land } with
     | some s' => s'
     | none => poll s))

/-- The kinds of line in an event-unit window (R62). -/
inductive LineKind where
  | bar | event | mtx
  deriving DecidableEq, Repr

/-- The floe and kind of a line address; none for a reserved offset or another address. -/
def lineAt (h : Nat) : Option (Nat × LineKind) :=
  match region h with
  | .event f o =>
    if o % 0x40 ≠ 0 then none
    else if o < 0x200 then some (f, .bar)
    else if o < 0xA00 then some (f, .event)
    else if o < 0xC00 then some (f, .mtx)
    else none
  | _ => none

/-- Shared slots of a die's overflow area (R359): the area less the part kept for the pool's spill. -/
def sharedSlots (d : Die) : Nat := (d.ovf - d.spill) * 16384

/-- The slots that a die's objects take: four for a rime record (R121). -/
def Kind.slots : Kind → Nat
  | .rime _ => 4
  | _ => 1

/-- The die of a window address. -/
def dieOfHandle (h : Nat) : Nat := (h - 0x00F4000000000000) / 0x10000000

/-- Slots used by the objects of a die, in SRAM or in all. -/
def slotsUsed (s : State) (d : Nat) (sramOnly : Bool) : Nat :=
  s.sync.objs.foldl (fun n e =>
    if inSync e.1 && dieOfHandle e.1 = d && (e.2.sram || !sramOnly) then n + e.2.kind.slots else n) 0

/-- Records parked in a die's store (R361). -/
def parkedCount (s : State) (d : Nat) : Nat := (s.sync.parked.filter fun p => p.die = d).length

/-- Whether a die's parking store has room: 8,192 records in SRAM, then the shared part of the overflow area (R361). -/
def parkRoom (s : State) (d : Nat) : Bool :=
  let n := parkedCount s d
  n < 8192 || n - 8192 + (slotsUsed s d false - 65536) < sharedSlots (s.die d)

/-- Parks the current thread on an object or line (R46, R361). -/
def parkOn (s : State) (h phase die : Nat) : State :=
  if !parkRoom s die then gate s .storage
  else
    leave s 0 fun s r pts =>
      let (q, s) := s.nextSeq
      { s with sync := { s.sync with parked := s.sync.parked ++ [⟨h, phase, q, die, r, pts⟩] } }

/-- Whether an address is one that no access may name: above the implemented bits, or reserved (R57, R58). -/
def noAddress (h : Nat) : Bool := 2 ^ 57 ≤ h || region h = .reserved

/-- `susp` (R46, R369): the phase is checked at parking. -/
def suspend (s : State) (h phase : Nat) : State :=
  match lineAt h with
  | some (f, .event) => if f = floeOfCore s.th.core then parkOn s h phase (f / 64) else trap s .prot h 0
  | some _ => trap s .syncwin h 0
  | none =>
    if noAddress h then trap s .prot h 0
    else if !inSync h then trap s .syncwin h 0
    else onHandle s h .bar
      (match s.bar h with
       | none => s
       | some b =>
         if poisonedObj s h then leave s 3 fun s r pts => enqueueAnyway s r (max pts b.pts)
         else if b.done phase then leave s 2 fun s r pts => enqueueAnyway s r (max pts b.pts)
         else if b.brk then leave s 3 fun s r pts => enqueueAnyway s r (max pts b.pts)
         else parkOn s h phase (dieOfHandle h))

/-- `susp` (R46, R181, R349). -/
def execSusp (a b : Reg) (s : State) : Host.Outcome State Fault Refusal :=
  done (attempt s (inRep s || s.th.inh) [xr a, xr b] false
    (suspend s (s.opX 0 a).toNat ((s.opX 1 b).toNat % 65536)))

/-- `ev.wait` (R197, R235): a barrier or event line of the issuing floe. -/
def waitLine (s : State) (h : Nat) : State :=
  if h % 64 ≠ 0 then trap s .misalign h 0
  else if noAddress h then trap s .prot h 0
  else
    match lineAt h with
    | some (f, .bar) | some (f, .event) =>
      if f = floeOfCore s.th.core then
        let (q, s) := s.nextSeq
        gate s (.line h q)
      else trap s .prot h 0
    | _ => trap s .syncwin h 0

def execEvWait (a : Reg) (s : State) : Host.Outcome State Fault Refusal :=
  done (attempt s false [xr a] false (waitLine s (s.opX 0 a).toNat))

/-- The cores of a floe that lie in a launch's rectangle (R254). -/
def lineMembers (l : Launch) (f : Nat) : List Nat :=
  ((List.range 8).map (coreOfFloe f)).filter fun c =>
    l.x0 ≤ c % 64 && c % 64 < l.x0 + 2 ^ l.wlog && l.y0 ≤ c / 64 && c / 64 < l.y0 + 2 ^ l.hlog

/-- An arrival at a barrier line (R254): a second one from a core, or one from another launch, waits. -/
def lineArrive (s : State) (h f : Nat) : State :=
  let x := s.floe f
  match x.rounds.find? fun r => r.line = h with
  | some r =>
    if r.lid ≠ s.th.lid || r.cores.contains s.th.core then poll s
    else
      let r' : Round := { r with cores := s.th.core :: r.cores, pts := max r.pts s.th.pts }
      finish s x r'
  | none => finish s x ⟨h, s.th.lid, [s.th.core], s.th.pts⟩
where
  /-- Records a round, or fires the line when every member has arrived. -/
  finish (s : State) (x : Floe) (r : Round) : State :=
    let rest := x.rounds.filter fun q => q.line ≠ r.line
    let all := match s.launch r.lid with
      | some l => (lineMembers l f).all fun c => r.cores.contains c
      | none => true
    if all then retire (lineFire (s.setFloe f { x with rounds := rest }) h r.pts)
    else retire (s.setFloe f { x with rounds := r :: rest })

/-- `ev.fire` (R37, R235, R237, R254). -/
def fireLine (s : State) (h : Nat) : State :=
  if h % 64 ≠ 0 then trap s .misalign h 0
  else if noAddress h then trap s .prot h 0
  else
    match lineAt h with
    | some (f, .event) =>
      if s.reaches s.tenant f then retire (lineFire (fenceRel s .pkg) h s.th.pts) else trap s .prot h 0
    | some (f, .bar) =>
      if s.reaches s.tenant f then lineArrive (fenceRel s .pkg) h f else trap s .prot h 0
    | _ => trap s .syncwin h 0

def execEvFire (a : Reg) (s : State) : Host.Outcome State Fault Refusal :=
  done (attempt s false [xr a] false (fireLine s (s.opX 0 a).toNat))

end Sys2Proof.Machine
end

