-- ==== Sys2Proof/Machine/Sync.lean ====
section
/-! DEFINITION. Barrier, mutex and counter instructions and the global barrier (R234, R235, R237, R249 to R257, R360, R362,
R369). -/

namespace Sys2Proof.Machine

set_option linter.unusedVariables false

/-- A status as a register value (R234). -/
def stOK : Word := 0
def stBUSY : Word := 1
def stBROKEN : Word := 2
def stSTALE : Word := 3
def stPARTIAL : Word := 4
def stABSENT : Word := 6
def stFULL : Word := 7
def stFAULT : Word := 8

/-- The completion handle of an operation in flight (R272, R281). -/
def FabOp.handle (o : FabOp) : Nat := bits o.block.toNat (if o.mc then 256 else 384) 64

/-- The incarnations that engine operations in flight have snapshotted of a slot (R362): copies, those of launches that are out
among them, collectives, descriptors and router runs. -/
def snapshots (s : State) (h : Nat) : List Nat :=
  ((s.floes.flatMap fun f => f.2.copies).filter fun c => c.regs[5].toNat = h).map (·.inc) ++
  ((s.lp.launches.flatMap fun l => l.savedCopies.map (·.2)).filter fun c => c.regs[5].toNat = h).map (·.inc) ++
  (s.fab.ops.filter fun o => o.handle = h).map (·.inc) ++
  (s.fab.runs.filter fun r => bits r.block.toNat 384 64 = h).map (·.inc)

/-- Whether an engine operation in flight has snapshotted an incarnation of a slot (R362). -/
def snapshotted (s : State) (h inc : Nat) : Bool := (snapshots s h).contains inc

/-- How many engine operations in flight there are. -/
def flights (s : State) : Nat :=
  s.floes.foldl (fun n f => n + f.2.copies.length) 0 + s.lp.launches.foldl (fun n l => n + l.savedCopies.length) 0 +
    s.fab.ops.length + s.fab.runs.length

/-- The window address of an object slot of a die. -/
def slotAddr (d i : Nat) : Nat := 0x00F4000000000000 + d * 0x10000000 + i * 64

/-- Whether a slot holds no object, no part of a rime record, and is not retired (R121, R369). -/
def slotFree (s : State) (h : Nat) : Bool :=
  (s.obj h).isNone && !s.sync.retired.contains h &&
    (match s.obj (h / 256 * 256) with
      | some ⟨_, _, _, .rime _⟩ => false
      | _ => true)

/-- A free slot of a die, one whose next incarnation nothing in flight has snapshotted where the object is a barrier (R362). Which
one is left open (R234: handles lie outside the determinism promise), so the search starts at a free value; it tries one slot
more than can be taken or affected. -/
def findSlot (s : State) (d : Nat) (bar : Bool) : Option Nat :=
  let cap := 65536 + sharedSlots (s.die d)
  let start := (Config.freeWord s.fresh).toNat
  let n := min cap (4 * s.sync.objs.length + s.sync.retired.length + flights s + 1)
  ((List.range n).map fun i => slotAddr d ((start + i) % cap)).find?
    fun h => slotFree s h && !(bar && snapshotted s h ((incOf s h + 1) % 4096))

/-- Whether a die has a free slot, in SRAM or in the shared part of the overflow area (R360). -/
def slotRoom (s : State) (d : Nat) : Bool :=
  slotsUsed s d false + (parkedCount s d - 8192) < 65536 + sharedSlots (s.die d)

/-- Advances a slot's incarnation (R250). -/
def nextInc (s : State) (h : Nat) : State :=
  { s with sync := { s.sync with incs := put s.sync.incs h ((incOf s h + 1) % 4096) } }

/-- Allocates one object on the issuing core's die (R249): its handle, or FULL. A barrier's allocation advances the slot's
incarnation (R250). -/
def allocate (s : State) (d : Reg) (bar : Bool) (k : Nat → Kind) : State :=
  let die := dieOfCore s.th.core
  if !slotRoom s die then retX s d stFULL
  else
    match findSlot s die bar with
    | none => retX s d stFULL
    | some h =>
      let s := if bar then nextInc s h else s
      retX (s.setObj h ⟨s.tenant, slotsUsed s die true < 65536, false, k (incOf s h)⟩) d (BitVec.ofNat 64 h)

/-- Whether an init word is good (R250). -/
def initOk (v : Word) : Bool := v.toNat < 2 ^ 17 && v.toNat % 65536 ≠ 0

/-- A barrier at its start from an init word and an incarnation (R250). -/
def Bar.start (v : Word) (inc : Nat) : Bar := ⟨inc, false, v.getLsbD 16, v.toNat % 65536, 0, 0, [], 0⟩

/-- `bar.alloc` (R249, R250). -/
def execBarAlloc (a d : Reg) (s : State) : Host.Outcome State Fault Refusal :=
  let v := s.opX 0 a
  done (attempt s false [xr a] false
    (if initOk v then allocate s d true fun inc => .bar (Bar.start v inc) else retX s d stFAULT))

/-- `cnt.alloc` (R249, R256). -/
def execCntAlloc (a d : Reg) (s : State) : Host.Outcome State Fault Refusal :=
  done (attempt s false [xr a] false (allocate s d false fun _ => .cnt (s.opX 0 a) s.th.pts))

/-- `mtx.alloc` (R249). -/
def execMtxAlloc (d : Reg) (s : State) : Host.Outcome State Fault Refusal :=
  done (allocate s d false fun _ => .mtx ⟨none, false, 0⟩)

/-- The object slots of a handle: four for a rime record (R121). -/
def slotsOf (s : State) (h : Nat) : List Nat :=
  match s.obj h with
  | some ⟨_, _, _, .rime _⟩ => (List.range 4).map fun i => h + 64 * i
  | _ => [h]

/-- Frees an object (R249); the slots of a poisoned one stay retired until a scrub finds them clean (R369). -/
def freeObj (s : State) (h : Nat) : State :=
  { s with sync := { s.sync with
      objs := drop s.sync.objs h
      retired := if poisonedObj s h then slotsOf s h ++ s.sync.retired else s.sync.retired } }

/-- A free form (R249). -/
def freeForm (s : State) (a d : Reg) (k : HKind) : State :=
  let h := (s.opX 0 a).toNat
  attempt s false [xr a] false (onHandle s h k
    (if hasWaiters s h || (k = .mtx && (s.mtx h).holder.isSome) then retX s d stBUSY
     else retX (freeObj s h) d stOK))

/-- `bar.free` (R249). -/
def execBarFree (a d : Reg) (s : State) : Host.Outcome State Fault Refusal := done (freeForm s a d .bar)

/-- `cnt.free` (R249). -/
def execCntFree (a d : Reg) (s : State) : Host.Outcome State Fault Refusal := done (freeForm s a d .cnt)

/-- `mtx.free` (R249). -/
def execMtxFree (a d : Reg) (s : State) : Host.Outcome State Fault Refusal := done (freeForm s a d .mtx)

/-! ### Barriers -/

/-- The current instruction completes as an acquire with a status (R237). -/
def retAcq (s : State) (d : Reg) (st : Word) : State := retX (fenceAcq s .pkg) d st

/-- A barrier form: its operand checks, its handle, then its effect on the barrier (R235); a poisoned one answers BROKEN after
the form's fences (R237, R369). -/
def onBar (s : State) (h : Nat) (d : Reg) (fences : State → State) (k : Bar → State) : State :=
  onHandle s h .bar
    (if poisonedObj s h then retX (fences s) d stBROKEN
     else
       match s.bar h with
       | some b => k b
       | none => s)

/-- The arrival of a thread (R251) after its release (R237). -/
def threadArrive (s : State) (h : Nat) (b : Bar) (t : Nat) : Nat × State :=
  let s := fenceRel s .pkg
  barArrive s h b.inc t (some s.th.tid) s.th.pts

/-- `bar.arr` (R252). -/
def execBarArr (a b d : Reg) (s : State) : Host.Outcome State Fault Refusal :=
  let h := (s.opX 0 a).toNat
  done (attempt s false [xr a, xr b] false (onBar s h d (fun s => fenceRel s .pkg) fun bar =>
    let r := threadArrive s h bar ((s.opX 1 b).toNat % 65536)
    retX r.2 d (BitVec.ofNat 64 r.1)))

/-- `bar.wait` on a phase (R252). -/
def barWaitOn (s : State) (h t : Nat) (d : Reg) (b : Bar) : State :=
  if b.brk then retAcq s d stBROKEN
  else if b.done t then retAcq (s.raise b.pts) d stOK
  else if b.future t then retAcq s d stSTALE
  else
    let (q, s) := s.nextSeq
    gate s (.bar h t d.val q)

/-- `bar.wait` (R252). -/
def execBarWait (a b d : Reg) (s : State) : Host.Outcome State Fault Refusal :=
  let h := (s.opX 0 a).toNat
  done (attempt s false [xr a, xr b] false (onBar s h d (fun s => fenceAcq s .pkg) fun bar =>
    barWaitOn s h ((s.opX 1 b).toNat % 65536) d bar))

/-- `bar.arrw` (R252): an arrival, then a wait on the same phase as one operation; the arrival that completes the phase
returns OK even when that completion breaks the object. -/
def execBarArrw (a b d : Reg) (s : State) : Host.Outcome State Fault Refusal :=
  let h := (s.opX 0 a).toNat
  let t := (s.opX 1 b).toNat % 65536
  done (attempt s false [xr a, xr b] false (onBar s h d (fun s => fenceAcq (fenceRel s .pkg) .pkg) fun bar =>
    let r := threadArrive s h bar t
    if r.1 ≠ 0 then retAcq r.2 d (BitVec.ofNat 64 r.1)
    else
      match r.2.bar h with
      | none => retAcq r.2 d stOK
      | some b' => if b'.done t then retAcq (r.2.raise b'.pts) d stOK else barWaitOn r.2 h t d b'))

/-- Re-initialises a barrier (R252). -/
def barRestart (s : State) (h : Nat) (v : Word) : State :=
  let s := nextInc s h
  s.setKind h (.bar (Bar.start v (incOf s h)))

/-- Whether an incarnation change is refused for an engine operation in flight (R362). -/
def incBusy (s : State) (h : Nat) (b : Bar) : Bool := snapshotted s h ((b.inc + 1) % 4096)

/-- `bar.init` (R252, R362). -/
def execBarInit (a b d : Reg) (s : State) : Host.Outcome State Fault Refusal :=
  let h := (s.opX 0 a).toNat
  let v := s.opX 1 b
  done (attempt s false [xr a, xr b] false (onBar s h d (fun s => fenceRel s .pkg) fun bar =>
    let s := fenceRel s .pkg
    if !initOk v then retX s d stFAULT
    else if hasWaiters s h || incBusy s h bar then retX s d stBUSY
    else retX (barRestart s h v) d stOK))

/-- `bar.init.f` (R252, R362): waiters and parked records are first released with BROKEN. -/
def execBarInitF (a b d : Reg) (s : State) : Host.Outcome State Fault Refusal :=
  let h := (s.opX 0 a).toNat
  let v := s.opX 1 b
  done (attempt s false [xr a, xr b] false (onBar s h d (fun s => fenceRel s .pkg) fun bar =>
    let s := fenceRel s .pkg
    if !initOk v then retX s d stFAULT
    else if incBusy s h bar then retX s d stBUSY
    else retX (barRestart (barRelease s h (fun _ => true) true bar.pts) h v) d stOK))

/-- `bar.kill` (R252, R362). -/
def execBarKill (a d : Reg) (s : State) : Host.Outcome State Fault Refusal :=
  let h := (s.opX 0 a).toNat
  done (attempt s false [xr a] false (onBar s h d (fun s => fenceRel s .pkg) fun bar =>
    let s := fenceRel s .pkg
    if incBusy s h bar then retX s d stBUSY
    else
      let s := nextInc (barRelease s h (fun _ => true) true bar.pts) h
      retX (s.setKind h (.bar { bar with inc := incOf s h, phase := (bar.phase + 1) % 65536, brk := true, arr := 0 })) d stOK))

/-- The state word of a barrier (R250). -/
def Bar.word (b : Bar) (wt : Bool) : Word :=
  BitVec.ofNat 64 (b.inc % 4096 * 2 ^ 52 + b.brk.toNat * 2 ^ 51 + b.drop.toNat * 2 ^ 50 + wt.toNat * 2 ^ 49 +
    b.exp % 65536 * 2 ^ 32 + b.arr % 65536 * 2 ^ 16 + b.phase % 65536)

/-- The POISON trap of an object (R347, R369): unit 1 in SRAM, 0 in the overflow area. -/
def poisonTrap (s : State) (h : Nat) : State :=
  let sram := match s.obj h with
    | some o => o.sram
    | none => true
  trap s .poison h (if sram then 1 else 0)

/-- `bar.rd` (R250, R369). -/
def execBarRd (a d : Reg) (s : State) : Host.Outcome State Fault Refusal :=
  let h := (s.opX 0 a).toNat
  done (attempt s false [xr a] false (onHandle s h .bar
    (if poisonedObj s h then poisonTrap s h
     else
       match s.bar h with
       | some b => retX s d (b.word (hasWaiters s h))
       | none => s)))

/-! ### Mutexes -/

/-- The checks of a mutex form: a mutex line within the tenant's reach, or an allocated mutex (R37, R235, R255). -/
def onMtx (s : State) (h : Nat) (k : State) : State :=
  match region h with
  | .event f _ =>
    if h % 64 ≠ 0 then trap s .misalign h 0
    else if !isMutexLine h then trap s .syncwin h 0
    else if s.reaches s.tenant f then k
    else trap s .prot h 0
  | _ => onHandle s h .mtx k

/-- Takes a free mutex (R255): the next grant after an abandonment returns BROKEN. -/
def mtxGrant (s : State) (h : Nat) (d : Reg) : State :=
  let m := s.mtx h
  retAcq ((s.setMtx h ⟨some s.th.tid, false, m.pts⟩).raise m.pts) d (if m.aband then stBROKEN else stOK)

/-- `mtx.lock` (R255). -/
def execMtxLock (a d : Reg) (s : State) : Host.Outcome State Fault Refusal :=
  let h := (s.opX 0 a).toNat
  done (attempt s false [xr a] false (onMtx s h
    (if poisonedObj s h then retAcq s d stBROKEN
     else if (s.mtx h).holder.isNone then mtxGrant s h d
     else
       let (q, s) := s.nextSeq
       gate s (.mtx h d.val q))))

/-- `mtx.try` (R255). -/
def execMtxTry (a d : Reg) (s : State) : Host.Outcome State Fault Refusal :=
  let h := (s.opX 0 a).toNat
  done (attempt s false [xr a] false (onMtx s h
    (if poisonedObj s h then retX s d stBROKEN
     else if (s.mtx h).holder.isNone then mtxGrant s h d
     else retX s d stBUSY)))

/-- `mtx.unlock` (R237, R255). -/
def execMtxUnlock (a d : Reg) (s : State) : Host.Outcome State Fault Refusal :=
  let h := (s.opX 0 a).toNat
  done (attempt s false [xr a] false (onMtx s h
    (let s := fenceRel s .pkg
     if (s.mtx h).holder = some s.th.tid then retX (mtxPass s h s.th.pts false) d stOK
     else retX s d stFAULT)))

/-! ### Counters -/

/-- The value and timestamp of a counter. -/
def State.cnt (s : State) (h : Nat) : Word × Nat :=
  match s.obj h with
  | some ⟨_, _, _, .cnt v p⟩ => (v, p)
  | _ => (0, 0)

/-- `cnt.init` (R256). -/
def execCntInit (a b d : Reg) (s : State) : Host.Outcome State Fault Refusal :=
  let h := (s.opX 0 a).toNat
  done (attempt s false [xr a, xr b] false (onHandle s h .cnt
    (let s1 := fenceRel s .pkg
     if poisonedObj s h then retX s1 d stBROKEN else retX (cntSet s1 h (s.opX 1 b) s.th.pts) d stOK)))

/-- `cnt.add` (R256): the old value of a poisoned counter traps POISON, and one that is not asked for is BROKEN (R369). -/
def execCntAdd (a b d : Reg) (s : State) : Host.Outcome State Fault Refusal :=
  let h := (s.opX 0 a).toNat
  done (attempt s false [xr a, xr b] false (onHandle s h .cnt
    (if poisonedObj s h then (if d = 0 then retire (fenceRel s .pkg) else poisonTrap s h)
     else
       let c := s.cnt h
       let s1 := cntSet (fenceRel s .pkg) h (c.1 + s.opX 1 b) (max c.2 s.th.pts)
       retX (s1.raise c.2) d c.1)))

/-- `cnt.rd` (R256). -/
def execCntRd (a d : Reg) (s : State) : Host.Outcome State Fault Refusal :=
  let h := (s.opX 0 a).toNat
  done (attempt s false [xr a] false (onHandle s h .cnt
    (if poisonedObj s h then poisonTrap s h else retX (s.raise (s.cnt h).2) d (s.cnt h).1)))

/-- `cnt.wait` (R256). -/
def execCntWait (a b d : Reg) (s : State) : Host.Outcome State Fault Refusal :=
  let h := (s.opX 0 a).toNat
  let thr := (s.opX 1 b).toNat
  done (attempt s false [xr a, xr b] false (onHandle s h .cnt
    (if poisonedObj s h then retAcq s d stBROKEN
     else if thr ≤ (s.cnt h).1.toNat then retAcq (s.raise (s.cnt h).2) d stOK
     else
       let (q, s) := s.nextSeq
       gate s (.cnt h thr d.val q))))

/-! ### The global barrier -/

/-- The current slot's arrival as the launch counts it, the slot gated (R257). -/
def gbarJoin (s : State) (d : Reg) (addr : Nat) (l : Launch) : State :=
  let t := s.ptime
  let s := fenceRel s .pkg
  let s := s.onLaunch l.lid fun l => { l with
    garr := s.th.tid :: l.garr
    gaddr := addr
    gearly := if l.gtimes = [] then t else min l.gearly t
    glate := max l.glate t
    gtimes := t :: l.gtimes
    glast := s.th.core
    gpts := max l.gpts s.th.pts }
  let (q, s) := s.nextSeq
  gate s (.gbar l.gphase d.val q)

/-- An arrival at the launch's global barrier (R257). -/
def gbarArrive (s : State) (d : Reg) (addr : Nat) : State :=
  match s.launch s.th.lid with
  | none => retAcq s d stOK
  | some l => gbarCheck (gbarJoin s d addr l) l.lid

/-- `gbar` (R257). -/
def execGbar (a d : Reg) (s : State) : Host.Outcome State Fault Refusal :=
  let h := (s.opX 0 a).toNat
  done (attempt s false [xr a] false
    (if h % 32 ≠ 0 then trap s .misalign h 0 else gbarArrive s d h))

end Sys2Proof.Machine
end

