-- ==== Sys2Proof/Machine/RimeOps.lean ====
section
/-! DEFINITION. Rime records: allocation, binding, folding, sync, reading and clearing (R121 to R133, R259 to R261, R370). -/

namespace Sys2Proof.Machine

set_option linter.unusedVariables false

/-- The format of a code (R104), for rime records: every format but the group formats and E8M0 (R123). -/
def rimeFmt (c : Nat) : Option Fmt :=
  match c with
  | 0 => some .fp64 | 1 => some .fp32 | 2 => some .fp16 | 3 => some .bf16 | 4 => some .e4m3 | 5 => some .e5m2
  | 6 => some .e3m2 | 7 => some .e2m3 | 8 => some .e2m1 | 11 => some .i8 | 12 => some .i16 | 13 => some .i32
  | _ => none

/-- The code of a format (R104). -/
def fmtCode : Fmt → Nat
  | .fp64 => 0 | .fp32 => 1 | .fp16 => 2 | .bf16 => 3 | .e4m3 => 4 | .e5m2 => 5 | .e3m2 => 6 | .e2m3 => 7 | .e2m1 => 8
  | .qg8 => 9 | .qg4 => 10 | .i8 => 11 | .i16 => 12 | .i32 => 13 | .e8m0 => 14

/-- The record of a handle. -/
def State.rime (s : State) (h : Nat) : Option Rime :=
  match s.obj h with
  | some ⟨_, _, _, .rime r⟩ => some r
  | _ => none

/-- A record at its allocation from a descriptor word (R259). -/
def Rime.start (v : Nat) (f : Fmt) : Rime where
  stats := Stats.zero
  ftime := 0
  fseq := 0
  base := signed (bits v 24 8) 8
  trap := bits v 1 1 = 1
  en := bits v 0 1 = 1
  fmt := f
  tag := BitVec.ofNat 32 (v / 2 ^ 32)
  snap := 0
  lost := false

/-- Four free consecutive slots of a die's window, aligned to 256 bytes (R121); which is left open. -/
def findQuad (s : State) (d : Nat) : Option Nat :=
  let cap := (65536 + sharedSlots (s.die d)) / 4
  let start := (Config.freeWord s.fresh).toNat
  let n := min cap (s.sync.objs.length + s.sync.retired.length + 1)
  ((List.range n).map fun i => slotAddr d ((start + i) % cap * 4)).find? fun h =>
    (List.range 4).all fun j => slotFree s (h + 64 * j)

/-- `rime.alloc` (R259, R360). -/
def rimeAlloc (s : State) (d : Reg) (v : Nat) : State :=
  let die := dieOfCore s.th.core
  match rimeFmt (bits v 16 4) with
  | none => retX s d stFAULT
  | some f =>
    if bits v 20 4 ≠ 0 || bits v 2 14 ≠ 0 then retX s d stFAULT
    else if 65536 < slotsUsed s die true + 4 then retX s d stFULL
    else
      match findQuad s die with
      | none => retX s d stFULL
      | some h => retX (s.setObj h ⟨s.tenant, true, false, .rime (Rime.start v f)⟩) d (BitVec.ofNat 64 h)

def execRimeAlloc (a d : Reg) (s : State) : Host.Outcome State Fault Refusal :=
  done (attempt s false [xr a] false (rimeAlloc s d (s.opX 0 a).toNat))

/-- Discards every die's partial of a record. -/
def dropPartials (s : State) (h : Nat) : State :=
  let f (x : Die) : Die := { x with partials := x.partials.filter fun p => p.1 ≠ h }
  { s with sync := { s.sync with dies := s.sync.dies.map f } }

/-- `rime.free` (R261): BUSY while any binding names the record. -/
def execRimeFree (a d : Reg) (s : State) : Host.Outcome State Fault Refusal :=
  let h := (s.opX 0 a).toNat
  done (attempt s false [xr a] false (onHandle s h .rime
    (if s.sync.binds.any fun b => b.handle = h then retX s d stBUSY
     else
       retX (dropPartials (freeObj s h) h) d stOK)))

/-- The latest write timestamp of the lines in a record's bound ranges: what a fold's mark carries (R133). -/
def boundMark (s : State) (h : Nat) : Nat :=
  s.mem.lines.foldl (fun t l =>
    if s.sync.binds.any fun b => b.handle = h && b.base ≤ l.line * 256 && l.line * 256 < b.base + b.len then max t l.wts
    else t) 0

/-- Folds a die's partial into its record (R130). -/
def fold (s : State) (d h : Nat) : State :=
  match (s.die d).partials.find? fun p => p.1 = h with
  | none => s
  | some (_, _, st) =>
    let s := s.onDie d fun x => { x with partials := x.partials.filter fun p => p.1 ≠ h }
    match s.rime h with
    | none => s
    | some r =>
      let s := s.onDie (dieOfHandle h) fun x => { x with foldMark := max x.foldMark (boundMark s h) }
      s.setKind h (.rime { r with
        stats := r.stats.merge st
        ftime := if st.total = 0 then r.ftime else s.ptime
        fseq := if st.total = 0 then r.fseq else r.fseq + 1 })

/-- Folds every die's partial of a record. -/
def foldAll (s : State) (h : Nat) : State := iterate 4 (fun d s => fold s d h) s

/-- `rime.bind` (R128, R129, R131, R260): lines of the range leave their owners (R127). -/
def rimeBind (s : State) (d : Reg) (h v : Nat) : State :=
  let base := v / 2 ^ 16 * 2 ^ 16
  let len := (v % 2 ^ 16 + 1) * 65536
  if 0x00F0000000000000 < base + len then retX s d stFAULT
  else if s.sync.binds.any fun b => b.base < base + len && base < b.base + b.len then retX s d stBUSY
  else if 1024 ≤ s.sync.binds.length then retX s d stFULL
  else
    let s := { s with sync := { s.sync with binds := ⟨h, base, len, s.th.rimewin⟩ :: s.sync.binds } }
    retX (s.onMem fun m => { m with
      lines := m.lines.map fun l =>
        if base ≤ l.line * 256 && l.line * 256 < base + len then { l with owner := none } else l }) d stOK

def execRimeBind (a b d : Reg) (s : State) : Host.Outcome State Fault Refusal :=
  let h := (s.opX 0 a).toNat
  done (attempt s false [xr a, xr b] false (onHandle s h .rime (rimeBind s d h (s.opX 1 b).toNat)))

/-- `rime.unbind` (R129, R260): every die folds first. -/
def rimeUnbind (s : State) (d : Reg) (h v : Nat) : State :=
  let base := v / 2 ^ 16 * 2 ^ 16
  let len := (v % 2 ^ 16 + 1) * 65536
  let hit (b : Bind) : Bool := b.handle = h && b.base = base && b.len = len
  if s.sync.binds.any hit then
    let s := foldAll s h
    retX { s with sync := { s.sync with binds := s.sync.binds.filter fun b => !hit b } } d stOK
  else retX s d stFAULT

def execRimeUnbind (a b d : Reg) (s : State) : Host.Outcome State Fault Refusal :=
  let h := (s.opX 0 a).toNat
  done (attempt s false [xr a, xr b] false (onHandle s h .rime (rimeUnbind s d h (s.opX 1 b).toNat)))

/-- `rime.sync` (R133): every die folds, amax becomes the snapshot; PARTIAL after statistics were lost (R370). -/
def rimeSync (s : State) (d : Reg) (h : Nat) : State :=
  let s := foldAll s h
  match s.rime h with
  | none => s
  | some r =>
    let s := s.setKind h (.rime { r with snap := r.stats.amax })
    retX (s.raise (s.die (dieOfHandle h)).foldMark) d (if r.lost then stPARTIAL else stOK)

def execRimeSync (a d : Reg) (s : State) : Host.Outcome State Fault Refusal :=
  let h := (s.opX 0 a).toNat
  done (attempt s false [xr a] false (onHandle s h .rime
    (if poisonedObj s h then retX s d stBROKEN else rimeSync s d h)))

/-- The 2,048 bits of a record (R122). -/
def Rime.word (r : Rime) : Nat :=
  r.tag.toNat + fmtCode r.fmt * 2 ^ 32 + r.en.toNat * 2 ^ 48 + r.trap.toNat * 2 ^ 49 + unsigned r.base 8 * 2 ^ 56 +
    r.stats.amax % 2 ^ 32 * 2 ^ 64 + r.stats.nonfin % 2 ^ 32 * 2 ^ 96 + r.stats.zeros % 2 ^ 64 * 2 ^ 128 +
    r.stats.total % 2 ^ 64 * 2 ^ 192 + r.fseq % 2 ^ 64 * 2 ^ 256 + r.ftime % 2 ^ 64 * 2 ^ 320 +
    r.stats.bucket.foldl (fun a p => a + p.2 % 2 ^ 32 * 2 ^ (512 + 32 * p.1)) 0

/-- `rime.rd` (R261). -/
def rimeRd (s : State) (d : Reg) (h o : Nat) : State :=
  if o % 8 ≠ 0 then trap s .misalign ((h + o) % 2 ^ 64) 0
  else if 256 < o then trap s .prot ((h + o) % 2 ^ 64) 0
  else if poisonedObj s h then poisonTrap s h
  else
    match s.rime h with
    | none => s
    | some r => retX s d (BitVec.ofNat 64 (if o = 256 then r.snap else r.word / 2 ^ (8 * o)))

def execRimeRd (a b d : Reg) (s : State) : Host.Outcome State Fault Refusal :=
  let h := (s.opX 0 a).toNat
  done (attempt s false [xr a, xr b] false (onHandle s h .rime (rimeRd s d h (s.opX 1 b).toNat)))

/-- `rime.clr` (R261). -/
def rimeClr (s : State) (d : Reg) (h : Nat) : State :=
  let s := dropPartials s h
  match s.rime h with
  | none => s
  | some r =>
    retX (s.setKind h (.rime { r with stats := Stats.zero, ftime := 0, fseq := 0, lost := false })) d stOK

def execRimeClr (a d : Reg) (s : State) : Host.Outcome State Fault Refusal :=
  let h := (s.opX 0 a).toNat
  done (attempt s false [xr a] false (onHandle s h .rime
    (if poisonedObj s h then retX s d stBROKEN else rimeClr s d h)))

/-- RIME_FOLD (R131): a die's fold of one record. -/
def execRimeFold (s : State) : Host.Outcome State Fault Refusal := done (fold s s.input.die s.input.handle)

end Sys2Proof.Machine
end

