-- ==== Sys2Proof/Machine/Flags.lean ====
section
/-! DEFINITION. Results that set `fflags` (R110): the shape of a scalar floating-point instruction (R174 to R176) and of an
element-wise vector instruction whose elements raise flags (R209). -/

namespace Sys2Proof.Machine

set_option linter.unusedVariables false

/-- The flags that any element raises (R110). -/
def anyFlags (l : List Rnd) : BitVec 6 := l.foldl (fun f r => f ||| r.flags) 0

/-- A result from a draw's mode: what an instruction that rounds does once its checks have passed (R118). -/
def rounded (s : State) (m : RM) (res : Rnd) (k : State → Word → State) : State :=
  k ((s.drawn m).flags res.flags) (BitVec.ofNat 64 res.bits)

/-- A scalar form that rounds in a mode (R174): ILLEGAL for `.rdyn` with `frm` 5 to 7, then the operand checks, then the
result with its draw and flags. -/
def fpRound (s : State) (r : RM) (srcs : List Nat) (f : Mode → Rnd) (k : State → Word → State) : State :=
  match rmEff r s.th.frm with
  | none => trapIllegal s
  | some m => attempt s false srcs false (rounded s m (f (s.th.mode m 0 1 0)) k)

/-- A scalar arithmetic form of a type (R174). -/
def fpArith (s : State) (r : RM) (t : FT) (srcs : List Nat) (f : Bool → Ex) (k : State → Word → State) : State :=
  fpRound s r srcs (fun md => round t.fmt md false (f (md = .rdn))) k

/-- A form of op 6 of major 0x1A (R175): it never rounds. -/
def fpPlain (s : State) (srcs : List Nat) (res : Rnd) (k : State → Word → State) : State :=
  attempt s false srcs false (k (s.flags res.flags) (BitVec.ofNat 64 res.bits))

end Sys2Proof.Machine
end

