-- ==== Sys2Proof/Machine/Vector.lean ====
section
/-! DEFINITION. The shape of a vector instruction: its checks, stream ports as operands (R73, R218, R219), and its result
(R206 to R209). -/

namespace Sys2Proof.Machine

set_option linter.unusedVariables false

/-- The port binding of a vector register (R73). -/
def Thread.portOf (t : Thread) (r : Reg) : Option Port := if 24 ≤ r.val then look t.ports (r.val - 24) else none

/-- Whether a register is bound in the wrong direction for its use (R218). -/
def wrongPort (t : Thread) (vs : List Reg) (d : Option Reg) : Bool :=
  (vs.any fun r => (t.portOf r).any fun p => p.write) ||
  (d.any fun r => (t.portOf r).any fun p => !p.write)

/-- A vector source: a register, or the vector that a read port gives; past the end it is zero (R218). -/
def State.vsrc (s : State) (k : Nat) (r : Reg) : BitVec 2048 :=
  match s.th.portOf r with
  | none => s.opV k r
  | some p =>
    if p.count ≤ p.done then 0
    else
      match p.ahead with
      | f :: _ => f.data
      | [] => 0

/-- What a source port makes the instruction do before its own effect: wait for its vector, or trap with the fetch's
cause (R219). -/
def readGate (s : State) (r : Reg) (k : State) : State :=
  match s.th.portOf r with
  | none => k
  | some p =>
    if p.count ≤ p.done then k
    else
      match p.ahead with
      | [] => poll s
      | f :: _ =>
        match f.fail with
        | none => k
        | some (c, a) =>
          trap { s with th := { s.th with ports := put s.th.ports (r.val - 24) { p with ahead := [] } } } c a f.idx

/-- A failed write port traps the next push or unbinding and its binding ends (R219, R347). -/
def failGate (s : State) (n : Nat) (k : State) : State :=
  match look s.th.ports n with
  | none => k
  | some p =>
    match p.fail with
    | none => k
    | some (c, a) =>
      match portEnd s s.th n with
      | some (s', t) => trap { s' with th := t } c a (if c = .page then p.done else 0)
      | none => poll s

/-- The checks of a vector instruction with vector sources `vs`, destination `d`, x sources `xs` and a mask (R165, R208,
R218), then its effect. -/
def vop (s : State) (ill : Bool) (vs : List Reg) (d : Option Reg) (xs : List Nat) (m : Mask) (k : State) : State :=
  attempt s (ill || wrongPort s.th vs d) (vs.map vr ++ xs ++ maskSrc m) true
    (vs.foldr (fun r k => readGate s r k)
      (match d with
       | some r => if 24 ≤ r.val then failGate s (r.val - 24) k else k
       | none => k))

/-- A completed instruction consumes one vector of every source port (R218). -/
def consume (t : Thread) (r : Reg) : Thread :=
  match t.portOf r with
  | none => t
  | some p =>
    if p.count ≤ p.done then { t with ports := put t.ports (r.val - 24) { p with ovf := true } }
    else
      match p.ahead with
      | [] => t
      | f :: rest => { t with
          pts := max t.pts f.te
          ports := put t.ports (r.val - 24) { p with ahead := rest, done := p.done + 1 } }

/-- The distinct registers of a list. -/
def dedup : List Reg → List Reg
  | [] => []
  | r :: t => if t.contains r then dedup t else r :: dedup t

def consumeAll (s : State) (vs : List Reg) : State := { s with th := (dedup vs).foldl consume s.th }

/-- Pushes a vector to a write port; past the end it is discarded (R218). -/
def push (t : Thread) (n : Nat) (p : Port) (v : BitVec 2048) : Thread :=
  let p' : Port :=
    if p.count ≤ p.pushed then { p with pushed := p.pushed + 1, ovf := true }
    else if p.flt then { p with pushed := p.pushed + 1 }
    else { p with pushed := p.pushed + 1, queue := p.queue ++ [(v, t.pts)] }
  { t with ports := put t.ports n p' }

/-- A vector result: to a register with the latency of its class (R209), or pushed to a write port with inactive elements
as zero (R218). `f` gives the result from the old value of the destination. -/
def vput (s : State) (lat : Option Nat) (d : Reg) (f : BitVec 2048 → BitVec 2048) : State :=
  match s.th.portOf d with
  | some p => { s with th := push s.th (d.val - 24) p (f 0) }
  | none =>
    match lat with
    | some l => s.wrVFix l d (f (s.th.getV d))
    | none => s.wrV d (f (s.th.getV d))

/-- A vector instruction completes with a vector result. -/
def vret (s : State) (vs : List Reg) (lat : Option Nat) (d : Reg) (f : BitVec 2048 → BitVec 2048) : State :=
  retire (vput (consumeAll s vs) lat d f)

/-- A vector instruction completes with a result in an x register. -/
def vretX (s : State) (vs : List Reg) (lat : Option Nat) (d : Reg) (v : Nat) : State :=
  let s := consumeAll s vs
  match lat with
  | some l => retXFix s l d (BitVec.ofNat 64 v)
  | none => retX s d (BitVec.ofNat 64 v)

/-- An element-wise form with two sources, no rounding, and a flag for each element (R209, R221). -/
def vmap2 (s : State) (lat : Option Nat) (d a b : Reg) (m : Mask) (w : Nat) (f : Nat → Nat → Rnd) : State :=
  let n := s.th.n w
  let mask := s.maskOf m
  let va := s.vsrc 0 a
  let vb := s.vsrc 1 b
  let r (i : Nat) : Rnd := f (elem va w i) (elem vb w i)
  let fl := anyFlags (((List.range n).filter fun i => active mask (lane w i)).map r)
  vop s false [a, b] (some d) [] m
    (vret (s.flags fl) [a, b] lat d fun old => pack w (blend w n mask old fun i => (r i).bits))

/-- A compare of two sources into a mask register (R222, R224). -/
def vcmp2 (s : State) (lat : Nat) (d a b : Reg) (m : Mask) (w : Nat) (f : Nat → Nat → Bool × BitVec 6) : State :=
  let n := s.th.n w
  let mask := s.maskOf m
  let va := s.vsrc 0 a
  let vb := s.vsrc 1 b
  let r (i : Nat) : Bool × BitVec 6 := f (elem va w i) (elem vb w i)
  let fl := ((List.range n).filter fun i => active mask (lane w i)).foldl (fun x i => x ||| (r i).2) 0
  vop s false [a, b] none [] m
    (vretX (s.flags fl) [a, b] (some lat) d (cmpMask w n mask s.th.vl fun i => (r i).1))

/-- How many results share the governing lane of a result of width `w` (R118). -/
def perLane (w : Nat) : Nat := if 32 ≤ w then 1 else 32 / w

/-- The mode of the result of element `i` whose governing lane is that of width `w` (R118). -/
def Thread.modeAt (t : Thread) (r : RM) (w i : Nat) : Mode :=
  t.mode r (lane w i) (perLane w) (i % perLane w)

/-- An element-wise form that rounds (R209, R223, R225): `vs` are its sources, `f` the result of element `i` in a mode. -/
def vround (s : State) (r : RM) (lat : Option Nat) (d : Reg) (vs : List Reg) (xs : List Nat) (m : Mask) (w : Nat)
    (f : Mode → Nat → Rnd) : State :=
  match rmEff r s.th.frm with
  | none => trapIllegal s
  | some rm =>
    let n := s.th.n w
    let mask := s.maskOf m
    let g (i : Nat) : Rnd := f (s.th.modeAt rm w i) i
    let fl := anyFlags (((List.range n).filter fun i => active mask (lane w i)).map g)
    vop s false vs (some d) xs m
      (vret ((s.drawn rm).flags fl) vs lat d fun old => pack w (blend w n mask old fun i => (g i).bits))

end Sys2Proof.Machine
end

