-- ==== Sys2Proof/Machine/VConvert.lean ====
section
/-! DEFINITION. Conversions (R229 to R233): between formats, with MX scales, through a rime record, and from group formats. -/

namespace Sys2Proof.Machine

set_option linter.unusedVariables false

/-- The elements of a conversion's destination (R207, R229): element `i`'s governing lane is that of the wider width. -/
def cvtBlend (wide cd n mask : Nat) (old : BitVec 2048) (f : Nat → Nat) : BitVec 2048 :=
  pack cd ((List.range n).map fun i => if active mask (lane wide i) then f i else elem old cd i)

/-- A conversion of `n` elements whose wide side has width `wide` into cells of width `cd` (R229, R231). -/
def vconv (s : State) (r : RM) (lat : Option Nat) (d : Reg) (vs : List Reg) (m : Mask) (wide cd : Nat)
    (f : Mode → Nat → Rnd) : State :=
  match rmEff r s.th.frm with
  | none => trapIllegal s
  | some rm =>
    let n := s.th.n wide
    let mask := s.maskOf m
    let g (i : Nat) : Rnd := f (s.th.modeAt rm wide i) i
    let fl := anyFlags (((List.range n).filter fun i => active mask (lane wide i)).map g)
    vop s false vs (some d) [] m
      (vret ((s.drawn rm).flags fl) vs lat d fun old => cvtBlend wide cd n mask old fun i => (g i).bits)

/-- `vcvt` (R229). -/
def execVcvt (d a : Reg) (e : Fmt) (r : RM) (m : Mask) (f : Fmt) (s : State) : Host.Outcome State Fault Refusal :=
  let va := s.vsrc 0 a
  done (vconv s r (some 4) d [a] m (max f.cell e.cell) e.cell fun md i =>
    roundTo e md false (f.val (elem va f.cell i)).ex)

/-- `vcvt.nsat.e4m3` (R230). -/
def execVcvtNsat (d a : Reg) (r : RM) (m : Mask) (f : Fmt) (s : State) : Host.Outcome State Fault Refusal :=
  let va := s.vsrc 0 a
  done (vconv s r (some 4) d [a] m (max f.cell 8) 8 fun md i => roundTo .e4m3 md true (f.val (elem va f.cell i)).ex)

/-- A value scaled by an MX scale to the power `sign` (R105, R231). -/
def mxScale (x : Val) (sj : Nat) (up : Bool) : Ex :=
  if sj = 255 then .nan x.isSig
  else
    let k : Int := (sj : Int) - 127
    shiftE (if up then k else -k) x

/-- `vmxcvt` (R231). -/
def execVmxcvt (d a b : Reg) (m : Mask) (f : Fmt) (s : State) : Host.Outcome State Fault Refusal :=
  let va := s.vsrc 0 a
  let vb := s.vsrc 1 b
  done (vconv s .dyn none d [a, b] m 32 f.cell fun md i =>
    roundTo f md false (mxScale (Fmt.fp32.val (elem va 32 i)) (elem vb 8 (i / 32)) false))

/-- `vmxext` (R231). -/
def execVmxext (d a b : Reg) (m : Mask) (f : Fmt) (s : State) : Host.Outcome State Fault Refusal :=
  let va := s.vsrc 0 a
  let vb := s.vsrc 1 b
  done (vconv s .dyn none d [a, b] m 32 32 fun md i =>
    round .fp32 md false (mxScale (f.val (elem va f.cell i)) (elem vb 8 (i / 32)) true))

/-- The exact value of a QG code (R106): scale × (c − z). -/
def qgValue (entry c : Nat) : Ex :=
  match Fmt.fp16.val (entry % 2 ^ 16) with
  | .nan sg => .nan sg
  | .inf _ => .nan false
  | .fin neg mm e =>
    let k : Int := (c : Int) - (bits entry 16 8 : Nat)
    .fin (neg != decide (k < 0)) (mm * k.natAbs) e false

/-- `vqgext` (R138, R231): exact, so it never rounds and consumes no draw. -/
def execVqgext (d a b : Reg) (m : Mask) (f : Fmt) (s : State) : Host.Outcome State Fault Refusal :=
  let va := s.vsrc 0 a
  let vb := s.vsrc 1 b
  let n := s.th.vl
  let mask := s.maskOf m
  let g (i : Nat) : Rnd := round .fp32 .rne false (qgValue (elem vb 32 (i / 32)) (elem va f.width i))
  let fl := anyFlags (((List.range n).filter fun i => active mask i).map g)
  done (vop s false [a, b] (some d) [] m
    (vret (s.flags fl) [a, b] none d fun old => cvtBlend 32 32 n mask old fun i => (g i).bits))

/-- Whether a scaled value exceeds the format's largest magnitude (R135). -/
def exceeds (f : Fmt) : Ex → Bool
  | .fin _ mm e _ =>
    let (bm, be) : Nat × Int := match f with
      | .i8 => (127, 0)
      | f => (f.maxSig, f.emax - f.mant)
    let u := min e be
    bm * 2 ^ (be - u).toNat < mm * 2 ^ (e - u).toNat
  | _ => false

/-- An element of `vqcvt` that exceeds the format (R134, R135): the largest magnitude; for I8 the rounded integer limited
to −128 … 127. -/
def endValue (f : Fmt) (md : Mode) : Ex → Rnd
  | .fin neg mm e st =>
    match f with
    | .i8 =>
      let r := roundInt 64 true md (.fin neg mm e st)
      let v := signed r.bits 64
      let c := max (-128) (min 127 v)
      ⟨unsigned c 8, fSAT ||| flagIf (r.flags ≠ 0 || c ≠ v) fNX⟩
    | f => ⟨withSign f neg f.maxBits, fSAT ||| fNX⟩
  | x => round f md false x

/-- One element of `vqcvt` (R134, R135, R232). -/
def qcvtElem (f : Fmt) (md : Mode) (x : Ex) : Rnd := if exceeds f x then endValue f md x else roundTo f md false x

/-- `vqcvt` on a record (R232): lane VL − 1 receives k. -/
def vqcvtOn (s : State) (rm : RM) (d a : Reg) (m : Mask) (f : Fmt) (h : Nat) (mu : Int) : State :=
  match s.rime h with
  | none => s
  | some r =>
    let n := s.th.vl
    let mask := s.maskOf m
    let va := s.vsrc 0 a
    let k := scaleExp r.snap f mu
    let x (i : Nat) : Ex := shiftE k (Fmt.fp32.val (elem va 32 i))
    let act := (List.range n).filter fun i => active mask i
    match (if r.trap then act.find? fun i => exceeds f (x i) else none) with
    | some i => trap s .rescale h i
    | none =>
      let g (i : Nat) : Rnd := qcvtElem f (s.th.modeAt rm 32 i) (x i)
      vret ((s.drawn rm).flags (anyFlags (act.map g))) [a] none d fun old =>
        let v := (cvtBlend 32 f.cell n mask old fun i => (g i).bits).toNat
        let top := 32 * (n - 1)
        BitVec.ofNat 2048 (v % 2 ^ top + unsigned k 32 * 2 ^ top)

/-- `vqcvt` (R232): the handle is X[b] with bits [7:0] cleared, μ its low byte. -/
def execVqcvt (d a b : Reg) (m : Mask) (f : Fmt) (s : State) : Host.Outcome State Fault Refusal :=
  let v := (s.opX 1 b).toNat
  let h := v / 256 * 256
  done (match rmEff .dyn s.th.frm with
    | none => trapIllegal s
    | some rm => vop s false [a] (some d) [xr b] m (onHandle s h .rime
        (if poisonedObj s h then poisonTrap s h else vqcvtOn s rm d a m f h (signed v 8))))

/-! ### 4-bit integers -/

/-- A widening form (R233). -/
def vwid4 (s : State) (d a : Reg) (m : Mask) (sgn : Bool) : State :=
  let n := s.th.n 8
  let mask := s.maskOf m
  let va := s.vsrc 0 a
  vop s false [a] (some d) [] m
    (vret s [a] none d fun old => cvtBlend 8 8 n mask old fun i =>
      let x := elem va 4 i
      if sgn then unsigned (signed x 4) 8 else x)

/-- `vwid4.i8.i4` (R233). -/
def execVwid4I8I4 (d a : Reg) (m : Mask) (s : State) : Host.Outcome State Fault Refusal := done (vwid4 s d a m true)

/-- `vwid4.n8.n4` (R233). -/
def execVwid4N8N4 (d a : Reg) (m : Mask) (s : State) : Host.Outcome State Fault Refusal := done (vwid4 s d a m false)

/-- A narrowing form (R233): lanes VL/2 and up are written as zero. -/
def vnar4 (s : State) (d a : Reg) (m : Mask) (sgn : Bool) : State :=
  let n := s.th.n 8
  let mask := s.maskOf m
  let va := s.vsrc 0 a
  let g (i : Nat) : Rnd :=
    let x := elem va 8 i
    let v : Int := if sgn then signed x 8 else ((x : Nat) : Int)
    let c := if sgn then max (-8) (min 7 v) else max 0 (min 15 v)
    ⟨unsigned c 4, flagIf (c ≠ v) fSAT⟩
  let fl := anyFlags (((List.range n).filter fun i => active mask (lane 8 i)).map g)
  vop s false [a] (some d) [] m
    (vret (s.flags fl) [a] none d fun old => cvtBlend 8 4 n mask old fun i => (g i).bits)

/-- `vnar4.i4.i8` (R233). -/
def execVnar4I4I8 (d a : Reg) (m : Mask) (s : State) : Host.Outcome State Fault Refusal := done (vnar4 s d a m true)

/-- `vnar4.n4.n8` (R233). -/
def execVnar4N4N8 (d a : Reg) (m : Mask) (s : State) : Host.Outcome State Fault Refusal := done (vnar4 s d a m false)

end Sys2Proof.Machine
end

