-- ==== Sys2Proof/Machine/MxMath.lean ====
section
/-! DEFINITION. What a tile task is: its record (R239), which records are valid (R238 to R241), and the sums and
conversions that it computes (R105, R106, R115, R243). -/

namespace Sys2Proof

open Sys2Proof.Machine

/-- An exact result that needs no rounding, as a value. -/
def Ex.val : Ex → Val
  | .nan _ => .nan false
  | .inf n _ => .inf n
  | .fin n m e _ => .fin n m e

/-- An exact sum (R115): a NaN or infinities met, whether every term is −0, and m × 2^e. -/
structure Dy where
  nan  : Bool
  pinf : Bool
  ninf : Bool
  negz : Bool
  m    : Int
  e    : Int
  deriving DecidableEq, Repr

def Dy.zero : Dy := ⟨false, false, false, true, 0, 0⟩

/-- Adds one term exactly. -/
def Dy.add (d : Dy) : Val → Dy
  | .nan _ => { d with nan := true }
  | .inf n => if n then { d with ninf := true } else { d with pinf := true }
  | .fin n m e =>
    if m = 0 then { d with negz := d.negz && n }
    else if d.m = 0 then { d with negz := false, m := scaled n m e e, e := e }
    else
      let u := min d.e e
      { d with negz := false, m := d.m * (2 ^ (d.e - u).toNat : Nat) + scaled n m e u, e := u }

/-- The sum before its rounding: infinities of both signs give a NaN. -/
def Dy.ex (d : Dy) : Ex :=
  if d.nan || (d.pinf && d.ninf) then .nan false
  else if d.pinf then .inf false false
  else if d.ninf then .inf true false
  else .fin (if d.m = 0 then d.negz else d.m < 0) d.m.natAbs d.e false

/-- The product of two elements, an invalid one as a NaN. -/
def prodV (a b : Val) : Val := (mulV a b).1

end Sys2Proof

namespace Sys2Proof.Machine

set_option linter.unusedVariables false

/-- A field of a tile-task record (R239). -/
def tf (d : BitVec 256) (lo n : Nat) : Nat := bits d.toNat lo n

/-- The format of an operand: its code, with 4-bit integers told apart (R239, R240). -/
structure Opnd where
  fmt : Fmt
  i4  : Bool
  deriving DecidableEq, Repr

def Opnd.width (o : Opnd) : Nat := if o.i4 then 4 else o.fmt.width

def Opnd.qg (o : Opnd) : Bool := o.fmt = .qg8 || o.fmt = .qg4

/-- A format that MX scales accompany (R105). -/
def isMxFmt : Fmt → Bool
  | .e4m3 | .e5m2 | .e3m2 | .e2m3 | .e2m1 => true
  | _ => false

/-- The accumulator format of a pair of operand formats; none for an invalid pair (R240). -/
def accFmt (a b : Fmt) (mx i4 : Bool) : Option Fmt :=
  let wide8 (f : Fmt) : Bool := f = .e4m3 || f = .e5m2
  let qg (f : Fmt) : Bool := f = .qg8 || f = .qg4
  let withQg (f : Fmt) : Bool := qg f || f = .fp16 || f = .bf16
  if i4 then (if a = .i8 && b = .i8 && !mx then some .i32 else none)
  else if mx then (if isMxFmt a && isMxFmt b then some .fp32 else none)
  else if a = .fp64 && b = .fp64 then some .fp64
  else if (a = .fp32 && b = .fp32) || (a = .fp16 && b = .fp16) || (a = .bf16 && b = .bf16) then some .fp32
  else if wide8 a && wide8 b then some .fp32
  else if a = .i8 && b = .i8 then some .i32
  else if (qg a && withQg b) || (withQg a && qg b) then some .fp32
  else none

/-- The fields of a tile task as its snapshot gives them. -/
structure TaskView where
  op   : Nat
  acc  : Nat
  a    : Opnd
  b    : Opnd
  /-- The accumulator's format. -/
  accF : Fmt
  mx   : Bool
  /-- Group size of QG operands. -/
  grp  : Nat
  ks   : Nat
  ra   : Nat
  rb   : Nat
  m    : Nat
  n    : Nat
  kt   : Nat
  dst  : Nat
  dfmt : Fmt
  drm  : Mode
  red  : Bool
  stride : Int
  corr : Nat
  deriving DecidableEq, Repr

/-- The drain rounding of a code (R239). -/
def drainMode : Nat → Mode
  | 0 => .rne | 1 => .rz | 2 => .rdn | _ => .rup

/-- Whether a drain may write a format from an accumulator format (R241). -/
def drainOk (acc d : Fmt) (red : Bool) : Bool :=
  match acc with
  | .fp32 => d = .fp32 || d = .fp16 || d = .bf16 || (!red && (d = .e4m3 || d = .e5m2))
  | .fp64 => d = .fp64 || d = .fp32
  | .i32 => d = .i32 || (!red && d = .i8)
  | _ => false

/-- Whether a format code may stand in a record of an encoding version (R104, R167). -/
def codeOk (enc c : Nat) : Bool := c < 15 && (enc = 3 || (c ≠ 9 && c ≠ 10))

/-- Bytes of a tile of `lines` × kt elements with its scales or side entries (R240). -/
def tileNeed (v : TaskView) (o : Opnd) (lines : Nat) : Nat :=
  (lines * v.kt * o.width + 7) / 8 +
    (if v.mx then lines * (v.kt / 32) else if o.qg then 4 * lines * (v.kt / v.grp) else 0)

/-- A ring of a floe; an unlisted one is as after reset (R245). -/
def Floe.ring (f : Floe) (q : Nat) : Ring := (look f.rings q).getD ⟨false, 0, 0, 0, 0, []⟩

def Floe.setRing (f : Floe) (q : Nat) (r : Ring) : Floe := { f with rings := put f.rings q r }

/-- The fields of a ring's configuration word (R245). -/
def Ring.tile (r : Ring) : Nat := bits r.word.toNat 32 13 * 256
def Ring.cap (r : Ring) : Nat := 2 ^ bits r.word.toNat 48 4
def Ring.base (r : Ring) : Nat := bits r.word.toNat 0 13 * 256

/-- The offset in floe shared memory of a tile number (R70). -/
def Ring.at_ (r : Ring) (c : Nat) : Nat := r.base + c % r.cap * r.tile

/-- The operand fields of a record as a view, with no check but that its codes name formats. -/
def viewTask (d : BitVec 256) (shape stride : Word) : Option TaskView :=
  let op := tf d 40 2
  match Fmt.ofCode (tf d 32 4), Fmt.ofCode (tf d 36 4), (if op = 0 then some Fmt.fp32 else Fmt.ofCode (tf d 52 4)) with
  | some fa, some fb, some fd =>
    let i4 := tf d 30 1 = 1
    let mx := tf d 31 1 = 1
    match (if op = 0 then accFmt fa fb mx i4 else some fa) with
    | none => none
    | some accF => some {
        op := op
        acc := tf d 8 4
        a := ⟨fa, i4⟩
        b := ⟨fb, i4⟩
        accF := accF
        mx := mx
        grp := 32 * 2 ^ tf d 42 2
        ks := tf d 56 8
        ra := tf d 16 4
        rb := tf d 20 4
        m := bits shape.toNat 0 8
        n := bits shape.toNat 8 8
        kt := bits shape.toNat 16 8
        dst := tf d 192 64
        dfmt := fd
        drm := drainMode (tf d 48 3)
        red := tf d 46 2 = 1
        stride := stride.toInt
        corr := tf d 160 32 }
  | _, _, _ => none

/-- Whether the shape registers hold a legal shape (R238, R240, R241). -/
def shapeOk (v : TaskView) (shape : Word) : Bool :=
  shape.toNat < 2 ^ 24 && 1 ≤ v.kt && v.kt ≤ 128 && 1 ≤ v.n && v.n ≤ 64 && 1 ≤ v.m && v.m ≤ 64 &&
    (v.accF ≠ .fp64 || (v.m ≤ 32 && v.n ≤ 32))

/-- Whether a multiply–accumulate fits its operands' blocks and its rings (R240). -/
def macOk (f : Floe) (v : TaskView) : Bool :=
  1 ≤ v.ks && v.ra ≠ v.rb &&
    (!v.mx || v.kt % 32 = 0) &&
    (!(v.a.qg || v.b.qg) || v.kt % v.grp = 0) &&
    (!(v.a.width = 4 || v.b.width = 4) || v.kt % 2 = 0) &&
    (f.ring v.ra).cfgd && (f.ring v.rb).cfgd &&
    tileNeed v v.a v.m ≤ (f.ring v.ra).tile && tileNeed v v.b v.n ≤ (f.ring v.rb).tile

/-- The view of a valid record (R239 to R241); none for an invalid one. -/
def checkTask (f : Floe) (enc : Nat) (shape stride : Word) (d : BitVec 256) : Option TaskView :=
  match viewTask d shape stride with
  | none => none
  | some v =>
    let zeros := tf d 64 96 = 0 && tf d 51 1 = 0 && tf d 24 6 = 0 && tf d 12 4 = 0 && tf d 0 8 = 0
    let codes := codeOk enc (tf d 32 4) && codeOk enc (tf d 36 4)
    if zeros && codes && v.op ≠ 3 && tf d 42 2 ≠ 3 && shapeOk v shape then
      if v.op = 0 then (if macOk f v then some v else none)
      else
        let rest := tf d 56 8 = 0 && tf d 42 2 = 0 && tf d 31 1 = 0 && tf d 30 1 = 0 && tf d 36 4 = 0 &&
          tf d 16 4 = 0 && tf d 20 4 = 0
        if rest && codeOk enc (tf d 52 4) && tf d 48 3 < 4 && tf d 46 2 < 2 && drainOk v.accF v.dfmt v.red &&
            v.stride % ((v.dfmt.width / 8 : Nat) : Int) = 0 then some v
        else none
    else none

/-! ### What a task computes -/

/-- An element of a ring tile (R102, R105, R106, R240): `idx` its index, `line` its row of A or column of B, `k` its place
along k, in a tile of `n` elements. -/
def tileElem (m : Memory) (base : Nat) (v : TaskView) (o : Opnd) (n line k idx : Nat) : Val :=
  let w := o.width
  let raw := bits (m.read (base + idx * w / 8) ((idx * w % 8 + w + 7) / 8)) (idx * w % 8) w
  let after := base + (n * w + 7) / 8
  if o.qg then (qgValue (m.read (after + 4 * (line * (v.kt / v.grp) + k / v.grp)) 4) raw).val
  else if o.i4 then Val.ofInt (signed raw 4)
  else if v.mx then (mxScale (o.fmt.val raw) (m.get (after + line * (v.kt / 32) + k / 32)).toNat true).val
  else o.fmt.val raw

/-- The group size of R115. -/
def macGroup (v : TaskView) : Nat :=
  let g (o : Opnd) : Nat := match o.fmt with
    | .fp64 => 2
    | .fp32 => 4
    | .fp16 | .bf16 => 8
    | _ => 16
  min (g v.a) (g v.b)

/-- One group of R115: the accumulator and the products of k from `lo` to `hi` − 1, rounded once. -/
def groupStep (accF : Fmt) (term : Nat → Val × Val) (lo n acc : Nat) : Nat :=
  let d := (List.range n).foldl (fun d i => d.add (prodV (term (lo + i)).1 (term (lo + i)).2)) (Dy.zero.add (accF.val acc))
  if accF = .i32 then unsigned (d.m * (2 ^ d.e.toNat : Nat)) 32
  else (round accF .rne false d.ex).bits

/-- An element of the accumulator after a multiply–accumulate of K steps (R115, R243). -/
def macElem (accF : Fmt) (term : Nat → Val × Val) (g k acc : Nat) : Nat :=
  (List.range ((k + g - 1) / g)).foldl (fun acc i => groupStep accF term (i * g) (min g (k - i * g)) acc) acc

/-- The byte offset of an accumulator element (R240). -/
def accOff (accF : Fmt) (i j : Nat) : Nat := if accF = .fp64 then (i * 32 + j) * 8 else (i * 64 + j) * 4

/-- The storage key of an accumulator element. -/
def accKey (f : Nat) (v : TaskView) (i j : Nat) : Nat := tileKey f v.acc (accOff v.accF i j)

/-- Every (i, j) of a task's shape, row by row. -/
def cells (v : TaskView) : List (Nat × Nat) :=
  (List.range v.m).flatMap fun i => (List.range v.n).map fun j => (i, j)

/-- The storage key of step `s`'s tile of a ring (R242). -/
def stepKey (f : Nat) (r : Ring) (first s : Nat) : Nat := floeKey f (r.at_ ((first + s) % 65536))

/-- The bytes of memory with `n` bytes of a tile as a task may read them (R291): each bit of an element that was written since
the tile arrived is the old one or the new one, as the element's free choice says. -/
def mixTile (m : Memory) (fresh key n w : Nat) (old : Memory) : Memory :=
  (List.range n).foldl (fun m o =>
    let a := old.get o
    let b := m.get (key + o)
    if a = b then m
    else Memory.set m (key + o) (BitVec.ofNat 8 ((List.range 8).foldl (fun r j =>
      r + (if Config.readsOld fresh key ((8 * o + j) / w) then bits a.toNat j 1 else bits b.toNat j 1) * 2 ^ j) 0))) m

/-- The accumulator's bytes after a multiply–accumulate (R243): element (i, j) by element, its tiles as `m` holds them. -/
def macBytes (s : State) (m : Memory) (f : Nat) (v : TaskView) (a0 b0 : Nat) : Memory :=
  let ra := (s.floe f).ring v.ra
  let rb := (s.floe f).ring v.rb
  (cells v).foldl (fun out c =>
    let term (k : Nat) : Val × Val :=
      (tileElem m (stepKey f ra a0 (k / v.kt)) v v.a (v.m * v.kt) c.1 (k % v.kt) (c.1 * v.kt + k % v.kt),
       tileElem m (stepKey f rb b0 (k / v.kt)) v v.b (v.n * v.kt) c.2 (k % v.kt) (k % v.kt * v.n + c.2))
    let w := v.accF.width / 8
    let key := accKey f v c.1 c.2
    Memory.write out key w (macElem v.accF term (macGroup v) (v.ks * v.kt) (s.mem.bytes.read key w))) s.mem.bytes

/-- The value that a drain writes for one element (R241, R243). -/
def drainBits (v : TaskView) (c : Nat) : Nat :=
  if v.dfmt = v.accF then c else (roundTo v.dfmt v.drm false (v.accF.val c).ex).bits

/-- The bytes of an accumulator tile as +0 (R244). -/
def zeroTile (m : MemSys) (f t : Nat) : MemSys :=
  let lo := tileKey f t 0
  { m with
    bytes := m.bytes.filter fun c => c.1 < lo || lo + 0x4000 ≤ c.1
    poison := m.poison.filter fun g => g < lo || lo + 0x4000 ≤ g }

/-- The cost of an operand format in quarter-cycles per element of k (R292). -/
def Opnd.cost (o : Opnd) : Nat :=
  if o.i4 then 1
  else match o.fmt with
    | .fp64 => 8
    | .fp32 => 16
    | .fp16 | .bf16 => 4
    | .e2m1 | .qg4 => 1
    | _ => 2

/-- The quarter-cycles of a task: 4T (R292). -/
def TaskView.need (v : TaskView) : Nat := 4 * ((v.ks * v.kt * max v.a.cost v.b.cost + 3) / 4)

end Sys2Proof.Machine
end

