-- ==== Sys2Proof/Machine/Matrix.lean ====
section
/-! DEFINITION. Matrix and ring instructions (R238 to R245), the floe's task queue and its scheduler (R288 to R291), engine
work and the current-slew limiter (R292, R295 to R299), retirement and the drain path (R293, R294). -/

namespace Sys2Proof.Machine

set_option linter.unusedVariables false

/-- The issuer of an engine operation: the current thread, with a correlation number of 0 replaced by `corr` (R239). -/
def issuer (s : State) (corr : Nat) : Issuer where
  tid := s.th.tid
  core := s.th.core
  slot := s.th.slot
  lid := s.th.lid
  tenant := s.tenant
  enc := s.th.enc
  corr := if corr = 0 then s.th.corr.toNat else corr
  ti := s.th.pts
  since := s.host.cycle

/-- The floe of the current slot. -/
def State.myFloe (s : State) : Nat := floeOfCore s.th.core

/-- An island's limiter; an unlisted one is as after reset. -/
def State.island (s : State) (i : Nat) : Island := (look s.host.islands i).getD ⟨0, [], 0, false⟩

def State.setIsland (s : State) (i : Nat) (x : Island) : State :=
  { s with host := { s.host with islands := put s.host.islands i x } }

/-- Adds tiles and rings to a launch's masks in a floe (R244). -/
def noteMasks (s : State) (f lid tiles rings : Nat) : State :=
  s.onFloe f fun x =>
    let old := (x.masks.find? fun m => m.1 = lid).getD (lid, 0, 0)
    { x with masks := (lid, old.2.1 ||| tiles, old.2.2 ||| rings) :: x.masks.filter fun m => m.1 ≠ lid }

/-- The end or issue of an engine operation in its issuer's trace (R339). -/
def traceOp (s : State) (b : Issuer) (ty status addr : Nat) : State := traceFor s b.core b.slot ty b.corr status addr

/-- The status of a queued operation in a trace record (R234). -/
def stQueued : Nat := 1

/-! ### Instructions -/

/-- `mx.cfg` (R238). -/
def execMxCfg (a : Reg) (k : Fin 8) (s : State) : Host.Outcome State Fault Refusal :=
  let v := s.opX 0 a
  done (attempt s false [xr a] false
    (if k.val = 0 then retire { s with th := { s.th with mxshape := v } }
     else if k.val = 1 then retire { s with th := { s.th with mxdstr := v } }
     else trapIllegal s))

/-- The accumulator that a task names. -/
def Task.acc (t : Task) : Nat := tf t.desc 8 4

def Task.view (t : Task) : Option TaskView := viewTask t.desc t.shape t.stride

/-- Whether a task is a multiply–accumulate. -/
def Task.mac (t : Task) : Bool := !t.zero && tf t.desc 40 2 = 0

/-- Entries of the task queue: tasks not yet dispatched (R289). -/
def queueLen (x : Floe) : Nat := (x.tasks.filter fun t => t.run = .queued).length

/-- Whether a tile number is below a ring's tail (R70). -/
def below (c tail : Nat) : Bool := let d := (tail + 65536 - c) % 65536; 0 < d && d < 32768

/-- The tiles that a multiply–accumulate has claimed: ring, number and the bytes that it reads of each (R242). -/
def Task.claims (t : Task) : List (Nat × Nat × Nat) :=
  match t.view with
  | some v =>
    if t.mac then
      (List.range v.ks).flatMap fun i =>
        [(v.ra, (t.aTile + i) % 65536, tileNeed v v.a v.m), (v.rb, (t.bTile + i) % 65536, tileNeed v v.b v.n)]
    else []
  | none => []

/-- A task takes note of the tiles it has claimed that have arrived, and of their bytes (R291). -/
def Task.arrived (m : Memory) (f : Nat) (x : Floe) (t : Task) : Task :=
  t.claims.foldl (fun t c =>
    if below c.2.1 (x.ring c.1).tail && !(t.tiles.any fun e => e.1 = c.1 && e.2.1 = c.2.1) then
      { t with tiles := (c.1, c.2.1, Memory.put [] 0 (m.bytes (floeKey f ((x.ring c.1).at_ c.2.1)) c.2.2)) :: t.tiles }
    else t) t

/-- The tasks of a floe take note of tiles that have arrived. -/
def noteTiles (s : State) (f : Nat) : State :=
  s.onFloe f fun x => { x with tasks := x.tasks.map fun t => t.arrived s.mem.bytes f x }

/-- Appends a tile task, taking its tile numbers from its rings' claim counts (R242, R288). -/
def appendTask (s : State) (r : BitVec 256) (v : TaskView) (shape stride : Word) : State :=
  let f := s.myFloe
  let x := s.floe f
  let b := issuer s v.corr
  let ca := (x.ring v.ra).claim
  let cb := (x.ring v.rb).claim
  let t : Task := ⟨r, false, shape, stride, if v.op = 0 then ca else 0, if v.op = 0 then cb else 0, b, .queued, s.host.cycle, []⟩
  let bump (x : Floe) (q : Nat) : Floe := x.setRing q { x.ring q with claim := ((x.ring q).claim + v.ks) % 65536 }
  let x := if v.op = 0 then bump (bump x v.ra) v.rb else x
  let s := s.setFloe f { x with tasks := x.tasks ++ [t.arrived s.mem.bytes f x] }
  let s := noteMasks s f b.lid (2 ^ v.acc) (if v.op = 0 then 2 ^ v.ra ||| 2 ^ v.rb else 0)
  traceOp s b 5 stQueued 0

/-- Queues records one after another (R242); a full queue is waited for with the progress kept. `ok` says that the first record
has passed its check, before a wait. -/
def pushTasks (s : State) (d : Reg) (shape stride : Word) (ok : Bool) : List (BitVec 256) → Nat → State
  | [], q => retX s d (BitVec.ofNat 64 (256 * q))
  | r :: rest, q =>
    match (if ok then viewTask r shape stride else checkTask (s.floe s.myFloe) s.th.enc shape stride r) with
    | none => retX s d (BitVec.ofNat 64 (8 + 256 * q))
    | some v =>
      if 64 ≤ queueLen (s.floe s.myFloe) then poll { s with th := { s.th with hold := some ⟨q, r :: rest, [], shape, stride⟩ } }
      else pushTasks (appendTask s r v shape stride) d shape stride false rest (q + 1)

/-- The checks of one load of `n` 32-byte records (R183, R242). -/
def checkMany (s : State) (a : Nat) : Nat → State → State
  | 0, k => k
  | n + 1, k => access s .rd a 32 fun _ _ => checkMany s (a + 32) n k

/-- The records of a load whose checks have passed. -/
def loadMany (s : State) (a : Nat) : Nat → List (BitVec 256) × State
  | 0 => ([], s)
  | n + 1 =>
    match resolve s s.th.core s.tenant .rd a 32 with
    | .ok key cls =>
      let r := loadAt s a key 32 cls .hd false
      let t := loadMany r.2 (a + 32) n
      (BitVec.ofNat 256 r.1 :: t.1, t.2)
    | _ => ([], s)

/-- `mx.task` (R242). -/
def execMxTask (a b d : Reg) (s : State) : Host.Outcome State Fault Refusal :=
  let e := (s.opX 0 a).toNat
  let c := (s.opX 1 b).toNat
  done (attempt s false [xr a, xr b] false
    (match s.th.hold with
     | some h => pushTasks s d h.shape h.stride true h.recs h.queued
     | none =>
       if e % 32 ≠ 0 then trap s .misalign e 0
       else if c < 1 || 64 < c then trap s .prot 0 c
       else checkMany s e c
         (let r := loadMany s e c
          pushTasks r.2 d s.th.mxshape s.th.mxdstr false r.1 0)))

/-- Queues zeroing tasks one after another (R244). -/
def pushZeros (s : State) (d : Reg) : List Nat → State
  | [] => retX s d stOK
  | t :: rest =>
    if 64 ≤ queueLen (s.floe s.myFloe) then
      poll { s with th := { s.th with hold := some ⟨0, [], t :: rest, 0, 0⟩ } }
    else
      let b := issuer s 0
      let z : Task := ⟨BitVec.ofNat 256 (t * 256), true, 0, 0, 0, 0, b, .queued, s.host.cycle, []⟩
      let s := s.onFloe s.myFloe fun x => { x with tasks := x.tasks ++ [z] }
      let s := noteMasks s s.myFloe b.lid (2 ^ t) 0
      pushZeros (traceOp s b 5 stQueued 0) d rest

/-- `mx.zero` (R244). -/
def execMxZero (a d : Reg) (s : State) : Host.Outcome State Fault Refusal :=
  let v := (s.opX 0 a).toNat
  done (attempt s false [xr a] false
    (match s.th.hold with
     | some h => pushZeros s d h.zeros
     | none =>
       if 65536 ≤ v then retX s d stFAULT
       else pushZeros s d ((List.range 16).filter fun t => bits v t 1 = 1)))

/-- Whether a mask covers an accumulator: 0 covers every one (R244). -/
def covers (mask t : Nat) : Bool := mask = 0 || bits mask t 1 = 1

/-- `mx.wait` (R236, R244). -/
def execMxWait (a d : Reg) (s : State) : Host.Outcome State Fault Refusal :=
  let mask := (s.opX 0 a).toNat % 65536
  done (attempt s false [xr a] false
    (match coveredFailure s.th fun f => f.tile.any (covers mask) with
     | some f => trapEngine s f
     | none =>
       if (s.floe s.myFloe).tasks.any fun t => t.by_.tid = s.th.tid && covers mask t.acc then poll s
       else
         let te := s.th.mxTe.foldl (fun m p => if covers mask p.1 then max m p.2 else m) 0
         retX (s.raise te) d stOK))

/-- Whether a task that reads a ring is queued or running, or a fill to it is pending (R245). -/
def ringUsed (x : Floe) (q : Nat) : Bool :=
  (x.tasks.any fun t => t.mac && (tf t.desc 16 4 = q || tf t.desc 20 4 = q)) ||
  (x.copies.any fun c => bits c.regs[0].toNat 51 1 = 1 && bits c.regs[0].toNat 52 4 = q)

/-- A ring after `ring.cfg` (R245). -/
def Ring.config (w : Word) : Ring := ⟨true, 0, 0, 0, w, []⟩

/-- Whether a configuration word is good (R245). -/
def ringWordOk (w : Nat) : Bool :=
  bits w 52 12 = 0 && bits w 45 3 = 0 && bits w 13 19 = 0 && bits w 32 13 ≠ 0 && bits w 48 4 ≤ 6 &&
    bits w 0 13 * 256 + bits w 32 13 * 256 * 2 ^ bits w 48 4 ≤ 0x200000

/-- `ring.cfg` (R245). -/
def execRingCfg (a : Reg) (n : Fin 16) (s : State) : Host.Outcome State Fault Refusal :=
  let w := s.opX 0 a
  let f := s.myFloe
  done (attempt s false [xr a] false
    (if !ringWordOk w.toNat then trap s .prot 0 w.toNat
     else if ringUsed (s.floe f) n.val then poll s
     else retire (noteMasks (s.onFloe f fun x => x.setRing n.val (Ring.config w)) f s.th.lid 0 (2 ^ n.val))))

/-- Bits [127:64] of a ring's state (R245). -/
def Ring.stateHi (r : Ring) : Nat :=
  r.cfgd.toNat * 2 ^ 63 + r.claim % 65536 * 2 ^ 32 + r.tail % 65536 * 2 ^ 16 + r.head % 65536

/-- `ring.st` (R245). -/
def execRingSt (n : Fin 16) (d : Reg) (s : State) : Host.Outcome State Fault Refusal :=
  done (attempt s false [] false (retX s d (BitVec.ofNat 64 ((s.floe s.myFloe).ring n.val).stateHi)))

/-- `ring.reset` (R245). -/
def execRingReset (n : Fin 16) (d : Reg) (s : State) : Host.Outcome State Fault Refusal :=
  let f := s.myFloe
  done (attempt s false [] false
    (if ringUsed (s.floe f) n.val then retX s d stBUSY
     else
       let s := s.onFloe f fun x => x.setRing n.val { x.ring n.val with claim := 0, tail := 0, head := 0, marks := [] }
       retX (noteMasks s f s.th.lid 0 (2 ^ n.val)) d stOK))

/-! ### The end of a task -/

/-- The head advances over marked tiles at the head (R70, R293). -/
def Ring.pop : Nat → Ring → Ring
  | 0, r => r
  | n + 1, r =>
    if r.head ≠ r.tail && r.marks.contains r.head then
      Ring.pop n { r with head := (r.head + 1) % 65536, marks := r.marks.filter fun c => c ≠ r.head }
    else r

/-- Marks tiles of a configured ring as read. -/
def Ring.mark (r : Ring) (first ks : Nat) : Ring :=
  if r.cfgd then
    let new := (List.range ks).map fun i => (first + i) % 65536
    let r := { r with marks := r.marks ++ new.filter fun c => !r.marks.contains c }
    Ring.pop (r.marks.length + 1) r
  else r

/-- A task retires (R290, R293, R294): its tiles are marked, and a failure is recorded (R236). -/
def endTask (s : State) (f : Nat) (t : Task) (status addr : Nat) : State :=
  let s := if t.mac then
      s.onFloe f fun x =>
        let ks := tf t.desc 56 8
        let qa := tf t.desc 16 4
        let qb := tf t.desc 20 4
        let x := x.setRing qa ((x.ring qa).mark t.aTile ks)
        x.setRing qb ((x.ring qb).mark t.bTile ks)
    else s
  let s := if status = 0 then s else recordFail s t.by_.tid ⟨t.by_.since, t.by_.corr, status, 0, addr, some t.acc⟩
  traceOp s t.by_ 6 status addr

/-- Takes a task out of its floe. -/
def dropTask (s : State) (f i : Nat) : State := s.onFloe f fun x => { x with tasks := x.tasks.eraseIdx i }

/-! ### Dispatch -/

/-- The accumulator conditions of eligibility (R289): no older queued entry names the tile and no dispatched task holds it. -/
def accFree (ts : List Task) (i acc : Nat) : Bool :=
  !((ts.take i).any fun t => t.acc = acc) && !(ts.any fun t => t.run ≠ .queued && t.acc = acc)

/-- Whether a task can never see all its tiles (R290). -/
def hopeless (x : Floe) (t : Task) : Bool :=
  let ra := x.ring (tf t.desc 16 4)
  let rb := x.ring (tf t.desc 20 4)
  !ra.cfgd || !rb.cfgd || ra.cap < tf t.desc 56 8 || rb.cap < tf t.desc 56 8

/-- Whether a multiply–accumulate's first tiles have arrived (R289). -/
def tilesHere (x : Floe) (t : Task) : Bool :=
  below t.aTile (x.ring (tf t.desc 16 4)).tail && below t.bTile (x.ring (tf t.desc 20 4)).tail

/-- The engine that a task runs on, and its work. -/
def Task.engine (t : Task) : Option (Nat × Nat) :=
  match t.run with
  | .engine k w => some (k, w)
  | _ => none

/-- The drain path's cycles left for a task. -/
def Task.draining (t : Task) : Option Nat :=
  match t.run with
  | .drain n => some n
  | _ => none

/-- The first task in queue order with free accumulator conditions that a test selects. -/
def findTask (x : Floe) (p : Task → Bool) : Option (Nat × Task) :=
  (List.range x.tasks.length).findSome? fun i =>
    match x.tasks[i]? with
    | some t => if t.run = .queued && p t && accFree x.tasks i t.acc then some (i, t) else none
    | none => none

def setRun (s : State) (f i : Nat) (r : TaskRun) : State :=
  s.onFloe f fun x => { x with tasks := x.tasks.modify i fun t => { t with run := r } }

/-- One dispatch of R289 step 1 and 2, or one end of R290; none when there is nothing to do. -/
def dispatchOne (s : State) (f : Nat) : Option State :=
  let x := s.floe f
  match findTask x fun t => t.mac && hopeless x t with
  | some (i, t) => some (endTask (dropTask s f i) f t 8 0)
  | none =>
    match (List.range 4).find? fun k => !(x.tasks.any fun t => (t.engine.map (·.1)) = some k),
        findTask x fun t => t.mac && tilesHere x t with
    | some k, some (i, _) => some (setRun s f i (.engine k 0))
    | _, _ => none

def dispatchLoop (f : Nat) : Nat → State → State
  | 0, s => s
  | n + 1, s =>
    match dispatchOne s f with
    | some s' => dispatchLoop f n s'
    | none => s

/-- Cycles of a drain or zeroing task on the drain path (R294). -/
def Task.drainTime (t : Task) : Nat :=
  if t.zero then 16
  else
    match t.view with
    | some v => max 1 ((v.m * v.n * (v.dfmt.width / 8) + 255) / 256)
    | none => 1

/-- R289 step 3. -/
def dispatchDrain (s : State) (f : Nat) : State :=
  let x := s.floe f
  if x.tasks.any fun t => t.draining.isSome then s
  else
    match findTask x fun t => !t.mac with
    | some (i, t) => setRun s f i (.drain t.drainTime)
    | none => s

/-- The scheduler of a floe in one cycle (R289, R290). -/
def dispatchFloe (s : State) (f : Nat) : State := dispatchDrain (dispatchLoop f ((s.floe f).tasks.length + 1) s) f

/-- TASK_DISPATCH (R289, R290, R342) in a floe. -/
def execTaskDispatch (s : State) : Host.Outcome State Fault Refusal := done (dispatchFloe s s.input.floe)

/-! ### The limiter and the engines -/

/-- The ramp table (R296): Chirnaore refuses a table that breaks the rule and keeps the default. -/
def rampOf (s : State) : List Nat :=
  let ok (l : List Nat) : Bool :=
    l.length = 8 && l.all (fun e => 1 ≤ e && e ≤ 32) && l.getLast? = some 32 &&
      (l.zip (l.drop 1)).all fun p => p.1 ≤ p.2
  match s.host.cfg with
  | some c => if ok c.ramp then c.ramp else [4, 8, 12, 16, 20, 24, 28, 32]
  | none => [4, 8, 12, 16, 20, 24, 28, 32]

/-- A limiter request (R297): age, island engine number, floe and engine. -/
structure Request where
  age : Nat
  ie  : Nat
  f   : Nat
  k   : Nat
  deriving DecidableEq, Repr

def insertReq (r : Request) : List Request → List Request
  | [] => [r]
  | q :: t => if r.age < q.age || (r.age = q.age && r.ie < q.ie) then r :: q :: t else q :: insertReq r t

/-- The requests of an island, oldest first, ties to the lower island engine (R297). -/
def requests (s : State) (i : Nat) : List Request :=
  let (f0, f1) := floesOfIsland i
  let of (f base : Nat) : List Request :=
    (s.floe f).tasks.filterMap fun t => t.engine.map fun e => ⟨t.age, base + e.1, f, e.1⟩
  (of f0 0 ++ of f1 4).foldl (fun l r => insertReq r l) []

/-- One round of dealing: a quarter to each request that holds fewer than 4, while the limit lasts (R297). -/
def dealRound (limit : Nat) : List Nat → Nat → List Nat × Nat
  | [], g => ([], g)
  | h :: t, g =>
    if h < 4 && g < limit then let r := dealRound limit t (g + 1); ((h + 1) :: r.1, r.2)
    else let r := dealRound limit t g; (h :: r.1, r.2)

/-- The quarters dealt to `n` requests and their total (R297). -/
def deal (limit n : Nat) : List Nat × Nat :=
  iterate 4 (fun _ p => dealRound limit p.1 p.2) (List.replicate n 0, 0)

/-- How much of its work a task can do with the tiles that have arrived (R290). -/
def workCap (x : Floe) (t : Task) (v : TaskView) : Nat :=
  let a := (x.ring v.ra).tail
  let b := (x.ring v.rb).tail
  let here := ((List.range v.ks).takeWhile fun i =>
    below ((t.aTile + i) % 65536) a && below ((t.bTile + i) % 65536) b).length
  if here = v.ks then v.need else here * v.need / v.ks

/-- The work of a task in a cycle at `q` quarters (R292). -/
def Task.work (x : Floe) (q : Nat) (t : Task) : Task :=
  match t.run, t.view with
  | .engine k w, some v => { t with run := .engine k (max w (min (workCap x t v) (w + q))) }
  | _, _ => t

/-- The quarters granted to an engine in a step. -/
def grantOf (g : List (Nat × Nat × Nat)) (f k : Nat) : Nat :=
  match g.find? fun e => e.1 = f && e.2.1 = k with
  | some e => e.2.2
  | none => 0

/-- A step of an island's limiter starts in this cycle: its count is a multiple of 4, and the step has not begun (R295). -/
def stepDue (s : State) (i : Nat) : Bool := s.host.cycle % 4 = 0 && (s.island i).due ≤ s.host.cycle

/-- The start of a limiter step (R295 to R298): its deal and its activity. -/
def limiterStep (s : State) (i : Nat) : State :=
  if stepDue s i then
    let p := (s.island i).prev
    let limit := ((rampOf s).find? fun e => p < e).getD 32
    let reqs := requests s i
    let (q, g) := deal limit reqs.length
    s.setIsland i { s.island i with
      prev := max g (p - 4), grants := (reqs.zip q).map fun e => (e.1.f, e.1.k, e.2), due := s.host.cycle + 4 }
  else s

/-- LIMITER_STEP (R295 to R298) of an island. -/
def execLimiterStep (s : State) : Host.Outcome State Fault Refusal := done (limiterStep s s.input.island)

/-- The work of a floe's engines and of its drain path in one cycle (R292, R294). -/
def workFloe (s : State) (f : Nat) : State :=
  let grants := (s.island (islandOfFloe f)).grants
  s.onFloe f fun x => { x with tasks := x.tasks.map fun t =>
    match t.run with
    | .engine k _ => t.work x (grantOf grants f k)
    | .drain n => { t with run := .drain (n - 1) }
    | .queued => t }

/-- An engine whose task has retired does no more work in the step: its quarters are filler (R295). -/
def dropGrant (s : State) (f k : Nat) : State :=
  let i := s.island (islandOfFloe f)
  s.setIsland (islandOfFloe f) { i with grants := i.grants.filter fun e => !(e.1 = f && e.2.1 = k) }

/-! ### Retirement -/

/-- The first poisoned place among a task's tiles: its address (R367). -/
def poisonedTile (s : State) (f : Nat) (v : TaskView) (t : Task) : Option Nat :=
  let ra := (s.floe f).ring v.ra
  let rb := (s.floe f).ring v.rb
  (List.range v.ks).findSome? fun i =>
    if poisoned s (stepKey f ra t.aTile i) (tileNeed v v.a v.m) then some (stepKey f ra t.aTile i)
    else if poisoned s (stepKey f rb t.bTile i) (tileNeed v v.b v.n) then some (stepKey f rb t.bTile i)
    else none

/-- Memory with a task's tiles as it reads them (R291). -/
def readTiles (s : State) (f : Nat) (v : TaskView) (t : Task) : Memory :=
  t.tiles.foldl (fun m e =>
    mixTile m s.fresh (floeKey f (((s.floe f).ring e.1).at_ e.2.1))
      (if e.1 = v.ra then tileNeed v v.a v.m else tileNeed v v.b v.n) (if e.1 = v.ra then v.a.width else v.b.width) e.2.2)
    s.mem.bytes

/-- Whether an accumulator element of a task's shape is poisoned (R367). -/
def poisonedAcc (s : State) (f : Nat) (v : TaskView) : Bool :=
  (List.range v.m).any fun i => poisoned s (accKey f v i 0) (v.n * (v.accF.width / 8))

/-- Retires the multiply–accumulate of engine `k` when its work is done (R293, R243). -/
def retireMac (s : State) (f k : Nat) : State :=
  match (s.floe f).tasks.findIdx? fun t => t.engine.map (·.1) = some k with
  | none => s
  | some i =>
    match (s.floe f).tasks[i]? with
    | none => s
    | some t =>
      match t.engine, t.view with
      | some (_, w), some v =>
        if w < v.need then s
        else
          let s' := dropGrant (dropTask s f i) f k
          match poisonedTile s f v t with
          | some a => endTask s' f t 8 a
          | none =>
            if poisonedAcc s f v then endTask s' f t 8 0
            else endTask (s'.onMem fun m => { m with bytes := macBytes s (readTiles s f v t) f v t.aTile t.bTile }) f t 0 0
      | _, _ => s

/-- TASK_RETIRE (R293) of an engine of a floe. -/
def execTaskRetire (s : State) : Host.Outcome State Fault Refusal := done (retireMac s s.input.floe s.input.port)

/-- The task on a floe's drain path whose cycles have run out. -/
def drained (x : Floe) (p : Task → Bool) : Option (Nat × Task) :=
  (List.range x.tasks.length).findSome? fun i =>
    match x.tasks[i]? with
    | some t => if t.run = .drain 0 && p t then some (i, t) else none
    | none => none

/-- The end of a zeroing task whose cycles have run out (R294). -/
def retireZero (s : State) (f : Nat) : State :=
  match drained (s.floe f) fun t => t.zero with
  | none => s
  | some (i, t) => endTask ((dropTask s f i).onMem fun m => zeroTile m f t.acc) f t 0 0

/-- ZERO_TASK_RETIRE (R294) of a floe. -/
def execZeroTaskRetire (s : State) : Host.Outcome State Fault Refusal := done (retireZero s s.input.floe)

/-- The address of element (i, j) of a drain (R243). -/
def drainAddr (v : TaskView) (i j : Nat) : Nat :=
  (BitVec.ofInt 64 (v.dst + i * v.stride + (j * (v.dfmt.width / 8) : Nat))).toNat

/-- The rows that a drain writes. -/
def drainRows (v : TaskView) : List (Nat × Nat) :=
  (List.range v.m).map fun i => (drainAddr v i 0, v.n * (v.dfmt.width / 8))

/-- The bits of element (i, j) that a drain writes. -/
def drainElem (s : State) (f : Nat) (v : TaskView) (c : Nat × Nat) : Nat :=
  drainBits v (s.mem.bytes.read (accKey f v c.1 c.2) (v.accF.width / 8))

/-- A drain in mode 1 (R243, R294): every element is combined at its home, or at the owner of another package's memory, as
`red.add` does. -/
def drainReduce (s : State) (f : Nat) (v : TaskView) (b : Issuer) (te : Nat) (sp : List Span) : State :=
  let s0 := sp.foldl (fun s x =>
    if x.cls = .hc then s.setLine ⟨x.a / 256, te, te, none⟩ else handOver s x.a x.cls) s
  (cells v).foldl (fun s' c =>
    let a := drainAddr v c.1 c.2
    let x := drainElem s f v c
    match resolveE s' b.core b.tenant .wr a with
    | .ok key cls =>
      let s' := s'.onMem fun m => reduce m 0 v.dfmt (atomicKey s' key cls) x
      if cls = .peer then s' else contributeValue s' a (v.dfmt.val x)
    | _ => s') s0

/-- A drain as one engine operation (R93, R243): FAULT at an address, a wait, or the state and its order point. -/
def drainOp (s : State) (f : Nat) (v : TaskView) (b : Issuer) : EngineEnd :=
  if v.dst % (v.dfmt.width / 8) ≠ 0 then .fault v.dst
  else if poisonedAcc s f v then .fault 0
  else if v.red then
    match spansList s b.core b.tenant .wr (drainRows v) with
    | .fault a => .fault a
    | .wait => .wait
    | .ok sp =>
      match sp.find? fun x => x.cls = .bank with
      | some x => .fault x.a
      | none => let te := engineTe s b.ti [] sp; .done (drainReduce s f v b te sp) te
  else engineOp s b.core b.tenant b.ti [] (drainRows v) fun _ =>
    (cells v).flatMap fun c => leBytes (v.dfmt.width / 8) (drainElem s f v c)

/-- What precedes an engine's accesses of ranges, with their retention hint (R68, R352). -/
def settleRows (s : State) (l : List (Nat × Nat)) (h : Hint := .hd) : State := l.foldl (fun s r => settleHint s r.1 r.2 h) s

/-- The pages of ranges that an engine operation of a launch is about to write (R340). -/
def noteRows (s : State) (lid : Nat) (l : List (Nat × Nat)) : State :=
  if s.host.replayState = 1 then l.foldl (fun s r => noteRange s lid r.1 r.2) s else s

/-- Records the order point of a drain with its issuer (R92). -/
def noteTe (s : State) (tid acc te : Nat) : State :=
  onThread s tid fun t => { t with mxTe := put t.mxTe acc (max te ((look t.mxTe acc).getD 0)) }

/-- The end of a drain whose cycles have run out (R294, R356). -/
def retireDrain (s : State) (f : Nat) : State :=
  match drained (s.floe f) fun t => !t.zero with
  | none => s
  | some (i, t) =>
    match t.view with
    | none => s
    | some v =>
      let s := noteRows (settleRows s (drainRows v) (hintOf (tf t.desc 44 2))) t.by_.lid (drainRows v)
      match drainOp s f v t.by_ with
      | .wait => s
      | .fault a => endTask (dropTask s f i) f t 8 a
      | .done s' te =>
        let s' := dropTask s' f i
        let s' := if v.op = 2 then s'.onMem fun m => zeroTile m f t.acc else s'
        endTask (noteTe s' t.by_.tid t.acc te) f t 0 0

/-- DRAIN_RETIRE (R294, R356) of a floe. -/
def execDrainRetire (s : State) : Host.Outcome State Fault Refusal := done (retireDrain s s.input.floe)

/-! ### A cycle of the floes' matrix work -/

/-- The retirements at the end of a cycle (R293, R294). -/
def retireFloe (s : State) (f : Nat) : State :=
  let s := (List.range 4).foldl (fun s k => retireMac s f k) s
  retireDrain (retireZero s f) f

/-- The islands whose limiter has requests or a memory of them (R297). -/
def limiterIslands (s : State) : List Nat :=
  let busy := (s.floes.filter fun f => f.2.tasks.any fun t => t.engine.isSome).map fun f => islandOfFloe f.1
  let prev := (s.host.islands.filter fun i => i.2.prev ≠ 0).map (·.1)
  (busy ++ prev).foldl addOff []

/-- Whether no floe has matrix work, and every island is idle. -/
def matrixIdle (s : State) : Bool := (s.floes.all fun f => f.2.tasks = []) && s.host.islands.all fun i => i.2.prev = 0

/-- One cycle of the schedulers, the limiters, the engines and the drain paths (R289, R292, R295, R342), after what is issued in
it. -/
def matrixCycle (s : State) : State :=
  if matrixIdle s then s
  else
    let fs := (s.floes.filter fun f => f.2.tasks ≠ []).map (·.1)
    let s := fs.foldl dispatchFloe s
    let s := (limiterIslands s).foldl limiterStep s
    let s := fs.foldl workFloe s
    fs.foldl retireFloe s

end Sys2Proof.Machine
end

