-- ==== Sys2Proof/Machine/CopyEngine.lean ====
section
/-! DEFINITION. The copy engine (R71, R72, R246 to R248, R341): its registers, queuing a command, moving its data, and its
end. -/

namespace Sys2Proof.Machine

set_option linter.unusedVariables false

/-- `cp.set` (R246). -/
def execCpSet (a : Reg) (k : Fin 8) (s : State) : Host.Outcome State Fault Refusal :=
  let v := s.opX 0 a
  done (attempt s false [xr a] false
    (if h : k.val < 7 then retire { s with th := { s.th with cp := s.th.cp.set k.val v } } else trapIllegal s))

/-- This thread's commands queued or running. -/
def copiesOf (s : State) (t : Thread) : Nat :=
  ((s.floe (floeOfCore t.core)).copies.filter fun c => c.by_.tid = t.tid).length

/-- CPSTAT (R246). -/
def cpStat (s : State) (t : Thread) : Nat :=
  t.cpCorr.toNat * 2 ^ 32 + copiesOf s t % 256 * 2 ^ 8 + t.cpStale.toNat * 2 ^ 4 + t.cpStatus % 16

/-- `cp.get` (R246). -/
def execCpGet (d : Reg) (k : Fin 8) (s : State) : Host.Outcome State Fault Refusal :=
  done (attempt s false [] false
    (retX s d (if h : k.val < 7 then s.th.cp[k.val] else BitVec.ofNat 64 (cpStat s s.th))))

/-- The fields of a command's CPX and strides (R246, R247). -/
structure CopyView where
  dmask : Nat
  ring  : Nat
  rf    : Bool
  tr    : Bool
  /-- Element bytes (R341). -/
  esz   : Nat
  e2    : Nat
  e1    : Nat
  e0    : Nat
  ss1   : Int
  ss2   : Int
  ds1   : Int
  ds2   : Int
  deriving DecidableEq, Repr

def CopyCmd.view (c : CopyCmd) : CopyView :=
  let x := c.regs[0].toNat
  { dmask := bits x 56 8, ring := bits x 52 4, rf := bits x 51 1 = 1, tr := bits x 50 1 = 1, esz := 2 ^ bits x 48 2,
    e2 := bits x 32 16, e1 := bits x 16 16, e0 := bits x 0 16,
    ss1 := c.regs[1].toInt, ss2 := c.regs[2].toInt, ds1 := c.regs[3].toInt, ds2 := c.regs[4].toInt }

/-- `cp.go` past its checks: the command is queued, or a full queue is waited for (R71, R247). -/
def copyQueue (s : State) (src dst : Word) : State :=
  let f := s.myFloe
  if 32 ≤ (s.floe f).copies.length then poll s
  else
    let done := s.th.cp[5].toNat
    let inc := match s.bar done with
      | some b => b.inc
      | none => 0
    let b := issuer s (bits s.th.cp[6].toNat 32 32)
    let c : CopyCmd := ⟨s.th.cp, src, dst, inc, 0, b, false, none, 0⟩
    let s := s.onFloe f fun x => { x with copies := x.copies ++ [c] }
    let s := if c.view.rf then noteMasks s f b.lid 0 (2 ^ c.view.ring) else s
    retire (traceOp s b 5 stQueued 0)

/-- `cp.go` (R247). -/
def execCpGo (a b : Reg) (s : State) : Host.Outcome State Fault Refusal :=
  let src := s.opX 0 a
  let dst := s.opX 1 b
  let h := s.th.cp[5].toNat
  done (attempt s false [xr a, xr b] false
    (if h = 0 then copyQueue s src dst else onHandle s h .bar (copyQueue s src dst)))

/-- `cp.wait` (R236, R248). -/
def execCpWait (d : Reg) (s : State) : Host.Outcome State Fault Refusal :=
  done (attempt s false [] false
    (match coveredFailure s.th fun f => f.tile.isNone with
     | some f => trapEngine s f
     | none =>
       if 0 < copiesOf s s.th then poll s
       else
         let s1 := s.raise s.th.cpTe
         if s.th.cpStale then retX { s1 with th := { s1.th with cpStale := false } } d stSTALE
         else retX s1 d stOK))

/-! ### Moving data -/

/-- An address from an integer, modulo 2^64. -/
def wrapA (i : Int) : Nat := (BitVec.ofInt 64 i).toNat

/-- Source rows of one index of dimension 2: e1 runs of e0 elements (R247). -/
def srcRows (c : CopyCmd) (v : CopyView) (i2 : Nat) : List (Nat × Nat) :=
  (List.range v.e1).map fun (i1 : Nat) => (wrapA (c.src.toNat + i1 * v.ss1 + i2 * v.ss2), v.e0 * v.esz)

/-- Destination runs of one index of dimension 2 from a base, in the order of the source bytes (R247). -/
def dstRows (v : CopyView) (base : Int) : List (Nat × Nat) :=
  if v.tr then
    (List.range v.e1).flatMap fun (i1 : Nat) =>
      (List.range v.e0).map fun (i0 : Nat) => (wrapA (base + (i1 * v.esz : Nat) + i0 * v.ds1), v.esz)
  else (List.range v.e1).map fun (i1 : Nat) => (wrapA (base + i1 * v.ds1), v.e0 * v.esz)

/-- Whether an address lies in a synchronisation or event-unit window. -/
def inSyncOrEvent (a : Nat) : Bool :=
  match region a with
  | .sync _ _ | .event _ _ => true
  | _ => false

/-- The first element address of a list of runs in such a window (R247, R363). -/
def badRun (esz : Nat) (l : List (Nat × Nat)) : Option Nat :=
  l.findSome? fun r => (List.range (r.2 / esz)).findSome? fun i =>
    let a := (r.1 + i * esz) % 2 ^ 64
    if inSyncOrEvent a then some a
    else if inSyncOrEvent ((a + esz - 1) % 2 ^ 64) then some ((a + esz - 1) % 2 ^ 64)
    else none

/-- The check before a command moves data: the failing address (R72, R247). -/
def copyBad (x : Floe) (c : CopyCmd) : Option Nat :=
  let v := c.view
  let r := x.ring v.ring
  let (a, b) := if v.tr then (v.e1, v.e0) else (v.e0, v.e1)
  let span : Int := ((b : Int) - 1) * v.ds1 + (a * v.esz : Nat)
  if bits c.regs[6].toNat 20 12 ≠ 0 then some 0
  else if v.rf && (c.dst ≠ 0 || v.dmask ≠ 0 || !r.cfgd || (r.tile : Int) < span) then some c.dst.toNat
  else if v.dmask ≠ 0 && (match region c.dst.toNat with | .scratch _ => false | _ => true) then some c.dst.toNat
  else if v.e0 = 0 || v.e1 = 0 || v.e2 = 0 then none
  else
    match badRun v.esz ((List.range v.e2).flatMap (srcRows c v)) with
    | some a => some a
    | none =>
      if v.rf then none
      else badRun v.esz ((List.range v.e2).flatMap fun (i2 : Nat) => dstRows v (c.dst.toNat + i2 * v.ds2))

/-- The cores that receive a command's bytes (R72): the issuer, or the cores that the mask names. -/
def copyCores (f : Nat) (c : CopyCmd) : List Nat :=
  let v := c.view
  if v.dmask = 0 then [c.by_.core]
  else ((List.range 8).filter fun i => bits v.dmask i 1 = 1).map (coreOfFloe f)

/-- The destination spans of every receiving core; a core outside the tenant's sub-mesh is a fault (R37). -/
def coreSpans (s : State) (tenant : Nat) (dst : List (Nat × Nat)) : List Nat → Except Fit (List (Nat × List Span))
  | [] => .ok []
  | k :: t =>
    if s.tenantOf k ≠ tenant then .error (.fault ((dst.map (·.1)).headD 0))
    else
      match spansList s k tenant .wr dst with
      | .ok l =>
        match coreSpans s tenant dst t with
        | .ok r => .ok ((k, l) :: r)
        | e => e
      | f => .error f

/-- One engine operation of a copy: source runs to destination runs in every receiving core (R93, R247). -/
def copyOp (s : State) (f : Nat) (c : CopyCmd) (src dst : List (Nat × Nat)) : EngineEnd :=
  let b := c.by_
  match spansList s b.core b.tenant .rd src with
  | .fault a => .fault a
  | .wait => .wait
  | .ok ss =>
    match coreSpans s b.tenant dst (copyCores f c) with
    | .error (.fault a) => .fault a
    | .error _ => .wait
    | .ok ds =>
      let te := engineTe s b.ti ss (ds.flatMap (·.2))
      let bs := engineRead s ss
      .done (engineLease (ds.foldl (fun s d => engineWrite s d.1 te d.2 bs) s) te ss) te

/-- What precedes a copy's accesses: expansion and the fill of L2 with its retention hints (R68, R246, R352). -/
def CopyCmd.settle (c : CopyCmd) (s : State) (src dst : List (Nat × Nat)) : State :=
  let h := c.regs[6].toNat
  settleRows (settleRows s src (hintOf (bits h 16 2))) dst (hintOf (bits h 18 2))

/-- Updates the command at the head of a floe's queue. -/
def onHead (s : State) (f : Nat) (g : CopyCmd → CopyCmd) : State :=
  s.onFloe f fun x => { x with copies := match x.copies with | [] => [] | c :: t => g c :: t }

/-- COPY_START (R247) of a floe: the checks, and the whole move of a command that fills no ring. -/
def execCopyStart (s : State) : Host.Outcome State Fault Refusal :=
  let f := s.input.floe
  done (match (s.floe f).copies with
    | [] => s
    | c :: _ =>
      if c.run || c.status.isSome then s
      else
        let v := c.view
        match copyBad (s.floe f) c with
        | some a => onHead s f fun c => { c with status := some (8, a) }
        | none =>
          if v.e0 = 0 || v.e1 = 0 || v.e2 = 0 || v.e2 ≤ c.prog then
            onHead s f fun c => { c with status := some (0, 0), te := max c.te c.by_.ti }
          else if v.rf then onHead s f fun c => { c with run := true }
          else
            let src := (List.range v.e2).flatMap (srcRows c v)
            let dst := (List.range v.e2).flatMap fun (i2 : Nat) => dstRows v (c.dst.toNat + i2 * v.ds2)
            let s := noteRows (c.settle s src dst) c.by_.lid dst
            match copyOp s f c src dst with
            | .wait => s
            | .fault a => onHead s f fun c => { c with status := some (8, a) }
            | .done s' te => onHead s' f fun c => { c with status := some (0, 0), te := te })

/-- COPY_RING_TILE (R70, R247) of a floe: the next tile of a ring fill, once the ring has room. -/
def execCopyRingTile (s : State) : Host.Outcome State Fault Refusal :=
  let f := s.input.floe
  done (match (s.floe f).copies with
    | [] => s
    | c :: _ =>
      let v := c.view
      let r := (s.floe f).ring v.ring
      if !c.run || c.status.isSome || (r.tail + 65536 - r.head) % 65536 = r.cap then s
      else
        let src := srcRows c v c.prog
        let dst := dstRows v (floeKey f (r.at_ r.tail) : Nat)
        let s := c.settle s src []
        match copyOp s f c src dst with
        | .wait => s
        | .fault a => onHead s f fun c => { c with status := some (8, a) }
        | .done s' te =>
          let s' := s'.onFloe f fun x =>
            let r := x.ring v.ring
            x.setRing v.ring (Ring.pop (r.marks.length + 1) { r with tail := (r.tail + 1) % 65536 })
          onHead (noteTiles s' f) f fun c => { c with
            prog := c.prog + 1, te := max c.te te, status := if v.e2 ≤ c.prog + 1 then some (0, 0) else none })

/-- The completion arrival of an operation at a barrier, or its break (R236, R248); whether the arrival was stale. -/
def completeOn (s : State) (h inc phase status te : Nat) : Bool × State :=
  if h = 0 then (false, s)
  else if status = 8 then (false, engineBreak s h inc)
  else
    let r := barArrive s h inc phase none te
    (r.1 = 3, r.2)

/-- COPY_COMPLETE (R236, R248, R355) of a floe. -/
def execCopyComplete (s : State) : Host.Outcome State Fault Refusal :=
  let f := s.input.floe
  done (match (s.floe f).copies with
    | [] => s
    | c :: t =>
      match c.status with
      | none => s
      | some (st, a) =>
        let b := c.by_
        let s := s.onFloe f fun x => { x with copies := t }
        let s := if st = 0 then s else recordFail s b.tid ⟨b.since, b.corr, st, 0, a, none⟩
        let r := completeOn s c.regs[5].toNat c.inc (bits c.regs[6].toNat 0 16) st c.te
        let s := onThread r.2 b.tid fun t => { t with
          cpCorr := BitVec.ofNat 32 b.corr, cpStatus := st, cpStale := t.cpStale || r.1, cpTe := max t.cpTe c.te }
        traceOp s b 6 st a)

end Sys2Proof.Machine
end

