-- ==== Sys2Proof/Machine/Csr.lean ====
section
/-! DEFINITION. CSRs (R29, R85, R107, R110, R117, R131, R141, R201 to R205) and the return from a trap (R200). -/

namespace Sys2Proof.Machine

set_option linter.unusedVariables false

/-- Limits a value to a range (R85, R131). -/
def clamp (lo hi v : Nat) : Nat := max lo (min hi v)

/-- `lcore` and `lrect` (R29). -/
def lcoreOf (t : Thread) (l : Launch) : Nat :=
  let lx := t.core % 64 - l.x0
  let ly := t.core / 64 - l.y0
  (ly * 2 ^ l.wlog + lx) * 2 ^ 16 + ly * 2 ^ 6 + lx

def lrectOf (l : Launch) : Nat :=
  l.prio * 2 ^ 48 + l.lid * 2 ^ 32 + l.y0 * 2 ^ 24 + l.x0 * 2 ^ 16 + l.hlog * 2 ^ 4 + l.wlog

/-- `xstat` as it reads (R204). -/
def xstatOf (t : Thread) : Nat :=
  t.xrep.toNat * 2 ^ 31 + t.xrlen.toNat * 2 ^ 16 + t.xridx.toNat * 2 ^ 4 + t.inh.toNat * 2 ^ 3

/-- A core's performance counters (R205); untouched ones read 0. -/
def State.pmu (s : State) (core : Nat) : Pmu :=
  (s.host.pmu.find? fun p => p.core = core).getD ⟨core, Vector.replicate 4 0, Vector.replicate 4 0⟩

def State.setPmu (s : State) (p : Pmu) : State :=
  { s with host := { s.host with pmu := p :: s.host.pmu.filter fun q => q.core ≠ p.core } }

/-- The per-slot CSRs of a thread that do not depend on anything else (R202). -/
def Thread.csr (t : Thread) (c : Nat) : Option Nat :=
  match c with
  | 0x014 => some t.corr.toNat
  | 0x020 => some t.frm.toNat
  | 0x021 => some t.fflags.toNat
  | 0x022 => some t.srseed.toNat
  | 0x023 => some (t.key.toNat * 2 ^ 48 + t.draw.toNat)
  | 0x024 => some t.gran
  | 0x030 => some t.lease
  | 0x031 => some t.rimewin
  | 0x040 => some t.chk.toNat
  | 0x100 => some t.xcause.toNat
  | 0x101 => some t.xaddr.toNat
  | 0x102 => some t.xpc.toNat
  | 0x103 => some t.xval.toNat
  | 0x104 => some t.xvec.toNat
  | 0x105 => some (xstatOf t)
  | 0x106 => some t.xrcnt.toNat
  | _ => none

/-- The value of a CSR; none for a number that R202 does not list. -/
def csrRead (s : State) (c : Nat) : Option Nat :=
  match c with
  | 0x010 => some (match s.launch s.th.lid with | some l => lcoreOf s.th l | none => 0)
  | 0x011 => some (match s.launch s.th.lid with | some l => lrectOf l | none => 0)
  | 0x012 => some s.th.core
  | 0x013 => some s.tenant
  | 0x018 => some s.ptime
  | 0x019 => some s.host.cycle
  | 0x200 | 0x201 | 0x202 | 0x203 => some ((s.pmu s.th.core).sel[Fin.ofNat 4 c]).toNat
  | 0x208 | 0x209 | 0x20A | 0x20B => some ((s.pmu s.th.core).cnt[Fin.ofNat 4 c]).toNat
  | c => s.th.csr c

/-- The read-only CSRs (R202). -/
def csrReadOnly (c : Nat) : Bool := [0x010, 0x011, 0x012, 0x013, 0x018, 0x019, 0x024].contains c

/-- A write of `pcselN` (R205): reserved bits ignored, a reserved event stored as 0. -/
def pcsel (v : Word) : Word :=
  let ev := v.toNat % 256
  BitVec.ofNat 64 ((v &&& 0x9D00).toNat + if ev ≤ 0x0D then ev else 0)

/-- The write of a writable per-slot CSR (R85, R107, R110, R117, R131, R141, R203, R204). -/
def Thread.csrSet (t : Thread) (c : Nat) (v : Word) : Thread :=
  match c with
  | 0x014 => { t with corr := v.setWidth 32 }
  | 0x020 => { t with frm := v.setWidth 3 }
  | 0x021 => { t with fflags := v.setWidth 6 }
  | 0x022 => { t with srseed := v }
  | 0x023 => { t with draw := v.setWidth 48 }
  | 0x030 => { t with lease := clamp 64 4096 v.toNat }
  | 0x031 => { t with rimewin := clamp 256 65536 v.toNat }
  | 0x040 => { t with chk := v.getLsbD 0 }
  | 0x100 => { t with xcause := v.setWidth 8 }
  | 0x101 => { t with xaddr := v }
  | 0x102 => { t with xpc := v }
  | 0x103 => { t with xval := v }
  | 0x104 => { t with xvec := v &&& (BitVec.allOnes 64 - 3) }
  | 0x105 => { t with
      xrep := v.getLsbD 31, xrlen := (v >>> 16).setWidth 12, xridx := (v >>> 4).setWidth 12 }
  | 0x106 => { t with xrcnt := v }
  | _ => t

/-- The write of a writable CSR. -/
def csrSet (s : State) (c : Nat) (v : Word) : State :=
  if 0x200 ≤ c && c < 0x204 then
    let p := s.pmu s.th.core
    s.setPmu { p with sel := p.sel.set (Fin.ofNat 4 c) (pcsel v) }
  else if 0x208 ≤ c && c < 0x20C then
    let p := s.pmu s.th.core
    s.setPmu { p with cnt := p.cnt.set (Fin.ofNat 4 c) v }
  else { s with th := s.th.csrSet c v }

/-- A CSR instruction (R201): `new` is the value written, none where the form writes nothing. It waits until every
fixed-latency result has landed (R139). A write that sets `xstat`.go returns from the handler (R200). -/
def csrOp (s : State) (d a : Reg) (c : BitVec 12) (new : Word → Word → Option Word) : State :=
  let n := c.toNat
  match csrRead s n with
  | none => trapIllegal s
  | some old =>
    attempt s false [xr a] false
      (let s := { s with th := { s.th with pend := s.th.pend.map fun p => { p with landed := true } } }
       match new (BitVec.ofNat 64 old) (s.opX 0 a) with
       | none => retX s d (BitVec.ofNat 64 old)
       | some v =>
         if csrReadOnly n then trap s .priv 0 n
         else if n = 0x105 && v.getLsbD 63 then
           if s.th.inh then trapReturn ((csrSet s n v).wrX d (BitVec.ofNat 64 old)) else trap s .priv 0 n
         else retX (csrSet s n v) d (BitVec.ofNat 64 old))

/-- `csrrw` (R201). -/
def execCsrrw (d a : Reg) (c : BitVec 12) (s : State) : Host.Outcome State Fault Refusal :=
  done (csrOp s d a c fun _ v => some v)

/-- `csrrs` (R201). -/
def execCsrrs (d a : Reg) (c : BitVec 12) (s : State) : Host.Outcome State Fault Refusal :=
  done (csrOp s d a c fun old v => if a = 0 then none else some (old ||| v))

/-- `csrrc` (R201). -/
def execCsrrc (d a : Reg) (c : BitVec 12) (s : State) : Host.Outcome State Fault Refusal :=
  done (csrOp s d a c fun old v => if a = 0 then none else some (old &&& ~~~v))

/-- XSTAT_GO (R200): the return from the handler of the current slot, as a CSR write that sets go makes it. -/
def execXstatGo (s : State) : Host.Outcome State Fault Refusal := done (if s.th.live then trapReturn s else s)

end Sys2Proof.Machine
end

