-- ==== Sys2Proof/Machine/CollMath.lean ====
section
/-! DEFINITION. What a collective block, a stitch map and a multicast descriptor say (R269 to R271, R278 to R280): their
fields, which are malformed, which bytes each rank sends and where each lands, and the exact reductions (R114, R303). -/

namespace Sys2Proof.Machine

set_option linter.unusedVariables false

/-! ### Fields -/

/-- The format of a code (R104). -/
def fmtOf : Nat → Option Fmt
  | 0 => some .fp64 | 1 => some .fp32 | 2 => some .fp16 | 3 => some .bf16 | 4 => some .e4m3 | 5 => some .e5m2
  | 6 => some .e3m2 | 7 => some .e2m3 | 8 => some .e2m1 | 9 => some .qg8 | 10 => some .qg4 | 11 => some .i8
  | 12 => some .i16 | 13 => some .i32 | 14 => some .e8m0
  | _ => none

/-- Width in bits of a format code. -/
def codeWidth (c : Nat) : Nat :=
  match fmtOf c with
  | some f => f.width
  | none => 8

/-- A field of a parameter block or descriptor. -/
def FabOp.f (o : FabOp) (lo n : Nat) : Nat := bits o.block.toNat lo n

/-- A parameter block's fields (R269). -/
structure CollView where
  op     : Nat
  alg    : Nat
  rop    : Nat
  dtype  : Nat
  rtype  : Nat
  group  : Nat
  corr   : Nat
  nranks : Nat
  rank   : Nat
  root   : Nat
  sbuf   : Nat
  rbuf   : Nat
  count  : Nat
  chunk  : Nat
  tmo    : Nat
  done   : Nat
  phase  : Nat
  bmap   : Nat
  smap   : Nat
  vtab   : Nat
  grec   : Nat
  deriving DecidableEq, Repr

def collView (b : BitVec 1024) : CollView :=
  let f (lo n : Nat) : Nat := bits b.toNat lo n
  { op := f 0 4, alg := f 4 2, rop := f 6 2, dtype := f 8 4, rtype := f 12 4, group := f 16 8, corr := f 32 32,
    nranks := f 64 16, rank := f 80 16, root := f 96 16, sbuf := f 128 64, rbuf := f 192 64, count := f 256 64,
    chunk := f 320 32, tmo := f 352 32, done := f 384 64, phase := f 448 16, bmap := f 512 64, smap := f 576 64,
    vtab := f 640 64, grec := f 704 64 }

/-- A stitch map's fields (R278). -/
structure StitchView where
  ndim   : Nat
  size   : Nat
  sdim   : Nat
  gdim   : Nat
  perm   : List Nat
  ext    : List Nat
  stride : List Int
  deriving DecidableEq, Repr

def stitchView (m : BitVec 512) : StitchView :=
  let f (lo n : Nat) : Nat := bits m.toNat lo n
  { ndim := f 0 3, size := 2 ^ f 4 2, sdim := f 8 3, gdim := f 12 3,
    perm := (List.range 5).map fun k => f (16 + 3 * k) 3,
    ext := (List.range 5).map fun k => f (32 + 16 * k) 16,
    stride := (List.range 5).map fun k => signed (f (128 + 64 * k) 64) 64 }

/-- A multicast descriptor's fields (R280). -/
structure McView where
  group : Nat
  dtype : Nat
  rtype : Nat
  rop   : Nat
  mode  : Nat
  corr  : Nat
  soff  : Nat
  dst   : Nat
  count : Nat
  tmo   : Nat
  done  : Nat
  phase : Nat
  deriving DecidableEq, Repr

def mcView (b : BitVec 1024) : McView :=
  let f (lo n : Nat) : Nat := bits b.toNat lo n
  { group := f 0 8, dtype := f 16 4, rtype := f 20 4, rop := f 24 2, mode := f 26 2, corr := f 32 32, soff := f 64 64,
    dst := f 128 64, count := f 192 32, tmo := f 224 32, done := f 256 64, phase := f 320 16 }

def FabOp.view (o : FabOp) : CollView := collView o.block
def FabOp.mcv (o : FabOp) : McView := mcView o.block
def FabOp.stitch (o : FabOp) : StitchView := stitchView o.map

/-- The group of a block or descriptor. -/
def FabOp.group (o : FabOp) : Nat := if o.mc then o.mcv.group else o.view.group

/-- The timeout in µs, 0 for none. -/
def FabOp.tmo (o : FabOp) : Nat := if o.mc then o.mcv.tmo else o.view.tmo

/-- The phase of the completion arrival. -/
def FabOp.phase (o : FabOp) : Nat := if o.mc then o.mcv.phase else o.view.phase

/-! ### Malformed blocks, maps and descriptors -/

/-- Formats of a reduction (R271, row for ops 0 and 1). -/
def redOk (dtype rtype rop : Nat) : Bool :=
  rop ≤ 2 &&
  (if dtype ≤ 3 then rtype ≤ 3
   else 11 ≤ dtype && dtype ≤ 13 && dtype ≤ rtype && rtype ≤ 13)

/-- The formats that ops 2 to 5 copy (R271). -/
def copyOk (dtype rtype rop : Nat) : Bool :=
  (dtype ≤ 8 || (11 ≤ dtype && dtype ≤ 14)) && rtype = dtype && rop = 0

/-- Whether a stitch map is malformed for a rank count (R278). -/
def stitchBad (m : BitVec 512) (n : Nat) : Bool :=
  let v := stitchView m
  let z (lo k : Nat) : Bool := bits m.toNat lo k = 0
  let live := List.range v.ndim
  !(z 3 1 && z 6 2 && z 11 1 && z 15 1 && z 31 1 && z 112 16 && z 448 64) ||
  v.ndim < 1 || 5 < v.ndim || v.ndim ≤ v.sdim || v.ndim ≤ v.gdim ||
  (live.any fun k => v.ext.getD k 0 = 0) ||
  ((List.range 5).any fun k =>
    v.ndim ≤ k && (v.ext.getD k 0 ≠ 0 || v.stride.getD k 0 ≠ 0 || v.perm.getD k 0 ≠ 0)) ||
  (live.any fun k => !(live.any fun j => v.perm.getD j 9 = k)) ||
  n = 0 || v.ext.getD v.sdim 0 % n ≠ 0 ||
  (v.stride.any fun t => t % (v.size : Int) ≠ 0)

/-- The product of the extents that satisfy R278. -/
def StitchView.elems (v : StitchView) : Nat := (v.ext.take v.ndim).foldl (· * ·) 1

/-- The span of addresses that a stitch map reads from `sbuf`: the lowest offset and one past the highest. -/
def StitchView.reach (v : StitchView) : Int × Int :=
  (List.range v.ndim).foldl (fun r k =>
    let d : Int := ((v.ext.getD k 0 : Nat) - 1 : Int) * v.stride.getD k 0
    (r.1 + min 0 d, r.2 + max 0 d)) (0, v.size)

/-- An entry of a vtab (R270). -/
def vtabEntry (v : BitVec 128) : Nat × Nat × Nat × Nat :=
  (bits v.toNat 0 32, bits v.toNat 32 32, bits v.toNat 64 32, bits v.toNat 96 32)

/-- Whether two ranges of a first element and a count overlap. -/
def rangesMeet (a m b n : Nat) : Bool := 0 < m && 0 < n && a < b + n && b < a + m

/-- Whether the receive ranges of a vtab overlap (R271). -/
def vtabOverlap : List (Nat × Nat × Nat × Nat) → Bool
  | [] => false
  | (_, _, r, c) :: t => (t.any fun e => rangesMeet r c e.2.2.1 e.2.2.2) || vtabOverlap t

/-- Bytes of `c` elements of a width in bits, rounded down. -/
def nBytes (c w : Nat) : Nat := c * w / 8

/-- Bytes that a rank sends and receives (R270). -/
def moved (v : CollView) (m : StitchView) (t : List (Nat × Nat × Nat × Nat)) : Nat × Nat :=
  let w := codeWidth v.dtype
  let r := codeWidth v.rtype
  match v.op with
  | 0 => (nBytes v.count w, nBytes v.count r)
  | 1 => (nBytes (v.nranks * v.count) w, nBytes v.count r)
  | 2 => (nBytes v.count w, nBytes (v.nranks * v.count) r)
  | 3 => (nBytes v.count w, nBytes v.count r)
  | 4 => (nBytes (v.nranks * v.count) w, nBytes (v.nranks * v.count) r)
  | 5 => (nBytes (t.foldl (fun a e => a + e.2.1) 0) w, nBytes (t.foldl (fun a e => a + e.2.2.2) 0) r)
  | 6 => (m.elems * m.size, m.elems * m.size)
  | _ => (0, 0)

/-- The ranges that a rank sends and those that it receives, as first addresses and lengths (R270, R279): of a stitch map the
span that its strides reach. -/
def bufRanges (v : CollView) (m : StitchView) (t : List (Nat × Nat × Nat × Nat)) : List (Int × Nat) × List (Nat × Nat) :=
  let w := codeWidth v.dtype
  let n := moved v m t
  match v.op with
  | 5 => (t.map fun e => ((v.sbuf + nBytes e.1 w : Nat), nBytes e.2.1 w),
          t.map fun e => (v.rbuf + nBytes e.2.2.1 w, nBytes e.2.2.2 w))
  | 6 => ([(v.sbuf + m.reach.1, (m.reach.2 - m.reach.1).toNat)], [(v.rbuf, n.2)])
  | 3 => ([(v.sbuf, if v.rank = v.root then n.1 else 0)], [(v.rbuf, n.2)])
  | _ => ([(v.sbuf, n.1)], [(v.rbuf, n.2)])

/-- Whether a send and a receive range overlap where they must not (R271). -/
def bufsMeet (v : CollView) (m : StitchView) (t : List (Nat × Nat × Nat × Nat)) : Bool :=
  let l := bufRanges v m t
  !((v.op = 0 || v.op = 3) && v.rbuf = v.sbuf) &&
    l.1.any fun s => l.2.any fun r => 0 < s.2 && 0 < r.2 && s.1 < (r.1 + r.2 : Nat) && (r.1 : Int) < s.1 + s.2

/-- Whether a parameter block is malformed (R269, R271): `members` is the group's list as this package holds it, `own` says
which node numbers are this package, and `floe` is the issuing floe. -/
def collBad (b : BitVec 1024) (map : BitVec 512) (t : List (Nat × Nat × Nat × Nat)) (members : List Member)
    (own : Nat → Bool) (floe : Nat) : Bool :=
  let v := collView b
  let m := stitchView map
  let z (lo k : Nat) : Bool := bits b.toNat lo k = 0
  let w := codeWidth v.dtype
  let whole (l : List Nat) : Bool := l.all fun c => c * w % 8 = 0
  !(z 24 8 && z 112 16 && z 464 48 && z 832 192) ||
  v.grec % 64 ≠ 0 || v.vtab % 16 ≠ 0 || v.smap % 64 ≠ 0 || v.bmap % 8 ≠ 0 ||
  (v.op ≠ 6 && v.smap ≠ 0) || (v.op ≠ 5 && v.vtab ≠ 0) ||
  (v.op ≠ 3 && v.root ≠ 0) || v.nranks ≤ v.root ||
  v.nranks ≠ members.length ||
  (match members[v.rank]? with
   | some e => !(own e.node && e.floe = floe)
   | none => true) ||
  (match v.op with
   | 0 | 1 => !redOk v.dtype v.rtype v.rop
   | 2 | 3 | 4 => !copyOk v.dtype v.rtype v.rop || !whole [v.count, v.chunk]
   | 5 => !copyOk v.dtype v.rtype v.rop || v.count ≠ 0 || v.vtab = 0 || vtabOverlap t ||
      !whole (v.chunk :: t.flatMap fun e => [e.1, e.2.1, e.2.2.1, e.2.2.2])
   | 6 => v.dtype ≠ 0 || v.rtype ≠ 0 || v.rop ≠ 0 || v.count ≠ 0 || stitchBad map v.nranks
   | 7 => v.dtype ≠ 0 || v.rtype ≠ 0 || v.rop ≠ 0 || v.count ≠ 0 || v.sbuf ≠ 0 || v.rbuf ≠ 0 || v.bmap ≠ 0
   | _ => true) ||
  2 ^ 40 ≤ (moved v m t).1 || 2 ^ 40 ≤ (moved v m t).2 || bufsMeet v m t

/-- Whether a multicast descriptor is malformed (R280, R281). -/
def mcBad (b : BitVec 1024) (members : List Member) : Bool :=
  let v := mcView b
  let z (lo k : Nat) : Bool := bits b.toNat lo k = 0
  let sw := codeWidth v.dtype / 8
  let rw := codeWidth v.rtype / 8
  !(z 8 8 && z 28 4 && z 336 48 && z 448 64) || 2 ≤ v.mode || !redOk v.dtype v.rtype v.rop ||
  v.count < 1 || 1048576 < v.count || members = [] ||
  (members.any fun m => (m.base + v.soff) % sw ≠ 0) ||
  (if v.mode = 0 then v.dst % rw ≠ 0 else members.any fun m => (m.base + v.dst) % rw ≠ 0)

/-! ### What each rank sends -/

/-- The digits of an index over extents, dimension 0 first. -/
def digits : List Nat → Nat → List Nat
  | [], _ => []
  | e :: t, i => i % e :: digits t (i / e)

/-- An element's index as the stitch map takes it in ascending order (R310). -/
def StitchView.index (m : StitchView) (i : Nat) : List Nat := digits (m.ext.take m.ndim) i

/-- P of R279. -/
def StitchView.part (m : StitchView) (n : Nat) : Nat := m.ext.getD m.sdim 0 / n

/-- The source elements that a rank sends to rank `j`, in ascending order (R279, R310). -/
def StitchView.elemsFor (m : StitchView) (n j : Nat) : List (List Nat) :=
  ((List.range m.elems).map m.index).filter fun a => a.getD m.sdim 0 / m.part n = j

/-- An element's offset from `sbuf` (R279). -/
def StitchView.srcOff (m : StitchView) (a : List Nat) : Int :=
  (List.range m.ndim).foldl (fun s k => s + (a.getD k 0 : Nat) * m.stride.getD k 0) 0

/-- The element offset at which rank `i`'s element `a` lands at its destination rank (R279). -/
def StitchView.dstOff (m : StitchView) (n i : Nat) (a : List Nat) : Nat :=
  let p := m.part n
  let e (k : Nat) : Nat := m.ext.getD k 0
  let s := m.sdim
  let g := m.gdim
  let b (k : Nat) : Nat :=
    let x := if k = s then a.getD k 0 % p else a.getD k 0
    if k = g then (if g = s then x + i * p else i * e g + x) else x
  let ex (k : Nat) : Nat :=
    if k = g then (if g = s then e s else n * e g) else if k = s then p else e k
  ((List.range m.ndim).foldl (fun r k =>
    let d := m.perm.getD k 0
    (r.1 + b d * r.2, r.2 * ex d)) (0, 1)).1

/-- Whether all destinations get the same bytes, which are then read once. -/
def sameForAll (op : Nat) : Bool := op = 0 || op = 2 || op = 3

/-- The ranges that a rank reads for destination `j` (R270, R279). -/
def sendRanges (v : CollView) (m : StitchView) (t : List (Nat × Nat × Nat × Nat)) (j : Nat) : List (Nat × Nat) :=
  let w := codeWidth v.dtype
  let c := nBytes v.count w
  match v.op with
  | 0 | 2 => [(v.sbuf, c)]
  | 3 => if v.rank = v.root then [(v.sbuf, c)] else []
  | 1 | 4 => [(v.sbuf + j * c, c)]
  | 5 =>
    let e := t.getD j (0, 0, 0, 0)
    [(v.sbuf + nBytes e.1 w, nBytes e.2.1 w)]
  | 6 => (m.elemsFor v.nranks j).map fun a => (wrapA (v.sbuf + m.srcOff a), m.size)
  | _ => []

/-- All the ranges that a rank reads (R270). -/
def sendPlan (v : CollView) (m : StitchView) (t : List (Nat × Nat × Nat × Nat)) : List (Nat × Nat) :=
  if v.op = 7 then []
  else if sameForAll v.op then sendRanges v m t 0
  else (List.range v.nranks).flatMap (sendRanges v m t)

/-- The part of the bytes of some ranges that begins after `k` bytes and is `n` bytes long. -/
def sliceRanges : List (Nat × Nat) → Nat → Nat → List (Nat × Nat)
  | [], _, _ => []
  | (a, len) :: t, k, n =>
    if n = 0 then []
    else if len ≤ k then sliceRanges t (k - len) n
    else (a + k, min (len - k) n) :: sliceRanges t 0 (n - min (len - k) n)

/-- Bytes `k` up to `k + n` of what a block sends to rank `j`. -/
def FabOp.source (o : FabOp) (j k n : Nat) : List (Nat × Nat) := sliceRanges (sendRanges o.view o.stitch o.vtab j) k n

/-! ### Reductions and their exact partials -/

/-- The formats and the kind of a reduction. -/
structure RedView where
  d : Fmt
  r : Fmt
  rop : Nat
  deriving DecidableEq, Repr

def redView (dtype rtype rop : Nat) : RedView :=
  let f (c : Nat) : Fmt := (fmtOf c).getD .fp32
  ⟨f dtype, f rtype, rop⟩

/-- Whether sums are formed in XA64 (R114). -/
def RedView.wide (v : RedView) : Bool := v.d = .fp64 || v.r = .fp64

/-- Bytes of an operand, of a result, and of a partial between steps (R303): an exact accumulator, an integer sum of the width of the
result type, or a value of dtype. -/
def RedView.dBytes (v : RedView) : Nat := v.d.width / 8
def RedView.rBytes (v : RedView) : Nat := v.r.width / 8
def RedView.pBytes (v : RedView) : Nat :=
  if v.rop ≠ 0 then v.dBytes else if v.d.isInt then v.rBytes else Acc.size v.wide

/-- An operand as a partial (R303, R114). -/
def RedView.lift (v : RedView) (x : Nat) : Nat :=
  if v.rop ≠ 0 then x
  else if v.d.isInt then unsigned (signed x v.d.width) v.r.width
  else ((Acc.empty v.wide).add (v.d.val x)).code

/-- The merge of two partials (R113, R114). -/
def RedView.merge (v : RedView) (p q : Nat) : Nat :=
  if v.d.isInt then
    match v.rop with
    | 0 => (p + q) % 2 ^ v.r.width
    | 1 => unsigned (max (signed p v.d.width) (signed q v.d.width)) v.d.width
    | _ => unsigned (min (signed p v.d.width) (signed q v.d.width)) v.d.width
  else if v.rop = 0 then ((Acc.ofCode v.wide p).merge (Acc.ofCode v.wide q)).code
  else (minMax v.d (v.rop = 1) p q).bits

/-- The one rounding of a finished partial into the result type (R114, R303). -/
def RedView.finish (v : RedView) (p : Nat) : Nat :=
  if v.d.isInt then (if v.rop = 0 then p else unsigned (signed p v.d.width) v.r.width)
  else if v.rop = 0 then ((Acc.ofCode v.wide p).read v.r .rne).bits
  else (roundTo v.r .rne false (v.d.val p).ex).bits

/-- The values of `w` bytes each that bytes hold. -/
def values (w : Nat) (bs : List Byte) : List Nat :=
  (List.range (bs.length / w)).map fun e => leNat ((bs.drop (e * w)).take w)

/-- Operands as partials, the merge of two runs of partials, and the results of finished ones, in bytes. -/
def RedView.liftAll (v : RedView) (bs : List Byte) : List Byte :=
  (values v.dBytes bs).flatMap fun x => leBytes v.pBytes (v.lift x)
def RedView.mergeAll (v : RedView) (p q : List Byte) : List Byte :=
  ((values v.pBytes p).zip (values v.pBytes q)).flatMap fun x => leBytes v.pBytes (v.merge x.1 x.2)
def RedView.finishAll (v : RedView) (p : List Byte) : List Byte :=
  (values v.pBytes p).flatMap fun x => leBytes v.rBytes (v.finish x)

/-- The merge of several runs of partials. -/
def RedView.mergeList (v : RedView) : List (List Byte) → List Byte
  | [] => []
  | [p] => p
  | p :: t => v.mergeAll p (v.mergeList t)

/-! ### What each rank receives -/

/-- The elements of segment `j` of `n` (R302): its first and the one past its last. DESIGN CHOICE (log 116): the segments of an
all-reduce are as equal as whole elements allow. -/
def segment (count n j : Nat) : Nat × Nat := (j * count / n, (j + 1) * count / n)

/-- The length of the receive buffer in bytes (R270, R279). -/
def FabOp.rlen (o : FabOp) : Nat :=
  (bufRanges o.view o.stitch o.vtab).2.foldl (fun n r => if r.2 = 0 then n else max n (r.1 + r.2 - o.view.rbuf)) 0

/-- The items that a rank receives (R270, R302): the data of each rank, the segments of a ring all-reduce, or the reduced elements
as one. -/
def FabOp.items (o : FabOp) : List Nat :=
  let v := o.view
  match v.op with
  | 0 => if o.alg = 1 then List.range v.nranks else [0]
  | 1 => [v.rank]
  | 3 => [v.root]
  | 2 | 4 | 5 | 6 => List.range v.nranks
  | _ => []

/-- The receive-buffer offsets of the bytes of an item, in the order of sending (R270, R279). -/
def FabOp.landing (o : FabOp) (i : Nat) : List Nat :=
  let v := o.view
  let w := codeWidth v.dtype
  let c := nBytes v.count w
  let rw := codeWidth v.rtype
  match v.op with
  | 0 =>
    if o.alg = 1 then
      let g := segment v.count v.nranks i
      (List.range (nBytes (g.2 - g.1) rw)).map fun k => nBytes g.1 rw + k
    else List.range o.rlen
  | 1 => List.range o.rlen
  | 2 | 4 => (List.range c).map fun k => i * c + k
  | 3 => List.range c
  | 5 =>
    let e := o.vtab.getD i (0, 0, 0, 0)
    (List.range (nBytes e.2.2.2 w)).map fun k => nBytes e.2.2.1 w + k
  | 6 =>
    let m := o.stitch
    (m.elemsFor v.nranks v.rank).flatMap fun a =>
      (List.range m.size).map fun k => m.dstOff v.nranks i a * m.size + k
  | _ => []

/-- The bytes that a list of received data holds under a number, and the list with more. -/
def held (l : List Contrib) (i : Nat) : List Byte :=
  match l.find? fun c => c.rank = i with
  | some c => c.bytes
  | none => []
def hold (l : List Contrib) (i : Nat) (bs : List Byte) : List Contrib := ⟨i, held l i ++ bs⟩ :: l.filter fun c => c.rank ≠ i

/-! ### Chunks -/

/-- The width in bits of a receive-buffer element. -/
def FabOp.rwidth (o : FabOp) : Nat :=
  if o.view.op = 6 then o.stitch.size * 8 else codeWidth o.view.rtype

/-- How many chunks the receive buffer has (R274). -/
def FabOp.chunkCount (o : FabOp) : Nat :=
  if o.rlen = 0 then 0
  else if o.view.chunk = 0 then 1
  else let b := nBytes o.view.chunk o.rwidth; (o.rlen + b - 1) / b

/-- The byte range of chunk `q`. -/
def FabOp.chunkRange (o : FabOp) (q : Nat) : Nat × Nat :=
  if o.view.chunk = 0 then (0, o.rlen)
  else let b := nBytes o.view.chunk o.rwidth; (q * b, min o.rlen ((q + 1) * b))

/-- Whether what has come of an item holds all that chunk `q` needs of it. -/
def FabOp.chunkFrom (o : FabOp) (q i : Nat) : Bool :=
  let (lo, hi) := o.chunkRange q
  ((o.landing i).drop (held o.got i).length).all fun k => !(lo ≤ k && k < hi)

/-- Whether every element of a chunk has its final value (R274, R309). -/
def FabOp.chunkFinal (o : FabOp) (q : Nat) : Bool := o.items.all fun i => o.chunkFrom q i

/-- Whether a chunk still needs something of an item of which no more comes (R277, R376). -/
def FabOp.chunkLost (o : FabOp) (gone : Nat → Bool) (q : Nat) : Bool := o.items.any fun i => gone i && !o.chunkFrom q i

/-- The writes of a chunk: offset and byte, in rising runs per item. -/
def FabOp.chunkBytes (o : FabOp) (q : Nat) : List (Nat × Byte) :=
  let (lo, hi) := o.chunkRange q
  o.items.flatMap fun i => ((o.landing i).zip (held o.got i)).filter fun p => lo ≤ p.1 && p.1 < hi

/-- Offsets and bytes as ranges with their bytes: each maximal run of consecutive offsets. -/
def pieces : List (Nat × Byte) → List (Nat × List Byte)
  | [] => []
  | (o, b) :: t =>
    match pieces t with
    | [] => [(o, [b])]
    | (p, l) :: r => if p = o + 1 then (o, b :: l) :: r else (o, [b]) :: (p, l) :: r

/-- The status of a rank once its chunks are settled: every one delivered, or never to be (R277, R376); none before. -/
def FabOp.settled (o : FabOp) (gone : Nat → Bool) : Option Nat :=
  let missing := (List.range o.chunkCount).filter fun q => !o.chunks.contains q
  if missing.all fun q => o.chunkLost gone q then some (if o.bad then 8 else if missing = [] then 0 else 4) else none

/-! ### Matching -/

/-- The fields on which blocks must agree, and a rank's vtab (R272). -/
def FabOp.key (o : FabOp) : BlockKey :=
  let v := o.view
  { op := v.op, alg := v.alg, dtype := v.dtype, rtype := v.rtype, rop := v.rop, count := v.count, chunk := v.chunk,
    nranks := v.nranks, root := v.root,
    smap := if v.op = 6 then (List.range 8).map fun i => BitVec.ofNat 64 (bits o.map.toNat (64 * i) 64) else [],
    rank := v.rank, vtab := o.vtab }

/-- Whether two blocks agree (R272). -/
def agree2 (a b : BlockKey) : Bool :=
  a.op = b.op && a.dtype = b.dtype && a.rtype = b.rtype && a.rop = b.rop && a.count = b.count && a.chunk = b.chunk &&
  a.nranks = b.nranks && a.root = b.root && a.smap = b.smap && a.rank ≠ b.rank &&
  (a.op ≠ 5 ||
    ((a.vtab.getD b.rank (0, 0, 0, 0)).2.1 = (b.vtab.getD a.rank (0, 0, 0, 0)).2.2.2 &&
     (b.vtab.getD a.rank (0, 0, 0, 0)).2.1 = (a.vtab.getD b.rank (0, 0, 0, 0)).2.2.2))

/-- Whether a rank agrees with itself: what it sends itself is what it expects of itself. -/
def agreeSelf (a : BlockKey) : Bool :=
  a.op ≠ 5 || (a.vtab.getD a.rank (0, 0, 0, 0)).2.1 = (a.vtab.getD a.rank (0, 0, 0, 0)).2.2.2

/-- Whether matched blocks agree (R272). -/
def agreeAll : List BlockKey → Bool
  | [] => true
  | a :: t => agreeSelf a && (t.all fun b => agree2 a b) && agreeAll t

end Sys2Proof.Machine
end

