-- ==== Sys2Proof/Machine/Expander.lean ====
section
/-! DEFINITION. The collective expander (R300 to R308, R376 to R378, R388 to R390): groups and their generations, matching,
admission, the streams of a plan, reservation, steps, deliveries and the end of an operation. -/

namespace Sys2Proof.Machine

set_option linter.unusedVariables false

/-! ### Nodes, groups and operations -/

/-- This package's own node number (R66). -/
def State.node (s : State) : Nat :=
  match s.host.cfg with
  | some c => c.node
  | none => 0

/-- Whether a node number names this package (R267). -/
def State.ownNode (s : State) (n : Nat) : Bool := n = 0 || n = s.node

/-- A list as a package names its members, with the package's own number in place of 0 (R267). -/
def namedBy (node : Nat) (l : List Member) : List Member := l.map fun m => if m.node = 0 then { m with node := node } else m

/-- A package's address group (R267). -/
def State.group (s : State) (g : Nat) : Option Group := s.fab.groups.find? fun x => x.id = g

/-- The members of a group, none when it is empty. -/
def State.members (s : State) (g : Nat) : List Member :=
  match s.group g with
  | some x => x.members
  | none => []

def State.onFabSys (s : State) (f : FabSys → FabSys) : State := { s with fab := f s.fab }

def State.setGroup (s : State) (x : Group) : State :=
  s.onFabSys fun b => { b with groups := x :: b.groups.filter fun y => y.id ≠ x.id }

/-- What this expander keeps for a group as its coordinator. -/
def State.coord (s : State) (g : Nat) : Option Coord := s.fab.coords.find? fun c => c.id = g

def State.setCoord (s : State) (c : Coord) : State :=
  s.onFabSys fun b => { b with coords := c :: b.coords.filter fun d => d.id ≠ c.id }

/-- The operation of an identity. -/
def State.fabOp (s : State) (i : Nat) : Option FabOp := s.fab.ops.find? fun o => o.id = i

/-- Updates an operation. -/
def onFab (s : State) (i : Nat) (f : FabOp → FabOp) : State :=
  s.onFabSys fun b => { b with ops := b.ops.map fun o => if o.id = i then f o else o }

/-- Decides the status of an operation, once (R378). -/
def decideOp (s : State) (i st : Nat) : State :=
  onFab s i fun o => if o.status.isNone then { o with status := some st } else o

/-- The operation that an event names: its address, whether it is a descriptor (`seq` 1), and its tenant. -/
def eventOp (s : State) : Option FabOp :=
  s.fab.ops.find? fun o => o.addr = s.input.addr && o.mc = decide (s.input.seq = 1) && o.by_.tenant = s.input.tenant

/-- The plan that an operation belongs to. -/
def planOf (s : State) (i : Nat) : Option Plan := s.fab.plans.find? fun p => p.own.any fun e => e.2 = i

/-- Whether this package's expander coordinates an operation's group (R300). -/
def coordinated (s : State) (o : FabOp) : Bool :=
  match o.members with
  | m :: _ => s.ownNode m.node
  | [] => false

/-- Whether the coordinating expander of an operation's group is out of reach (R374). -/
def cutOff (s : State) (o : FabOp) : Bool :=
  match o.members with
  | m :: _ => !s.ownNode m.node && s.isLost m.node
  | [] => false

/-! ### Generations -/

/-- Fails the own operations that wait at the coordinating expander in an older generation (R389). -/
def failOld (s : State) (c : Coord) : State :=
  let s := (c.waiting.filterMap fun a => a.op).foldl (fun s i => decideOp s i 8) s
  (c.order.filterMap fun e => match e with | .own i => some i | _ => none).foldl (fun s i => decideOp s i 8) s

/-- Sets a member's entry in a list of members and values. -/
def setMember (l : List (Nat × Nat × Nat)) (m : Nat × Nat) (v : Nat) : List (Nat × Nat × Nat) :=
  (m.1, m.2, v) :: l.filter fun e => !(e.1 = m.1 && e.2.1 = m.2)

/-- A member's value in such a list. -/
def memberVal (l : List (Nat × Nat × Nat)) (m : Nat × Nat) : Option Nat :=
  (l.find? fun e => e.1 = m.1 && e.2.1 = m.2).map fun e => e.2.2

/-- The members of a list on a node. -/
def onNode (l : List Member) (node : Nat) : List (Nat × Nat) :=
  (l.filter fun m => m.node = node).map fun m => (m.node, m.floe)

/-- A report of a `grp.set` reaches the coordinating expander (R389). -/
def recordSet (s : State) (node g : Nat) (l : List Member) : State :=
  let l := namedBy node l
  let ms := onNode l node
  if ms = [] then s
  else
    match s.coord g with
    | some c =>
      if c.list = l && !(ms.any fun m => c.recorded.contains m) then
        s.setCoord { c with
          recorded := c.recorded ++ ms
          gens := ms.foldl (fun x m => setMember x m c.gen) c.gens
          counts := ms.foldl (fun x m => setMember x m 0) c.counts }
      else
        (failOld s c).setCoord { c with
          gen := c.gen + 1, list := l, recorded := ms, cleared := []
          gens := ms.foldl (fun x m => setMember x m (c.gen + 1)) c.gens
          counts := [], waiting := [], order := [], dead := false }
    | none => s.setCoord ⟨g, 1, l, ms, [], ms.foldl (fun x m => setMember x m 1) [], [], [], [], false⟩

/-- A report of a `grp.clr` reaches the coordinating expander (R389): the members' blocks that have no place yet can no longer
match. -/
def recordClr (s : State) (node g : Nat) : State :=
  match s.coord g with
  | none => s
  | some c =>
    let ms := onNode c.list node
    s.setCoord { c with
      cleared := ms ++ c.cleared
      waiting := c.waiting.filter fun a => c.order.contains (.block a.num) || !ms.contains (a.node, a.floe) }

/-- GROUP_REPORT (R389): the report of another package. -/
def execGroupReport (s : State) : Host.Outcome State Fault Refusal :=
  let i := s.input
  done (match i.list with
    | some l => recordSet s i.node i.group l
    | none => recordClr s i.node i.group)

/-! ### Matching -/

/-- Whether every member of the generation's list has been recorded in it (R389). -/
def Coord.complete (c : Coord) : Bool := c.list.all fun m => c.recorded.contains (m.node, m.floe)

/-- The status that stops an arrival of a member, or none (R377, R389). -/
def arrivalStatus (c : Option Coord) (m : Nat × Nat) : Option Nat :=
  match c with
  | none => some 6
  | some c =>
    match memberVal c.gens m with
    | none => some 6
    | some g => if g < c.gen then some 8 else if c.dead then some 6 else none

/-- A block reaches the coordinating expander and takes its number; the last partner gives the matched block its place
(R272, R388). A member whose clear has been reported is never matched (R389). -/
def arrive (s : State) (c : Coord) (m : Nat × Nat) (key : BlockKey) (op : Option Nat) : State :=
  if c.cleared.contains m then s
  else
    let num := (memberVal c.counts m).getD 0
    let w := c.waiting ++ [⟨m.1, m.2, num, key, op, none⟩]
    let full := (w.filter fun a => a.num = num).length = c.list.length
    s.setCoord { c with
      counts := setMember c.counts m (num + 1)
      waiting := w
      order := if full && c.complete then c.order ++ [.block num] else c.order }

/-- The status that stops the arrival of a descriptor from a package, or none: one that holds no entry in the list belongs to the
current generation (R389). -/
def mcStatus (c : Option Coord) (node : Nat) : Option Nat :=
  match c with
  | none => some 6
  | some c =>
    match onNode c.list node with
    | m :: _ => arrivalStatus (some c) m
    | [] => if c.dead then some 6 else none

/-- A descriptor reaches the coordinating expander and takes its place (R388, R389). -/
def arriveMc (s : State) (o : FabOp) : State :=
  match mcStatus (s.coord o.group) s.node, s.coord o.group with
  | some st, _ => decideOp s o.id st
  | none, some c => s.setCoord { c with order := c.order ++ [.own o.id] }
  | none, none => s

/-- An own block or descriptor is forwarded (R300). -/
def forwardOwn (s : State) (o : FabOp) : State :=
  let s := onFab s o.id fun o => { o with stage := .sent }
  let bad := match s.group o.group with
    | some g => g.dead || !g.known
    | none => false
  if bad || cutOff s o then decideOp s o.id 6
  else if !coordinated s o then s
  else if o.mc then arriveMc s o
  else
    let m := (s.node, o.floe)
    match arrivalStatus (s.coord o.group) m, s.coord o.group with
    | some st, _ => decideOp s o.id st
    | none, some c => arrive s c m o.key (some o.id)
    | none, none => s

/-- Whether an own block may be forwarded: a member's blocks on a group reach the expander in the order of their issue (R272). -/
def mayForward (s : State) (o : FabOp) : Bool :=
  o.stage = .issued && (o.mc ||
    !(s.fab.ops.any fun q => !q.mc && q.stage = .issued && q.floe = o.floe && q.group = o.group && q.id < o.id))

/-- BLOCK_FORWARD (R300, R388, R389). -/
def execBlockForward (s : State) : Host.Outcome State Fault Refusal :=
  done (match s.input.fwd with
    | .own _ =>
      match eventOp s with
      | some o => if mayForward s o then forwardOwn s o else s
      | none => s
    | .peer node floe key =>
      match arrivalStatus (s.coord s.input.group) (node, floe), s.coord s.input.group with
      | none, some c => arrive s c (node, floe) key none
      | _, _ => s
    | .peerMc node desc =>
      match mcStatus (s.coord s.input.group) node, s.coord s.input.group with
      | none, some c => s.setCoord { c with order := c.order ++ [.peer node (desc.setWidth 1024)] }
      | _, _ => s)

/-! ### Streams -/

/-- The algorithm of an operation under a hint (R302): 0 direct, 1 ring, 2 tree, 3 in-switch. -/
def algOf (op hint : Nat) : Nat :=
  match op with
  | 0 => if hint = 1 || hint = 2 then hint else 3
  | 1 => if hint = 1 then 1 else 3
  | 2 => if hint = 2 then 2 else 1
  | 3 => if hint = 1 then 1 else 2
  | 4 | 5 | 6 => 0
  | _ => 3

def Plan.n (p : Plan) : Nat := p.members.length

/-- The node of a rank, and of the coordinating expander (R300). -/
def Plan.node (p : Plan) (r : Nat) : Nat := ((p.members[r]?).map (·.node)).getD 0
def Plan.head (p : Plan) : Nat := p.node 0

/-- The ranks on a node. -/
def Plan.ranks (p : Plan) (node : Nat) : List Nat := (List.range p.n).filter fun r => p.node r = node

/-- The nodes of the members, each once. -/
def Plan.nodes (p : Plan) : List Nat := (p.members.map (·.node)).eraseDups

/-- Whether a plan reduces, its formats, and its elements (R270, R281). -/
def Plan.reduces (p : Plan) : Bool := p.mc.isSome || p.key.op ≤ 1
def Plan.red (p : Plan) : RedView :=
  match p.mc with
  | some (_, b) => let v := mcView b; redView v.dtype v.rtype v.rop
  | none => redView p.key.dtype p.key.rtype p.key.rop
def Plan.elems (p : Plan) : Nat :=
  match p.mc with
  | some (_, b) => (mcView b).count
  | none => if p.key.op = 1 then p.n * p.key.count else p.key.count

/-- Segment `j` of the elements (R302). -/
def Plan.seg (p : Plan) (j : Nat) : Nat × Nat := segment p.elems p.n j

/-- A rank's parent and its children in the binomial tree rooted at rank 0 (R302). -/
def treeParent (r : Nat) : Nat := r &&& (r - 1)
def treeChildren (n r : Nat) : List Nat :=
  ((List.range 10).map fun k => r + 2 ^ k).filter fun c => c < n && treeParent c = r

/-- The child of a rank that leads to a rank below it. -/
def childToward (r i : Nat) : Nat := (List.range 11).foldl (fun c _ => if treeParent c = r then c else treeParent c) i

/-- Whether a rank lies below another in the tree, or is it. -/
def belowRank (r i : Nat) : Bool := (List.range 11).foldl (fun c _ => if c ≤ r then c else treeParent c) i = r

/-- The rank before another in the ring. -/
def Plan.prev (p : Plan) (r : Nat) : Nat := (r + p.n - 1) % p.n
def Plan.next (p : Plan) (r : Nat) : Nat := (r + 1) % p.n

/-- Whether a plan's algorithm has a stream (R302). -/
def Plan.uses (p : Plan) (f : Flow) : Bool :=
  let op := if p.mc.isSome then 16 else p.key.op
  let n := p.n
  op ≠ 7 &&
  match p.alg, f with
  | 0, .direct i j => i < n && j < n
  | 1, .direct i j => i = j && i < n && (op ≠ 3 || i = p.key.root)
  | 1, .ring r i => op ≠ 1 && r < n && i < n && p.next r ≠ i && (op ≠ 3 || i = p.key.root)
  | 1, .ringPart r j => op ≤ 1 && r < n && j < n && r ≠ j
  | 2, .upPart r => op = 0 && 0 < r && r < n
  | 2, .up r i => op = 2 && 0 < r && i < n && r ≤ i && belowRank r i
  | 2, .cast i => if op = 2 then i < n else i = (if op = 3 then p.key.root else 0)
  | 3, .give r => r < n
  | 3, .merged q => q ≠ p.head && p.nodes.contains q
  | 3, .cast i => if op = 1 then i < n else i = 0
  | _, _ => false

/-- The streams that a rank sends, and those that the switch of a node sends. -/
def Plan.flowsOf (p : Plan) (r : Nat) : List Flow :=
  let all := List.range p.n
  ([Flow.upPart r, .give r] ++ all.map (Flow.direct r) ++ all.map (Flow.ring r) ++ all.map (Flow.ringPart r) ++ all.map (Flow.up r) ++
    if p.alg = 2 && r = (if p.key.op = 3 then p.key.root else 0) then all.map Flow.cast else []).filter p.uses
def Plan.flowsAt (p : Plan) (node : Nat) : List Flow :=
  if p.alg ≠ 3 then []
  else (Flow.merged node :: if node = p.head then (List.range p.n).map Flow.cast else []).filter p.uses

/-- The node that sends a stream, and the nodes that it reaches (R302, R304). -/
def Plan.srcNode (p : Plan) : Flow → Nat
  | .direct r _ | .ring r _ | .ringPart r _ | .up r _ | .upPart r | .give r => p.node r
  | .cast i => if p.alg = 2 && p.key.op = 3 then p.node i else p.head
  | .merged q => q
def Plan.dstNodes (p : Plan) : Flow → List Nat
  | .direct _ j => [p.node j]
  | .ring r _ | .ringPart r _ => [p.node (p.next r)]
  | .up r _ | .upPart r => [p.node (treeParent r)]
  | .give r => [p.node r]
  | .merged _ => [p.head]
  | .cast i =>
    match p.mc with
    | some (q, b) => if (mcView b).mode = 0 then [q] else p.nodes
    | none => if p.alg = 3 && p.key.op = 1 then [p.node i] else p.nodes

/-- The route of a stream, named by its first stream: from one endpoint to the next there is one (R302, R306). -/
def Plan.way (p : Plan) : Flow → Flow
  | .ring r _ | .ringPart r _ => .ring r 0
  | .up r _ | .upPart r => .upPart r
  | .cast i => if p.alg = 3 && p.key.op = 1 && p.mc.isNone then .cast i else .cast 0
  | f => f

/-- The block of a rank of this package. -/
def Plan.opAt (s : State) (p : Plan) (r : Nat) : Option FabOp := (p.own.find? fun e => e.1 = r).bind fun e => s.fabOp e.2

/-- The bytes that a rank sends to another, or all where all get the same (R270, R279). -/
def Plan.itemLen (s : State) (p : Plan) (i j : Nat) : Nat :=
  let k := p.key
  let w := codeWidth k.dtype
  match k.op with
  | 5 =>
    match p.opAt s i, p.opAt s j with
    | some o, _ => nBytes (o.vtab.getD j (0, 0, 0, 0)).2.1 w
    | none, some o => nBytes (o.vtab.getD i (0, 0, 0, 0)).2.2.2 w
    | none, none => 0
  | 6 =>
    let m := stitchView ((k.smap.foldr (fun w a => w.toNat + 2 ^ 64 * a) 0 : Nat) : BitVec 512)
    m.elems / p.n * m.size
  | _ => nBytes k.count w

/-- The length of a stream, in elements of a reduction or in bytes. -/
def Plan.len (s : State) (p : Plan) (f : Flow) : Nat :=
  let part (j : Nat) : Nat := (p.seg j).2 - (p.seg j).1
  if p.reduces then
    match f with
    | .direct i _ => part i
    | .ring _ j | .ringPart _ j => part j
    | .cast i => if p.key.op = 1 && p.mc.isNone then part i else p.elems
    | _ => p.elems
  else
    match f with
    | .direct i j => p.itemLen s i j
    | .ring _ i | .up _ i | .cast i => p.itemLen s i i
    | _ => 0

/-- The bytes of an element on the wire (R303): a partial, an operand, or a result. -/
def Plan.unit (p : Plan) (f : Flow) : Nat :=
  if !p.reduces then 1
  else
    match f with
    | .ringPart _ _ | .upPart _ | .merged _ => p.red.pBytes
    | .give _ => p.red.dBytes
    | _ => p.red.rBytes

/-- The most elements that a packet of a stream holds: up to 1,024 bytes of payload (R306). -/
def Plan.most (p : Plan) (f : Flow) : Nat := max 1 (1024 / max 1 (p.unit f))

/-- How far a stream has come. -/
def Plan.pos (p : Plan) (f : Flow) : Nat := ((p.moved.find? fun e => e.1 = f).map (·.2)).getD 0

/-- Whether no more of a stream comes (R277, R376). -/
def Plan.isDry (p : Plan) (f : Flow) : Bool := p.dry.contains f || p.lost.contains (p.srcNode f)

/-- The rank whose memory a stream's elements are read from. -/
def Plan.reader (p : Plan) : Flow → Option Nat
  | .direct i _ => some i
  | .ringPart r _ | .upPart r | .give r => some r
  | .up r i => if r = i then some r else none
  | .cast i => if p.alg = 2 && (p.key.op ≠ 2 || i = 0) then some i else none
  | _ => none

/-- What reaches the switch of a node (R304): its own members' elements, and at the reduction point the other packages' partials. -/
def Plan.sources (p : Plan) (node : Nat) : List Flow :=
  (p.ranks node).map .give ++ if node = p.head then (p.nodes.filter fun q => q ≠ node).map .merged else []

/-- The streams from which a stream is formed (R302, R304). -/
def Plan.feeds (p : Plan) : Flow → List Flow
  | .direct i _ => if p.reduces && 1 < p.n then [.ringPart (p.prev i) i] else []
  | .ring r i => [if r = i then .direct r r else .ring (p.prev r) i]
  | .ringPart r j => if r = p.next j then [] else [.ringPart (p.prev r) j]
  | .up r i => if r = i then [] else [.up (childToward r i) i]
  | .upPart r => (treeChildren p.n r).map .upPart
  | .give _ => []
  | .merged q => p.sources q
  | .cast i =>
    if p.alg = 3 then p.sources p.head
    else match p.key.op with
      | 0 => (treeChildren p.n 0).map .upPart
      | 2 => if i = 0 then [] else [.up (childToward 0 i) i]
      | _ => []

/-- The element of a feeding stream from which a stream's first element is formed. -/
def Plan.shift (p : Plan) : Flow → Nat
  | .cast i => if p.alg = 3 && p.key.op = 1 && p.mc.isNone then (p.seg i).1 else 0
  | _ => 0

/-- The count of a plan's block or descriptor (R269, R280). -/
def Plan.count (p : Plan) : Nat :=
  match p.mc with
  | some (_, b) => (mcView b).count
  | none => p.key.count

/-- Elements of an accumulator window: min(4,096, count), within the accumulators that there are (R304, R306). -/
def Plan.window (p : Plan) : Nat := min (min 4096 p.count) (if p.red.wide then 2340 else 16384)

/-- The elements that the reduction point has sent out (R304). -/
def Plan.sentOut (s : State) (p : Plan) : Nat :=
  if s.ownNode p.head then ((List.range p.n).map fun i => p.pos (.cast i)).foldl (· + ·) 0 else p.out

/-- How far a stream of this package could go now: as far as what it is formed from, and for the elements that a rank gives to a
reduction as far as the current window (R307). A descriptor's result waits for every member (R281). -/
def Plan.ready_ (s : State) (p : Plan) (f : Flow) : Nat :=
  let len := p.len s f
  let lim := (p.feeds f).foldl (fun a g => min a (p.pos g - p.shift f)) len
  match f with
  | .give _ => min lim ((p.sentOut s / max 1 p.window + 1) * p.window)
  | .cast _ => if p.mc.isSome && lim < len then 0 else lim
  | _ => lim

/-- Whether the rank that a stream reads from can no longer be read: it has ended, or has met a memory fault (R277). -/
def Plan.cut (s : State) (p : Plan) (f : Flow) : Bool :=
  match p.reader f with
  | some r => p.mc.isNone && !(p.opAt s r).any fun o => !o.bad
  | none => false

/-- Whether a stream of this package has come to its end before its length. -/
def Plan.starved (s : State) (p : Plan) (f : Flow) : Bool :=
  p.pos f < p.len s f && (p.cut s f ||
    (p.ready_ s f ≤ p.pos f && (p.feeds f).any fun g => p.isDry g && p.pos g - p.shift f ≤ p.pos f))

/-- The stream that brings an item to a rank. -/
def Plan.brings (p : Plan) (r i : Nat) : Flow :=
  match p.alg with
  | 0 => .direct i r
  | 1 => if r = i then .direct r r else .ring (p.prev r) i
  | _ => .cast i

/-- Whether no more of an item comes to a rank. -/
def Plan.gone (p : Plan) (r i : Nat) : Bool := p.isDry (p.brings r i)

/-! ### Plans -/

def setPlan (s : State) (p q : Plan) : State :=
  s.onFabSys fun b => { b with plans := b.plans.map fun x => if x = p then q else x }

/-- The plan of a group. -/
def groupPlan (s : State) (g : Nat) : Option Plan := s.fab.plans.find? fun p => p.group = g

/-- A fabric port (R6); an untouched one is up with nothing sent. -/
def State.port (s : State) (p : Nat) : FabPort :=
  (s.fab.ports.find? fun x => x.id = p).getD ⟨p, true, false, 0, false, 0, 0, 0, 0, 0, 0⟩

def State.setPort (s : State) (x : FabPort) : State :=
  s.onFabSys fun b => { b with ports := x :: b.ports.filter fun y => y.id ≠ x.id }

/-- The port of the first hop toward a node: from the one that routing names, the first that is up of those that collectives may
use, 0 to 23 (R335); 24 while none is up. -/
def routePort (s : State) (node : Nat) : Nat :=
  (((List.range 24).map fun i => (Config.route s.node node + i) % 24).find? fun p => (s.port p).up).getD 24

/-- The nodes that a stream of this package has to reach over the fabric. -/
def Plan.away_ (s : State) (p : Plan) (f : Flow) : List Nat :=
  (p.dstNodes f).filter fun q => !s.ownNode q && !p.lost.contains q

/-- Adds packets to a route's hop. -/
def addHop (l : List (Flow × Nat × Nat)) (way : Flow) (port k : Nat) : List (Flow × Nat × Nat) :=
  match l with
  | [] => [(way, port, k)]
  | e :: t => if e.1 = way && e.2.1 = port then (way, port, e.2.2 + k) :: t else e :: addHop t way port k

/-- Puts a hop in its place by ascending port (R306). -/
def insertHop (h : Hop) : List Hop → List Hop
  | [] => [h]
  | x :: t => if x.port ≤ h.port then x :: insertHop h t else h :: x :: t

/-- The streams that this package sends. -/
def Plan.ownFlows (s : State) (p : Plan) : List Flow := (p.ranks s.node).flatMap p.flowsOf ++ p.flowsAt s.node

/-- The hops of a plan's routes at this package's switch, their windows min(16, the packets that the route carries) (R306). -/
def planHops (s : State) (p : Plan) : List Hop :=
  let l := (p.ownFlows s).foldl (fun l f =>
    let k := (p.len s f + p.most f - 1) / p.most f
    if k = 0 then l else (p.away_ s f).foldl (fun l q => addHop l (p.way f) (routePort s q) k) l) []
  l.foldl (fun hs e => insertHop ⟨e.1, e.2.1, min 16 e.2.2, false, 0⟩ hs) []

/-- Settles the status of an own rank whose chunks are all delivered or lost (R277, R376). -/
def settleOp (s : State) (i : Nat) : State :=
  match s.fabOp i, planOf s i with
  | some o, some p =>
    if o.mc || o.status.isSome || !p.ready then s
    else
      match o.settled (p.gone o.view.rank) with
      | some st => decideOp s i st
      | none => s
  | _, _ => s

def settlePlan (s : State) (p : Plan) : State := p.own.foldl (fun s e => settleOp s e.2) s

/-- Whether ranges reach a synchronisation or event-unit window (R363). -/
def meetsWindow (l : List (Nat × Nat)) : Bool :=
  l.any fun r => r.2 ≠ 0 && r.1 < 0x00F6000000000000 && 0x00F4000000000000 < r.1 + r.2

/-- Whether an own block still reads what it sends. -/
def sorting (s : State) (p : Plan) (r : Nat) : Bool :=
  (p.flowsOf r).any fun f => p.pos f < p.len s f && !p.isDry f

/-- The reorder units go to stitch-exchange blocks in the order of admission, one block of one rank each, and come back when the
block has sent everything (R311). -/
def sortUnits (s : State) : State :=
  let of6 := (s.fab.plans.filter fun p => p.ready && p.mc.isNone && p.key.op = 6).flatMap fun p =>
    p.own.map fun e => (e.2, sorting s p e.1)
  of6.foldl (fun s e =>
    match s.fabOp e.1 with
    | some o =>
      if o.unit && !e.2 then onFab s e.1 fun o => { o with unit := false, sorted := true }
      else if !o.unit && !o.sorted && (s.fab.ops.filter fun q => q.unit).length < 8 then onFab s e.1 fun o => { o with unit := true }
      else s
    | none => s) s

/-- A plan holds all that it needs, and data may move (R306). A rank whose receive buffer reaches a synchronisation window ends
FAULT, and one whose send buffer does sends nothing (R363). -/
def startPlan (s : State) (p : Plan) (need : Nat) : State :=
  let q := { p with ready := true, accs := need }
  let s := setPlan s p q
  let s := q.own.foldl (fun s e =>
    match s.fabOp e.2 with
    | some o =>
      if o.mc then s
      else
        let s := if meetsWindow (sendPlan o.view o.stitch o.vtab) then onFab s e.2 fun o => { o with bad := true } else s
        if meetsWindow (bufRanges o.view o.stitch o.vtab).2 then decideOp s e.2 8 else s
    | none => s) s
  sortUnits (settlePlan s q)

/-- Adds a plan; its operations are admitted. A barrier moves no data (R305). -/
def addPlan (s : State) (p : Plan) : State :=
  let p := { p with hops := planHops s p }
  let s := s.onFabSys fun b => { b with plans := b.plans ++ [p] }
  let s := p.own.foldl (fun s e => onFab s e.2 fun o => { o with stage := .admitted, alg := p.alg }) s
  if p.mc.isNone && p.key.op = 7 then startPlan s p 0 else s

/-- A plan of a block, or of a descriptor with its issuer's node, that nothing has been done of. -/
def newPlan (g : Nat) (members : List Member) (mc : Option (Nat × BitVec 1024)) (key : BlockKey) (alg : Nat)
    (own ended : List (Nat × Nat)) (away : List Nat) : Plan where
  group := g
  members := members
  mc := mc
  key := key
  alg := algOf (if mc.isSome then 16 else key.op) alg
  own := own
  ended := ended
  ready := false
  accs := 0
  hops := []
  moved := []
  dry := []
  lost := []
  away := away
  point := []
  out := 0
  result := []
  written := []
  te := 0

/-- The nodes of a list of members other than this package's. -/
def otherNodes (s : State) (l : List Member) : List Nat := ((l.map (·.node)).filter fun q => !s.ownNode q).eraseDups

/-- The nodes from which a descriptor's issuer awaits word (R390): those of the other members that get the result. -/
def mcAway (s : State) (b : BitVec 1024) (l : List Member) : List Nat := if (mcView b).mode = 1 then otherNodes s l else []

def BlockKey.none : BlockKey := ⟨16, 0, 0, 0, 0, 0, 0, 0, 0, [], 0, []⟩

/-! ### Admission -/

/-- Admits the next item of a group that this expander coordinates (R272, R301, R376). -/
def admitOwn (s : State) (c : Coord) : State :=
  match c.order with
  | [] => s
  | .block num :: rest =>
    let ws := c.waiting.filter fun a => a.num = num
    let s := s.setCoord { c with order := rest, waiting := c.waiting.filter fun a => a.num ≠ num }
    let own := ws.filterMap fun a => a.op.map fun i => (a.key.rank, i)
    let ended := ws.filterMap fun a => a.ended.map fun st => (a.key.rank, st)
    let key := ((ws.map (·.key)).find? fun k => k.rank = 0).getD BlockKey.none
    let refuse (st : Nat) : State :=
      if own = [] then s else
      let rest := (List.range c.list.length).filter fun r => !(own.any fun e => e.1 = r) && !(ended.any fun e => e.1 = r)
      let s := addPlan s (newPlan c.id c.list none key key.alg own (ended ++ rest.map fun r => (r, st)) [])
      own.foldl (fun s e => decideOp s e.2 st) s
    if c.dead then refuse 6
    else if !agreeAll (ws.map (·.key)) then refuse 8
    else if own = [] && otherNodes s c.list = [] then s
    else addPlan s (newPlan c.id c.list none key key.alg own ended (otherNodes s c.list))
  | .own i :: rest =>
    if !c.complete then s
    else
      let s := s.setCoord { c with order := rest }
      match s.fabOp i with
      | none => s
      | some o =>
        if o.status.isSome then s
        else if c.dead then decideOp s i 6
        else addPlan s (newPlan c.id (namedBy s.node o.members) (some (s.node, o.block)) BlockKey.none 0 [(0, i)] []
          (mcAway s o.block (namedBy s.node o.members)))
  | .peer q b :: rest =>
    if !c.complete then s
    else
      let s := s.setCoord { c with order := rest }
      if c.dead then s else addPlan s (newPlan c.id c.list (some (q, b)) BlockKey.none 0 [] [] [q])

/-- What another package's expander says of the next item of a group (R300, R301): a block by its number, a descriptor of this
package (`seq` 1) by its address, or another package's; admitted, or ended with a status. -/
def admitRemote (s : State) (g : Nat) : State :=
  let i := s.input
  let st := if i.err = 6 then 6 else 8
  let sent := s.fab.ops.filter fun o => o.group = g && o.stage = .sent && !coordinated s o
  match i.fwd with
  | .peerMc q b =>
    if i.good then
      addPlan s (newPlan g (namedBy s.node (s.members g)) (some (q, b.setWidth 1024)) BlockKey.none 0 [] [] [])
    else s
  | _ =>
    if i.seq = 1 then
      match sent.find? fun o => o.mc && o.addr = i.addr && o.status.isNone with
      | none => s
      | some o =>
        let l := namedBy s.node o.members
        if i.good then addPlan s (newPlan g l (some (s.node, o.block)) BlockKey.none 0 [(0, o.id)] [] (mcAway s o.block l))
        else decideOp s o.id st
    else
      let ms := sent.filter fun o => !o.mc && o.num = i.chunk
      match ms with
      | [] => s
      | o :: _ =>
        if i.good then
          addPlan s (newPlan g (namedBy s.node o.members) none o.key i.alg (ms.map fun o => (o.view.rank, o.id)) [] [])
        else ms.foldl (fun s o => decideOp s o.id st) s

/-- Keeps the leases as what is still to be read says (R93, R273, R312). -/
def leasesOf (s : State) (o : FabOp) : List Lease :=
  let at_ (l : List (Nat × Nat)) : List Lease := l.map fun r => ⟨o.by_.core, r.1, r.2⟩
  if o.mc || o.bad then []
  else
    match planOf s o.id with
    | none => at_ (sendPlan o.view o.stitch o.vtab)
    | some p =>
      let dw := p.red.dBytes
      (p.flowsOf o.view.rank).flatMap fun f =>
        let k := p.pos f
        let n := p.len s f - k
        if p.reader f ≠ some o.view.rank || p.isDry f || n = 0 || (p.dstNodes f).all (p.lost.contains ·) then []
        else if p.reduces then
          let b := match f with
            | .direct i _ => (p.seg i).1
            | .ringPart _ j => (p.seg j).1
            | _ => 0
          at_ [(o.view.sbuf + (b + k) * dw, n * dw)]
        else
          at_ (o.source (match f with | .direct _ j => j | _ => 0) k n)

/-- The first address of an own member's operand, from an element on (R281). -/
def mcSource (m : Member) (v : McView) (k dw : Nat) : Nat := m.base + v.soff + k * dw

/-- The operands that a descriptor has still to read of own members. -/
def mcLeases (s : State) (p : Plan) : List Lease :=
  match p.mc with
  | none => []
  | some (_, b) =>
    let dw := p.red.dBytes
    (p.ranks s.node).flatMap fun r =>
      match p.members[r]? with
      | some m =>
        let k := p.pos (.give r)
        if p.isDry (.give r) || p.elems ≤ k then []
        else [⟨coreOfFloe m.floe 0, mcSource m (mcView b) k dw, (p.elems - k) * dw⟩]
      | none => []

def relet (s : State) : State :=
  s.onFabSys fun b => { b with leases := b.ops.flatMap (leasesOf s) ++ b.plans.flatMap (mcLeases s) }

/-- The outcome of the expander's steps: the leases follow what is still to be read. -/
def doneFab (s : State) : Host.Outcome State Fault Refusal := done (relet s)

/-- BLOCK_ADMIT (R301, R388) of a group: one plan at a time. -/
def execBlockAdmit (s : State) : Host.Outcome State Fault Refusal :=
  let g := s.input.group
  doneFab (if (groupPlan s g).isSome then s
    else
      match s.coord g with
      | some c => if c.order = [] then admitRemote s g else admitOwn s c
      | none => admitRemote s g)

/-! ### Reservation -/

/-- Bytes of exact accumulators in the moraine die's reduction units: 16,384 XA32 or 2,340 XA64 (R303, R304). -/
def accBytes : Nat := 655360

/-- Accumulator bytes that a plan needs (R303, R306): at the coordinating package, for an in-switch reduction. -/
def accNeed (s : State) (p : Plan) : Nat :=
  if p.reduces && p.alg = 3 && s.ownNode p.head then p.window * Acc.size p.red.wide else 0

/-- Whether a plan's other switches' windows must be held before this switch's turn, and before data may move (R306): those of lower,
and of higher, node numbers. -/
def Plan.lowerNodes (s : State) (p : Plan) : Bool := p.nodes.any fun q => !s.ownNode q && q < s.node
def Plan.higherNodes (s : State) (p : Plan) : Bool := p.nodes.any fun q => !s.ownNode q && s.node < q

/-- PLAN_RESERVATION (R306) of a group's plan: its next step. The windows at this switch in ascending port order, then the
accumulators; `good` is word that the windows at the switches that come before, and then of those after, are held. A stream that only
crosses this switch takes its window in its port's place. -/
def execPlanReservation (s : State) : Host.Outcome State Fault Refusal :=
  let i := s.input
  doneFab (match s.fab.plans.find? fun p => p.group = i.group && !p.ready with
    | none => s
    | some p =>
      let free := p.hops.filter fun h => !h.held
      let crosses := p.uses i.flow && !s.ownNode (p.srcNode i.flow) && (p.dstNodes i.flow).all (fun q => !s.ownNode q) &&
        i.port < 24 && (p.hops.all fun h => if h.held then h.port ≤ i.port else i.port ≤ h.port)
      if crosses then
        let x := s.port i.port
        let w := min 16 i.len
        if !x.up || 512 < x.slots + w || (p.hops.any fun h => h.way = p.way i.flow) then s
        else setPlan (s.setPort { x with slots := x.slots + w }) p
          { p with hops := insertHop ⟨p.way i.flow, i.port, w, true, 0⟩ p.hops }
      else
        match free with
        | h :: _ =>
          let x := s.port h.port
          if (p.lowerNodes s && !i.good && !p.hops.any fun h => h.held) || 24 ≤ h.port || !x.up || 512 < x.slots + h.win then s
          else setPlan (s.setPort { x with slots := x.slots + h.win }) p
            { p with hops := p.hops.map fun g => if g = h then { g with held := true } else g }
        | [] =>
          let need := accNeed s p
          if ((p.lowerNodes s || p.higherNodes s) && !i.good) ||
              accBytes < s.fab.plans.foldl (fun a q => a + q.accs) need then s
          else startPlan s p need)

/-- SLOT_FREE_NOTICE (R307) of a plan's route at a port: a packet has left the next stage, and its credit returns. -/
def execSlotFreeNotice (s : State) : Host.Outcome State Fault Refusal :=
  let i := s.input
  done (match groupPlan s i.group with
    | none => s
    | some p =>
      match p.hops.find? fun h => h.way = p.way i.flow && h.port = i.port && 0 < h.used with
      | none => s
      | some h =>
        let x := s.port i.port
        setPlan (s.setPort { x with used := x.used - 1 }) p
          { p with hops := p.hops.map fun g => if g = h then { g with used := g.used - 1 } else g })

/-! ### Steps -/

/-- A packet's bytes, or what an own rank reads: it comes, with a timestamp, it never comes because of a memory fault (R277), or it
has to wait. -/
inductive Packeted where
  | data (s : State) (bs : List Byte) (te : Nat)
  | lost
  | wait

/-- What is read of ranges for a packet (R93): the sources' `wts` count, and their `rts` rise to the order point. -/
def readSource (s : State) (core tenant ti : Nat) (l : List (Nat × Nat)) : Packeted :=
  let s := settleRows s l
  match spansList s core tenant .rd l with
  | .fault _ => .lost
  | .wait => .wait
  | .ok ss =>
    let te := engineTe s ti ss []
    .data (engineLease s te ss) (engineRead s ss) te

/-- The tenant whose range of groups holds a group (R267). -/
def groupTenant (s : State) (g : Nat) : Nat :=
  ((s.lp.tenants.find? fun c => c.gFirst ≤ g && g < c.gFirst + c.gCount).map (·.id)).getD 0

/-- The tenant of a descriptor's accesses, and the core whose own scratch window they may name (R59): the issuer's, in its package. -/
def Plan.mcBy (s : State) (p : Plan) : Nat × Option Nat :=
  match p.opAt s 0 with
  | some o => (o.by_.tenant, some o.by_.core)
  | none => (groupTenant s p.group, none)

/-- Whether an access of a member's memory would name the scratch window of a core that no engine of another floe can reach (R59). -/
def foreignScratch (issuer : Option Nat) (core a n : Nat) : Bool :=
  issuer ≠ some core && n ≠ 0 && a < 0x00F1000000000000 && 0x00F0000000000000 < a + n

/-- Elements `k` up to `k + n` of a stream as they are read from an own rank's memory (R270, R281). -/
def ownRead (s : State) (p : Plan) (f : Flow) (r k n : Nat) : Packeted :=
  let dw := p.red.dBytes
  match p.mc with
  | some (_, b) =>
    match p.members[r]? with
    | none => .lost
    | some m =>
      let core := coreOfFloe m.floe 0
      let a := mcSource m (mcView b) k dw
      let (tenant, by_) := p.mcBy s
      if foreignScratch by_ core a (n * dw) then .lost
      else readSource s core tenant p.te [(a, n * dw)]
  | none =>
    match p.opAt s r with
    | none => .lost
    | some o =>
      if o.bad then .lost
      else
        readSource s o.by_.core o.by_.tenant o.by_.ti
          (if p.reduces then
            let b := match f with
              | .direct i _ => (p.seg i).1
              | .ringPart _ j => (p.seg j).1
              | _ => 0
            [(o.view.sbuf + (b + k) * dw, n * dw)]
          else o.source (match f with | .direct _ j => j | _ => 0) k n)

/-- The bytes that a feeding stream has left for elements `k` up to `k + n` (R302, R304): at the rank that it reaches, or at this
package's switch. -/
def Plan.left_ (s : State) (p : Plan) (g : Flow) (k n : Nat) : List Byte :=
  let cut (u : Nat) (l : List Byte) : List Byte := (l.drop (k * u)).take (n * u)
  let of (r : Nat) (sel : FabOp → List Byte) : List Byte := cut (p.unit g) (((p.opAt s r).map sel).getD [])
  match g with
  | .direct r _ => of r fun o => held o.got r
  | .ring r i => of (p.next r) fun o => held o.got i
  | .ringPart r j => of (p.next r) fun o => held o.parts j
  | .up r i => of (treeParent r) fun o => held o.parts i
  | .upPart r => of (treeParent r) fun o => held o.parts r
  | .give r => cut p.red.pBytes (held p.point r)
  | .merged q => cut p.red.pBytes (held p.point (p.n + q))
  | .cast _ => []

/-- What a stream makes of an own rank's elements and of what feeds it: bytes as they are, merged partials (R303), or their one
rounding where the elements are finished. -/
def Plan.form (p : Plan) (f : Flow) (own : Option (List Byte)) (fed : List (List Byte)) : List Byte :=
  if !p.reduces then own.getD (fed.headD [])
  else
    let m := p.red.mergeList ((own.map p.red.liftAll).toList ++ fed)
    match f with
    | .direct _ _ | .cast _ => p.red.finishAll m
    | _ => m

/-- The packet of elements `k` up to `k + n` of a stream that this package sends (R302). -/
def packet (s : State) (p : Plan) (f : Flow) (k n : Nat) : Packeted :=
  let fed := (p.feeds f).map fun g => p.left_ s g (k + p.shift f) n
  match p.reader f with
  | none => .data s (p.form f none fed) p.te
  | some r =>
    match ownRead s p f r k n with
    | .data s bs te => .data s (p.form f (some bs) fed) te
    | e => e

/-- A packet's flits at a port: a header flit, and one for each 32 bytes (R306). -/
def flitsOf (n : Nat) : Nat := 1 + (n + 31) / 32

/-- A packet of `n` bytes of a stream takes a slot of the plan's window on every hop of its route here, and its flits wait in the replay
buffer of 4,096 flits (R307, R373); none without a credit or room. -/
def takeCredit (s : State) (p : Plan) (f : Flow) (n : Nat) : Option (State × Plan) :=
  let far := p.away_ s f
  let crosses := !s.ownNode (p.srcNode f)
  let mine := p.hops.filter fun h => h.way = p.way f && (crosses || far.any fun q => routePort s q = h.port)
  if far = [] then some (s, p)
  else if mine = [] || mine.any (fun h =>
      let x := s.port h.port
      !h.held || h.win ≤ h.used || !x.up || x.training || x.acked + 4096 < x.sent + flitsOf n) then none
  else
    let s := mine.foldl (fun s h => let x := s.port h.port; s.setPort { x with used := x.used + 1, sent := x.sent + flitsOf n }) s
    some (s, { p with hops := p.hops.map fun h => if mine.contains h then { h with used := h.used + 1 } else h })

/-- What an own rank receives of a stream (R302): finished data of an item, or partials and data to forward. -/
def giveOp (s : State) (p : Plan) (r i : Nat) (final : Bool) (bs : List Byte) (te : Nat) : State :=
  match p.own.find? fun e => e.1 = r with
  | none => s
  | some e => onFab s e.2 fun o =>
      { (if final then { o with got := hold o.got i bs } else { o with parts := hold o.parts i bs }) with te := max o.te te }

/-- A packet reaches the places of this package that its stream leads to (R302, R304). -/
def deposit (s : State) (p : Plan) (f : Flow) (n : Nat) (bs : List Byte) (te : Nat) : State :=
  let q := { p with moved := (f, p.pos f + n) :: p.moved.filter fun e => e.1 ≠ f }
  let s' := setPlan s p q
  match f with
  | .direct i j => giveOp s' q j i true bs te
  | .ring r i => giveOp s' q (p.next r) i true bs te
  | .ringPart r j => giveOp s' q (p.next r) j false bs te
  | .up r i => giveOp s' q (treeParent r) i false bs te
  | .upPart r => giveOp s' q (treeParent r) r false bs te
  | .give r => setPlan s p { q with point := hold p.point r bs, te := max p.te te }
  | .merged m => if s.ownNode p.head then setPlan s p { q with point := hold p.point (p.n + m) bs, te := max p.te te } else s'
  | .cast i =>
    if p.mc.isSome then
      if (p.dstNodes f).any s.ownNode then setPlan s p { q with result := p.result ++ bs, te := max p.te te } else s'
    else if p.key.op = 1 then giveOp s' q i i true bs te
    else q.own.foldl (fun s e => giveOp s q e.1 i true bs te) s'

/-- No more of a stream comes (R277, R281, R376): the ranks that it would have reached settle. -/
def markDry (s : State) (p : Plan) (f : Flow) : State :=
  let q := { p with dry := f :: p.dry }
  let s := setPlan s p q
  if p.mc.isSome then p.own.foldl (fun s e => decideOp s e.2 8) s else settlePlan s q

/-- A memory fault in what a rank sends (R277): its stream ends, and the rank will end FAULT. -/
def loseRead (s : State) (p : Plan) (f : Flow) : State :=
  let s := match p.reader f with
    | some r => (if p.mc.isSome then [] else p.own.filter fun e => e.1 = r).foldl (fun s e => onFab s e.2 fun o => { o with bad := true }) s
    | none => s
  markDry s p f

/-- Whether a rank's stitch exchange has a reorder unit (R311); other streams need none. -/
def hasUnit (s : State) (p : Plan) (f : Flow) : Bool :=
  p.mc.isSome || p.key.op ≠ 6 || match p.reader f with
    | some r => (p.opAt s r).any fun o => o.unit
    | none => true

/-- Whether this package takes a descriptor's result (R281). -/
def Plan.mcHere (s : State) (p : Plan) : Bool := (p.dstNodes (.cast 0)).any s.ownNode

/-- The own places to which a descriptor's result goes (R281): a rank, a core, an address. -/
def Plan.mcTargets (s : State) (p : Plan) : List (Nat × Nat × Nat) :=
  match p.mc with
  | none => []
  | some (q, b) =>
    let v := mcView b
    if v.mode = 0 then
      if s.ownNode q then [(0, ((p.opAt s 0).map (·.by_.core)).getD 0, v.dst)] else []
    else (p.ranks s.node).filterMap fun r => (p.members[r]?).map fun m => (r, coreOfFloe m.floe 0, m.base + v.dst)

/-- Whether this package's part of a descriptor is done: the result is written at all its places, or it takes none and its members'
partials have gone. -/
def Plan.mcDone (s : State) (p : Plan) : Bool :=
  if p.mcHere s then (p.mcTargets s).all fun t => p.written.contains t.1
  else if s.ownNode p.head then p.elems ≤ p.pos (.cast 0)
  else p.ranks s.node = [] || p.elems ≤ p.pos (.merged s.node)

/-- The ranks of a list on a lost node. -/
def lostRanks (s : State) (l : List Member) : List Nat :=
  (List.range l.length).filter fun r =>
    match l[r]? with
    | some m => !s.ownNode m.node && (s.isLost m.node || m.node = s.input.node)
    | none => false

/-- A descriptor of this package ends once every result write has been performed at its home; a member lost before its write was
performed leaves PEER_ABSENT (R390). -/
def settleMc (s : State) (g : Nat) : State :=
  match groupPlan s g with
  | none => s
  | some p =>
    if p.mc.isSome && p.mcDone s && p.away = [] then
      p.own.foldl (fun s e =>
        match s.fabOp e.2 with
        | some o => decideOp s e.2 (if o.bad then 8 else if p.ended ≠ [] then 6 else 0)
        | none => s) s
    else s

/-- Gives back the slots that a plan holds (R306). -/
def giveBack (s : State) (p : Plan) : State :=
  p.hops.foldl (fun s h =>
    if h.held then let x := s.port h.port; s.setPort { x with slots := x.slots - h.win, used := x.used - h.used } else s) s

/-- A plan whose item has ended at every member of which this expander has to know frees what it has reserved (R301, R306). -/
def endPlan (s : State) (g : Nat) : State :=
  match groupPlan s g with
  | none => s
  | some p =>
    let past := p.own = [] && (p.away.all s.isLost) && (match p.mc with
      | some (q, _) => s.ownNode q || p.mcDone s
      | none => true)
    if past then giveBack (s.onFabSys fun b => { b with plans := b.plans.filter fun q => q ≠ p }) p else s

/-- What follows a packet: the reorder units, the ranks, the descriptor, and the plan's end. -/
def afterPacket (s : State) (g : Nat) : State :=
  let s := sortUnits (match groupPlan s g with | some p => settlePlan s p | none => s)
  endPlan (settleMc s g) g

/-- The next packet of a stream of this package. -/
def sendStep (s : State) (p : Plan) (f : Flow) : State :=
  let k := p.pos f
  let n := min (p.most f) (p.ready_ s f - k)
  if p.starved s f then markDry s p f
  else if n = 0 || !hasUnit s p f then s
  else
    match packet s p f k n with
    | .wait => s
    | .lost => loseRead s p f
    | .data s' bs te =>
      match takeCredit s' p f (n * p.unit f) with
      | none => s
      | some (s, q) =>
        let s := setPlan s p q
        afterPacket (deposit s q f n bs te) p.group

/-- The next packet of a stream of another package, or word that no more comes of it; one that crosses this switch is sent on. -/
def recvStep (s : State) (p : Plan) (f : Flow) : State :=
  match s.input.data with
  | none => if p.pos f < p.len s f then markDry s p f else s
  | some bs =>
    let u := p.unit f
    let n := bs.length / u
    if n = 0 || bs.length ≠ n * u || 1024 < bs.length || p.len s f < p.pos f + n then s
    else
      match (if (p.dstNodes f).any s.ownNode then some (s, p) else takeCredit s p f bs.length) with
      | none => s
      | some (s, q) => afterPacket (deposit (setPlan s p q) q f n bs s.input.ts) p.group

/-- COLLECTIVE_STEP (R302, R307) of a group's plan: the next packet of a stream. -/
def execCollectiveStep (s : State) : Host.Outcome State Fault Refusal :=
  let f := s.input.flow
  doneFab (match s.fab.plans.find? fun p => p.group = s.input.group && p.ready with
    | none => s
    | some p =>
      if !p.uses f || p.isDry f then s
      else if s.ownNode (p.srcNode f) then sendStep s p f
      else recvStep s p f)

/-- REDUCTION_WINDOW_COMPLETE (R304) of a group's plan: the reduction point rounds the next elements to which every member has
contributed and sends them out; from another package's reduction point, word that it has sent out a window. -/
def execReductionWindowComplete (s : State) : Host.Outcome State Fault Refusal :=
  doneFab (match s.fab.plans.find? fun p => p.group = s.input.group && p.ready with
    | none => s
    | some p =>
      if !p.reduces || p.alg ≠ 3 then s
      else if s.ownNode p.head then
        match s.input.flow with
        | .cast i => if p.uses (.cast i) && !p.isDry (.cast i) then sendStep s p (.cast i) else s
        | _ => s
      else setPlan s p { p with out := min p.elems ((p.out / max 1 p.window + 1) * p.window) })

/-! ### Deliveries -/

/-- The 8 bytes of a block that hold its status and cdone (R269). -/
def hwField (st cdone : Nat) : List Byte := leBytes 8 (st + cdone * 2 ^ 32)

/-- One chunk's delivery as one engine operation: its bytes, its bitmap bit and cdone (R264, R274). -/
def chunkOp (s : State) (o : FabOp) (q : Nat) : EngineEnd :=
  let v := o.view
  let ps := pieces (o.chunkBytes q)
  let bm := if v.bmap = 0 then [] else [(v.bmap + q / 8, 1)]
  let dst := (ps.map fun p => (v.rbuf + p.1, p.2.length)) ++ bm ++ [(o.addr + 96, 8)]
  let s := noteRows (settleRows s dst) o.by_.lid dst
  engineOp s o.by_.core o.by_.tenant (max o.by_.ti o.te) bm dst fun old =>
    ps.flatMap (·.2) ++ (old.map fun b => b ||| BitVec.ofNat 8 (2 ^ (q % 8))) ++ hwField 1 (o.chunks.length + 1)

/-- The delivery of a chunk of a block (R274, R346, R378). -/
def deliverChunk (s : State) (p : Plan) (o : FabOp) (q : Nat) : State :=
  if !p.ready || o.status.isSome || o.chunkCount ≤ q || o.chunks.contains q || !o.chunkFinal q then s
  else
    match chunkOp s o q with
    | .wait => s
    | .fault _ => decideOp s o.id 8
    | .done s' te =>
      settleOp (onFab s' o.id fun x => { x with chunks := x.chunks ++ [q], te := max x.te te }) o.id

/-- A descriptor's result is written at one of its places as one engine operation (R390). -/
def deliverMc (s : State) (p : Plan) (r : Nat) : State :=
  let live := p.own.all fun e => (s.fabOp e.2).any fun o => o.status.isNone
  match (p.mcTargets s).find? fun t => t.1 = r && !p.written.contains r with
  | none => s
  | some (_, core, a) =>
    if !live || p.pos (.cast 0) < p.elems then s
    else
      let (tenant, by_) := p.mcBy s
      let lid := ((p.opAt s 0).map (·.by_.lid)).getD noLid
      let n := p.result.length
      let bad (s : State) : State :=
        let s := setPlan s p { p with written := r :: p.written }
        afterPacket (p.own.foldl (fun s e => onFab s e.2 fun o => { o with bad := true }) s) p.group
      if foreignScratch by_ core a n then bad s
      else
        match engineOp (noteRows (settle s a n) lid [(a, n)]) core tenant p.te [] [(a, n)] (fun _ => p.result) with
        | .wait => s
        | .fault _ => bad s
        | .done s' te =>
          let s' := p.own.foldl (fun s e => onFab s e.2 fun o => { o with te := max o.te te }) s'
          afterPacket (setPlan s' p { p with written := r :: p.written, te := max p.te te }) p.group

/-- CHUNK_DELIVERY (R274, R281, R390): a chunk of a block, or the result of a group's descriptor at one of its places. -/
def execChunkDelivery (s : State) : Host.Outcome State Fault Refusal :=
  let i := s.input
  doneFab (match eventOp s with
    | some o =>
      match planOf s o.id with
      | some p => if o.mc then deliverMc s p i.rank else deliverChunk s p o i.chunk
      | none => s
    | none =>
      match groupPlan s i.group with
      | some p => if p.mc.isSome && p.own = [] then deliverMc s p i.rank else s
      | none => s)

/-! ### Decisions -/

/-- Whether a descriptor's result write has begun: it then ends OK (R378). -/
def mcBegun (s : State) (o : FabOp) : Bool := o.mc && (planOf s o.id).any fun p => p.written ≠ []

/-- COLLECTIVE_TIMEOUT (R300, R378) of an operation that has a timeout. -/
def execCollectiveTimeout (s : State) : Host.Outcome State Fault Refusal :=
  doneFab (match eventOp s with
    | some o => if o.tmo ≠ 0 && !mcBegun s o then decideOp s o.id 9 else s
    | none => s)

/-- An abort reaches this expander: every own rank of the matched block that is not decided ends ABORTED (R276, R378). -/
def abortOp (s : State) (o : FabOp) : State :=
  if o.mc then (if mcBegun s o then s else decideOp s o.id 5)
  else
    match planOf s o.id with
    | some p => p.own.foldl (fun s e => decideOp s e.2 5) s
    | none =>
      (s.fab.ops.filter fun q => !q.mc && q.group = o.group && q.num = o.num && (planOf s q.id).isNone).foldl
        (fun s q => decideOp s q.id 5) s

/-- A descriptor of another package has ended: this package's part of it ends too, once a result write that has begun is done. -/
def dropMc (s : State) (p : Plan) : State :=
  if p.mc.isSome && p.own = [] && p.written = [] then
    giveBack (s.onFabSys fun b => { b with plans := b.plans.filter fun q => q ≠ p }) p
  else s

/-- ABORT_WORD (R378): another member's `coll.abort` reaches an operation, or the abort of another package's descriptor its plan here. -/
def execAbortWord (s : State) : Host.Outcome State Fault Refusal :=
  doneFab (match eventOp s with
    | some o => abortOp s o
    | none =>
      match groupPlan s s.input.group with
      | some p => dropMc s p
      | none => s)

/-- Whether every member has answered a descriptor (R281, R390): known at the reduction point, and elsewhere from its result, or
from the word itself (`good`). -/
def Plan.answered (s : State) (p : Plan) : Bool :=
  if s.ownNode p.head then (p.sources p.head).all fun g => p.elems ≤ p.pos g
  else p.elems ≤ p.pos (.cast 0) || s.input.good

/-- Word of lost nodes reaches a plan (R376, R281, R390). -/
def losePlan (s : State) (p : Plan) (nodes : List Nat) : State :=
  let absent := if p.mc.isSome then (p.away.filter fun x => nodes.contains x).flatMap fun x => (p.ranks x).map fun r => (r, 6) else []
  let q := { p with
    lost := nodes ++ p.lost
    away := p.away.filter fun x => !nodes.contains x
    ended := p.ended ++ absent }
  let s := setPlan s p q
  if p.mc.isSome && !p.answered s then p.own.foldl (fun s e => decideOp s e.2 6) s else afterPacket s p.group

/-- MEMBER_LOSS_WORD (R376, R377, R390): word that a node is lost reaches an operation, or the plan of another package's
descriptor. -/
def execMemberLossWord (s : State) : Host.Outcome State Fault Refusal :=
  let nodesOf (l : List Member) : List Nat := ((lostRanks s l).filterMap fun r => (l[r]?).map (·.node)).eraseDups
  doneFab (match eventOp s with
    | none =>
      match groupPlan s s.input.group with
      | some p => if p.own = [] then losePlan s p (nodesOf p.members) else s
      | none => s
    | some o =>
      if lostRanks s o.members = [] then s
      else if cutOff s o then decideOp s o.id 6
      else
        match planOf s o.id with
        | none => decideOp s o.id 6
        | some p => losePlan s p (nodesOf p.members))

/-! ### The end of an operation -/

/-- The ranks' statuses as they are known here (R274, R378): the own ranks', those that word has come of, and 6 for lost ranks; none
while one is undecided. -/
def statusesOf (s : State) (o : FabOp) (p : Plan) : Option (List Byte) :=
  let own (r : Nat) : Option Nat :=
    match p.own.find? fun e => e.1 = r with
    | some e => (s.fabOp e.2).bind fun q => q.status
    | none => (p.ended.find? fun e => e.1 = r).map (·.2)
  let lost := lostRanks s p.members
  (List.range o.view.nranks).mapM fun r =>
    match own r with
    | some st => some (BitVec.ofNat 8 st)
    | none => if lost.contains r then some 6 else none

/-- The global record of a rank that cannot learn the others' statuses (R274): its own status, and 6 for every other rank. -/
def aloneStatuses (o : FabOp) (st : Nat) : List Byte :=
  (List.range o.view.nranks).map fun r => if r = o.view.rank then BitVec.ofNat 8 st else 6

/-- The lowest member that has not answered a descriptor, 0xFFFF when all have (R280); one that is lost before its result is
written counts (R390). -/
def missOf (s : State) (o : FabOp) (st : Nat) : Nat :=
  let quiet := match planOf s o.id with
    | some p => (List.range p.n).filter fun r =>
        p.isDry (.give r) || p.isDry (.merged (p.node r)) || (s.ownNode (p.node r) && p.pos (.give r) < p.elems) ||
          p.ended.any fun e => e.1 = r
    | none => List.range o.members.length
  let lost := if st = 6 then lostRanks s o.members else []
  match least (quiet ++ lost) with
  | some r => r
  | none => 0xFFFF

/-- The final writes of an operation: ranges with their bytes (R264, R274, R280). -/
def finalWrites (s : State) (o : FabOp) (st : Nat) (rec : Option (List Byte)) : List (Nat × List Byte) :=
  if o.mc then [(o.addr + 48, leBytes 8 (st + missOf s o st * 2 ^ 16))]
  else
    (o.addr + 96, hwField st o.chunks.length) ::
      match rec with
      | some l => if o.view.grec = 0 then [] else [(o.view.grec, l)]
      | none => []

/-- An operation leaves its plan, or the list of blocks that wait for a partner, where its end is remembered (R276). -/
def leavePlan (s : State) (o : FabOp) (st : Nat) : State :=
  match planOf s o.id with
  | some p =>
    endPlan (setPlan s p { p with
      own := p.own.filter fun e => e.2 ≠ o.id
      ended := ((p.own.filter fun e => e.2 = o.id).map fun e => (e.1, st)) ++ p.ended }) p.group
  | none =>
    match s.coord o.group with
    | some c =>
      s.setCoord { c with
        waiting := c.waiting.map fun a => if a.op = some o.id then { a with op := none, ended := some st } else a
        order := c.order.filter fun e => e ≠ .own o.id }
    | none => s

/-- Whether a thread waits for an operation (R275, R285). -/
def waitsFab (s : State) (kind addr tenant : Nat) (t : Thread) : Bool :=
  match t.wait with
  | .fab k a _ => k = kind && a = addr && s.tenantOf t.core = tenant
  | _ => false

/-- The last engine operation of an operation (R264): when the global record cannot be written, the status alone is, and
when that cannot be written either, nothing. None when it has to wait. -/
def finalOp (s : State) (o : FabOp) (ws : List (Nat × List Byte)) : Option (State × Nat) :=
  let go (s : State) (l : List (Nat × List Byte)) : EngineEnd :=
    engineOp s o.by_.core o.by_.tenant (max o.by_.ti o.te) [] (l.map fun w => (w.1, w.2.length)) fun _ => l.flatMap (·.2)
  let dst := ws.map fun w => (w.1, w.2.length)
  let s := noteRows (settleRows s dst) o.by_.lid dst
  match go s ws with
  | .done s te => some (s, te)
  | .wait => none
  | .fault _ =>
    match go s (ws.take 1) with
    | .done s te => some (s, te)
    | .wait => none
    | .fault _ => some (s, max o.by_.ti o.te)

/-- The end of an operation (R264, R275, R277): its last engine operation, its completion object and its waiters. -/
def endFab (s : State) (o : FabOp) (st : Nat) (rec : Option (List Byte)) : State :=
  match finalOp s o (finalWrites s o st rec) with
  | none => s
  | some (s2, te) =>
    let s3 := (leavePlan s2 o st).onFabSys fun b => { b with ops := b.ops.filter fun q => q.id ≠ o.id }
    let r := completeOn s3 o.handle o.inc o.phase (if st = 0 || st = 4 then 0 else 8) te
    let s4 := r.2.release (waitsFab r.2 (if o.mc then 1 else 0) o.addr o.by_.tenant) (BitVec.ofNat 64 st) te (some .sys)
    traceOp (sortUnits s4) o.by_ 6 st 0

/-- Whether an operation that has no plan waits in a matched place, whose ranks end together (R274). -/
def inMatched (s : State) (o : FabOp) : Bool :=
  match s.coord o.group with
  | some c => c.waiting.any fun a => a.op = some o.id && c.order.contains (.block a.num)
  | none => false

/-- The last step of a decided operation (R274, R377, R378). -/
def endDecided (s : State) (o : FabOp) : State :=
  match o.status with
  | none => s
  | some st =>
    if o.stage = .issued then s
    else if o.mc then endFab s o st none
    else if cutOff s o then endFab s o st (some (aloneStatuses o st))
    else
      match planOf s o.id with
      | none => if inMatched s o then s else endFab s o st (some (aloneStatuses o st))
      | some p =>
        match statusesOf s o p with
        | none => s
        | some l => endFab s o st (some l)

/-- Word of a node about a group's plan: its ranks' statuses, in rank order, or that its part has ended (R301, R378, R390). -/
def nodeWord (s : State) (p : Plan) (q : Nat) (sts : List Byte) : State :=
  if sts = [] then endPlan (settleMc (setPlan s p { p with away := p.away.filter fun x => x ≠ q }) p.group) p.group
  else
    let rs := (p.ranks q).filter fun r => !(p.own.any fun e => e.1 = r) && !(p.ended.any fun e => e.1 = r)
    setPlan s p { p with ended := p.ended ++ rs.zip (sts.map (·.toNat)) }

/-- COLLECTIVE_DECIDED (R274, R301, R378): the end of a decided operation, or word of another node about a group's plan. -/
def execCollectiveDecided (s : State) : Host.Outcome State Fault Refusal :=
  let i := s.input
  doneFab (if i.node ≠ 0 then
      match groupPlan s i.group with
      | some p => nodeWord s p i.node i.bytes
      | none => s
    else
      match eventOp s with
      | none => s
      | some o => endDecided s o)

end Sys2Proof.Machine
end

