-- ==== Sys2Proof/Machine/Fabric.lean ====
section
/-! DEFINITION. Fabric and collective instructions (R262 to R281): who may issue, the mailbox, address groups, and the
starting, waiting for and aborting of blocks and descriptors. -/

namespace Sys2Proof.Machine

set_option linter.unusedVariables false

/-- The forms that only a communication master may issue (R262). -/
def master (s : State) (k : State) : State := if coreInFloe s.th.core ≠ 0 then trap s .priv 0 0 else k

/-- A block, map or list at an alignment (R263). -/
def aligned (s : State) (a n : Nat) (k : State) : State := if a % n ≠ 0 then trap s .misalign a 0 else k

/-- The checks of a load of `n` pieces of `sz` bytes. -/
def checkPieces (s : State) (a sz : Nat) : Nat → State → State
  | 0, k => k
  | n + 1, k => access s .rd a sz fun _ _ => checkPieces s (a + sz) sz n k

/-- The place of a cause in the order of traps (R170), for an access or a handle at an address. -/
def trapRank (a : Nat) (c : Cause) : Nat :=
  match c with
  | .misalign => 3
  | .prot => if a < 2 ^ 57 && (region a = .virt || inSync a) then 7 else 4
  | .syncwin => 5
  | .page => 6
  | _ => 8

/-- What the checks of a load of `n` pieces of `sz` bytes meet, in order, each with its place in the order of traps. -/
def loadMeets (s : State) (a sz n : Nat) : List (Nat × State) :=
  (List.range n).filterMap fun i =>
    let a := a + sz * i
    if a % sz ≠ 0 then some (3, trap s .misalign a 0)
    else
      match resolve s s.th.core s.tenant .rd a sz with
      | .trap c v => some (trapRank a c, trap s c a v)
      | .wait w => some (6, stallOn s w)
      | .ok key cls => if badRead s a key sz cls then some (8, trap s .poison a (poisonUnit key)) else none

/-- What the check of a completion object that may be absent meets (R263). -/
def doneMeets (s : State) (h : Nat) : List (Nat × State) :=
  if h = 0 then []
  else
    match handleCheck s h .bar with
    | some c => [(trapRank h c, trap s c h 0)]
    | none => []

/-- Of what several checks meet, the first in the order of traps (R170, R263). -/
def firstMet (l : List (Nat × State)) (k : State) : State :=
  match least (l.map (·.1)) with
  | none => k
  | some r => ((l.find? fun e => e.1 = r).map (·.2)).getD k

/-- The pieces of a load whose checks have passed. -/
def loadPieces (s : State) (a sz : Nat) : Nat → List Nat × State
  | 0 => ([], s)
  | n + 1 =>
    match resolve s s.th.core s.tenant .rd a sz with
    | .ok key cls =>
      let r := loadAt s a key sz cls .hd false
      let t := loadPieces r.2 (a + sz) sz n
      (r.1 :: t.1, t.2)
    | _ => ([], s)

/-- The value of one load whose checks have passed. -/
def peek (s : State) (a sz : Nat) : Nat := (loadPieces s a sz 1).1.headD 0

/-- The incarnation of a barrier to which a completion is bound. -/
def incNow (s : State) (h : Nat) : Nat :=
  match s.bar h with
  | some b => b.inc
  | none => 0

/-- Whether a block (or a descriptor) of the issuer's tenant is in flight at an address (R273). -/
def inFlight (s : State) (a : Nat) (mc : Bool) : Option FabOp :=
  s.fab.ops.find? fun o => o.addr = a && o.mc = mc && o.by_.tenant = s.tenant

/-! ### Starting -/

/-- Accepts an operation (R273): the snapshot, BUSY in its status field as an engine operation (R264), its number among its member's
blocks on the group (R272), OK. Its send elements are leased from here on. -/
def acceptOp (s : State) (d : Reg) (o : FabOp) (at_ : Nat) (busy : List Byte) : State :=
  let dst := [(at_, busy.length)]
  match engineOp (noteRows (settleRows s dst) o.by_.lid dst) o.by_.core o.by_.tenant o.by_.ti [] dst (fun _ => busy) with
  | .wait => poll s
  | .fault _ => retX s d stFAULT
  | .done s2 te =>
    let (q, s3) := s2.nextSeq
    let (num, s3) := if o.mc then (0, s3)
      else
        match s3.group o.group with
        | some g =>
          let k := (look g.counts o.floe).getD 0
          (k, s3.setGroup { g with counts := put g.counts o.floe (k + 1) })
        | none => (0, s3)
    let s4 := s3.onFabSys fun b => { b with ops := b.ops ++ [{ o with id := q, num := num, te := te }] }
    retX (relet (traceOp s4 o.by_ 5 stQueued 0)) d stOK

/-- An operation as it is accepted. -/
def newOp (s : State) (a : Nat) (mc : Bool) (corr : Nat) (block : BitVec 1024) (map : BitVec 512)
    (t : List (Nat × Nat × Nat × Nat)) (ms : List Member) (h : Nat) : FabOp where
  id := 0
  addr := a
  mc := mc
  by_ := issuer s corr
  floe := s.myFloe
  block := block
  map := map
  vtab := t
  members := ms
  inc := incNow s h
  stage := .issued
  num := 0
  alg := 0
  got := []
  parts := []
  bad := false
  unit := false
  sorted := false
  chunks := []
  status := none
  te := 0

/-- Whether 256 blocks and descriptors are in flight in the package (R273). -/
def fabFull (s : State) : Bool := 256 ≤ s.fab.ops.length

/-- What `coll.go` and `coll.stx` do once their loads have passed the checks (R273): `a` the block, `m` the map's address, `n`
the entries of the vtab. -/
def collBegin (s : State) (d : Reg) (stx : Bool) (a : Nat) (m : Option Nat) (n : Nat) : State :=
  let s := fenceRel s .sys
  let (bl, s) := loadPieces s a 128 1
  let blk := BitVec.ofNat 1024 (bl.headD 0)
  let v := collView blk
  let (ml, s) := match m with
    | some m => loadPieces s m 64 1
    | none => ([], s)
  let map := BitVec.ofNat 512 (ml.headD 0)
  let (tl, s) := if v.op = 5 then loadPieces s v.vtab 16 n else ([], s)
  let t := tl.map fun x => vtabEntry (BitVec.ofNat 128 x)
  let ms := s.members v.group
  if (inFlight s a false).isSome then retX s d stBUSY
  else if (stx && v.op ≠ 6) || (v.op = 6 && m.isNone) || collBad blk map t ms s.ownNode s.myFloe then retX s d stFAULT
  else if fabFull s then retX s d stFULL
  else acceptOp s d (newOp s a false v.corr blk map t ms v.done) (a + 96) (hwField 1 0)

/-- The map operand of a block: the address given, or the block's own (R273); none when there is no well-placed map to
read. -/
def mapOperand (v : CollView) (b : Option Nat) : Option Nat :=
  let m := match b with
    | some b => if b = 0 then v.smap else b
    | none => v.smap
  if v.op = 6 && m ≠ 0 && m % 64 = 0 then some m else none

/-- `coll.go` and `coll.stx` (R262, R263, R273): `b` is the map operand of the second. -/
def collForm (s : State) (d : Reg) (a : Nat) (b : Option Nat) : State :=
  master s (aligned s a 128 (aligned s (b.getD 0) 64
    (checkPieces s a 128 1
      (let v := collView (BitVec.ofNat 1024 (peek s a 128))
       let m := mapOperand v b
       let n := if v.op = 5 && v.vtab ≠ 0 && v.vtab % 16 = 0 then v.nranks else 0
       let k := m.toList.length
       firstMet (loadMeets s (m.getD 0) 64 k ++ loadMeets s v.vtab 16 n ++ doneMeets s v.done)
         (watched s ((List.range (8 * k)).map (fun i => m.getD 0 + 8 * i) ++ (List.range (2 * n)).map fun i => v.vtab + 8 * i) false
           (collBegin s d b.isSome a m n))))))

/-- `coll.go` (R273). -/
def execCollGo (a d : Reg) (s : State) : Host.Outcome State Fault Refusal :=
  done (attempt s false [xr a] false (collForm s d (s.opX 0 a).toNat none))

/-- `coll.stx` (R273). -/
def execCollStx (a b d : Reg) (s : State) : Host.Outcome State Fault Refusal :=
  done (attempt s false [xr a, xr b] false (collForm s d (s.opX 0 a).toNat (some (s.opX 1 b).toNat)))

/-- `mc.ldred` past its checks (R281). -/
def mcBegin (s : State) (d : Reg) (a : Nat) : State :=
  let s := fenceRel s .sys
  let (bl, s) := loadPieces s a 64 1
  let blk := BitVec.ofNat 1024 (bl.headD 0)
  let v := mcView blk
  let ms := s.members v.group
  if (inFlight s a true).isSome then retX s d stBUSY
  else if mcBad blk ms then retX s d stFAULT
  else if fabFull s then retX s d stFULL
  else acceptOp s d (newOp s a true v.corr blk 0 [] ms v.done) (a + 48) (leBytes 2 1)

/-- `mc.ldred` (R281). -/
def execMcLdred (a d : Reg) (s : State) : Host.Outcome State Fault Refusal :=
  let e := (s.opX 0 a).toNat
  done (attempt s false [xr a] false
    (master s (aligned s e 64 (checkPieces s e 64 1
      (firstMet (doneMeets s (mcView (BitVec.ofNat 1024 (peek s e 64))).done) (mcBegin s d e))))))

/-! ### Waiting and aborting -/

/-- A wait for an operation (R275): gated while one of its kind is in flight; otherwise the status field, in the
low bits of the byte at `off`, is loaded, and the instruction acts as an acquiring fence. -/
def fabWait (s : State) (d : Reg) (kind a al off : Nat) (live : Bool) : State :=
  aligned s a al
    (if live then gate s (.fab kind a d.val)
     else checkPieces s (a + off) 1 1
       (let r := loadPieces s (a + off) 1 1
        retX (fenceAcq r.2 .sys) d (BitVec.ofNat 64 (bits (r.1.headD 0) 0 4))))

/-- `coll.wait` (R275). -/
def execCollWait (a d : Reg) (s : State) : Host.Outcome State Fault Refusal :=
  let e := (s.opX 0 a).toNat
  done (attempt s false [xr a] false (fabWait s d 0 e 128 96 (inFlight s e false).isSome))

/-- `coll.wait.mc` (R275). -/
def execCollWaitMc (a d : Reg) (s : State) : Host.Outcome State Fault Refusal :=
  let e := (s.opX 0 a).toNat
  done (attempt s false [xr a] false (fabWait s d 1 e 64 48 (inFlight s e true).isSome))

/-- `coll.abort` (R276, R378): the block at the address, or else the descriptor there. -/
def execCollAbort (a d : Reg) (s : State) : Host.Outcome State Fault Refusal :=
  let e := (s.opX 0 a).toNat
  done (attempt s false [xr a] false
    (master s
      (match inFlight s e false, inFlight s e true with
       | some o, _ => retX (abortOp s o) d stOK
       | none, some o => retX (abortOp s o) d stOK
       | none, none => retX s d stFAULT)))

/-! ### The mailbox -/

/-- The oldest thread gated on `coll.take` in a floe for a launch. -/
def taker (s : State) (f lid : Nat) : Option (Nat × Nat) :=
  let of (t : Thread) : Option (Nat × Nat) :=
    match t.wait with
    | .take _ q => if t.live && floeOfCore t.core = f && t.lid = lid then some (q, t.tid) else none
    | _ => none
  let l := s.threads.filterMap of
  match least (l.map (·.1)) with
  | none => none
  | some q => l.find? fun e => e.1 = q

/-- Whether a saved thread of a launch that is out waits in `coll.take` in a floe (R287). -/
def savedTaker (s : State) (f lid : Nat) : Bool :=
  s.lp.launches.any fun l => l.lid = lid && l.saved.any fun e =>
    floeOfCore e.2.core = f && (match e.2.wait with | .take _ _ => true | _ => false)

/-- A word reaches a floe's mailbox (R265, R266): the oldest gated taker gets it at once, and the arrival for a launch that is
out is logged (R287). -/
def mailIn (s : State) (f : Nat) (m : Mail) : State :=
  match taker s f m.lid with
  | some (q, _) =>
    s.release (fun t => match t.wait with | .take _ q' => q' = q | _ => false) m.word m.pts (some .sys)
  | none =>
    let s := s.onFloe f fun x => { x with mail := x.mail ++ [m] }
    if savedTaker s f m.lid then (appendLog s m.lid).2 else s

/-- `coll.req` (R265): a floe whose core 0 lies outside the tenant's sub-mesh traps PROT. -/
def execCollReq (a d : Reg) (s : State) : Host.Outcome State Fault Refusal :=
  let v := (s.opX 0 a).toNat
  let f := s.myFloe
  let k := bits v 0 3
  done (attempt s false [xr a] false
    (if s.tenantOf (coreOfFloe f 0) ≠ s.tenant || !((s.tenantCfg s.tenant).any fun c => holdsCore c (coreOfFloe f 0)) then
       trap s .prot 0 0
     else
       let s := fenceRel s .sys
       if k = 0 || 6 ≤ k || bits v 3 3 ≠ 0 || bits v 57 7 ≠ 0 then retX s d stFAULT
       else if 8 ≤ (s.floe f).mail.length then retX s d stFULL
       else
         let w := BitVec.ofNat 64 (v + coreInFloe s.th.core * 8)
         retX (mailIn s f ⟨w, s.th.pts, s.th.lid⟩) d stOK))

/-- Takes the oldest entry of a launch from a mailbox. -/
def takeMail (s : State) (f lid : Nat) : Option (Mail × State) :=
  match (s.floe f).mail.find? fun m => m.lid = lid with
  | none => none
  | some m => some (m, s.onFloe f fun x => { x with mail := x.mail.erase m })

/-- `coll.take` (R266). -/
def execCollTake (d : Reg) (s : State) : Host.Outcome State Fault Refusal :=
  done (attempt s false [] false
    (master s
      (match takeMail s s.myFloe s.th.lid with
       | some (m, s) => retX (fenceAcq (s.raise m.pts) .sys) d m.word
       | none =>
         let (q, s) := s.nextSeq
         gate s (.take d.val q))))

/-! ### Address groups -/

/-- The trap of a group outside the tenant's range (R267): after MISALIGN, and before the list is read (R170). -/
def groupCheck (s : State) (g : Nat) (k : State) : State :=
  match s.tenantCfg s.tenant with
  | some c => if c.gFirst ≤ g && g < c.gFirst + c.gCount then k else trap s .prot 0 g
  | none => trap s .prot 0 g

/-- Whether a group is in use at this package (R345). -/
def groupBusy (s : State) (g : Nat) : Bool := s.fab.ops.any fun o => o.group = g

/-- A member entry (R267): none when a reserved bit is set. -/
def memberOf (x : Nat) : Option Member :=
  if bits x 64 16 < 4096 && bits x 88 40 = 0 then some ⟨bits x 0 64, bits x 64 16, bits x 80 8⟩ else none

/-- Whether two entries of a list name the same node and floe (R267). -/
def dupMember : List Member → Bool
  | [] => false
  | m :: t => (t.any fun k => k.node = m.node && k.floe = m.floe) || dupMember t

/-- Installs or empties a group and reports it to the coordinating expander `head` (R267, R268, R345, R389). -/
def installGroup (s : State) (d : Reg) (g : Nat) (l : List Member) (head : Option Member) (report : State → State) : State :=
  match head with
  | none => retX (s.setGroup ⟨g, l, true, false, []⟩) d stOK
  | some m =>
    if s.ownNode m.node then retX (report (s.setGroup ⟨g, l, true, false, []⟩)) d stOK
    else if s.isLost m.node then retX (s.setGroup ⟨g, l, false, false, []⟩) d stABSENT
    else retX (s.setGroup ⟨g, l, true, false, []⟩) d stOK

/-- `grp.set` past its traps (R267): `n` entries at `a`. -/
def groupSet (s : State) (d : Reg) (g n a : Nat) : State :=
  let (xs, s) := loadPieces s a 16 n
  match xs.mapM memberOf with
  | none => retX s d stFAULT
  | some l =>
    if dupMember (namedBy s.node l) then retX s d stFAULT
    else if groupBusy s g then retX s d stBUSY
    else installGroup s d g l l.head? fun s => recordSet s s.node g l

/-- `grp.set` (R267). -/
def execGrpSet (a b d : Reg) (s : State) : Host.Outcome State Fault Refusal :=
  let v := (s.opX 0 a).toNat
  let e := (s.opX 1 b).toNat
  let g := bits v 0 8
  let n := bits v 16 16
  done (attempt s false [xr a, xr b] false
    (master s (aligned s e 16 (groupCheck s g
      (if bits v 8 8 ≠ 0 || bits v 32 32 ≠ 0 || n < 1 || 1024 < n then retX s d stFAULT
       else firstMet (loadMeets s e 16 n)
         (watched s ((List.range (2 * n)).map fun i => e + 8 * i) false (groupSet s d g n e)))))))

/-- `grp.clr` (R268). -/
def execGrpClr (a d : Reg) (s : State) : Host.Outcome State Fault Refusal :=
  let g := bits (s.opX 0 a).toNat 0 8
  done (attempt s false [xr a] false
    (master s (groupCheck s g
      (if groupBusy s g then retX s d stBUSY
       else installGroup s d g [] (s.members g).head? fun s => recordClr s s.node g))))

end Sys2Proof.Machine
end

