-- ==== Sys2Proof/Machine/Router.lean ====
section
/-! DEFINITION. The expert router: run blocks and price forms (R282 to R286), the auction (R313 to R319), and what a failed
run leaves (R380). -/

namespace Sys2Proof.Machine

set_option linter.unusedVariables false

/-! ### Run blocks -/

/-- A run block's fields (R282). -/
structure RunView where
  ctx     : Nat
  k       : Nat
  sfmt    : Fmt
  fmtOk   : Bool
  tenant  : Nat
  corr    : Nat
  ntok    : Nat
  nexp    : Nat
  lim     : Nat
  eps     : Nat
  sstride : Nat
  scores  : Nat
  asg     : Nat
  rows    : Nat
  done    : Nat
  phase   : Nat
  deriving DecidableEq, Repr

def runView (b : BitVec 512) : RunView :=
  let f (lo n : Nat) : Nat := bits b.toNat lo n
  { ctx := f 0 2, k := 2 ^ f 2 2, sfmt := if f 4 4 = 3 then .bf16 else .fp32, fmtOk := f 4 4 = 1 || f 4 4 = 3,
    tenant := f 8 4, corr := f 32 32, ntok := f 64 32, nexp := f 96 16, lim := f 112 16, eps := f 128 32,
    sstride := f 160 32, scores := f 192 64, asg := f 256 64, rows := f 320 64, done := f 384 64, phase := f 448 16 }

def Run.view (r : Run) : RunView := runView r.block

/-- The size of a score. -/
def RunView.size (v : RunView) : Nat := v.sfmt.width / 8

/-- Token-copies of a run. -/
def RunView.copies (v : RunView) : Nat := v.ntok * v.k

/-- The bank of a run (R313). -/
def RunView.bank (v : RunView) : Nat := v.tenant * 4 + v.ctx

/-- Whether a run block is malformed for an issuer's tenant (R282). -/
def runBad (b : BitVec 512) (tenant : Nat) : Bool :=
  let v := runView b
  v.nexp < v.k || 262144 < v.copies || !v.fmtOk || v.tenant ≠ tenant ||
  v.sstride % v.size ≠ 0 || v.sstride < v.nexp * v.size ||
  v.asg % 8 ≠ 0 || v.rows % 4 ≠ 0 || v.scores % v.size ≠ 0 || bits b.toNat 12 20 ≠ 0 ||
  v.nexp < 1 || 1024 < v.nexp || v.ntok < 1 || 131072 < v.ntok || 2 ^ 31 ≤ v.eps

/-- A score in units of 2^-16 (R282). -/
def scoreOf (f : Fmt) (b : Nat) : Int :=
  match f.val b with
  | .nan _ => -2147483648
  | v => signed (roundInt 32 true .rne (shiftE 16 v)).bits 32

/-- The status and HW fields at bytes 58 to 63 of a run block (R282). -/
def runField (st rounds fill : Nat) : List Byte := leBytes 6 (st % 16 + rounds % 65536 * 16 + fill % 2 ^ 28 * 2 ^ 20)

/-- `auc.run` past its checks (R283). -/
def runBegin (s : State) (d : Reg) (a : Nat) : State :=
  let s := fenceRel s .sys
  let (bl, s) := loadPieces s a 64 1
  let blk := BitVec.ofNat 512 (bl.headD 0)
  let v := runView blk
  if runBad blk s.tenant then retX s d stFAULT
  else if s.fab.runs.any fun r => r.addr = a && r.by_.tenant = s.tenant then retX s d stBUSY
  else if 64 ≤ s.fab.runs.length then retX s d stFULL
  else
    let b := issuer s v.corr
    let busy : List Byte := leBytes 1 (1 + bits blk.toNat 468 4 * 16)
    let s1 := noteRows (settleRows s [(a + 58, 1)]) b.lid [(a + 58, 1)]
    match engineOp s1 b.core b.tenant b.ti [] [(a + 58, 1)] (fun _ => busy) with
    | .wait => poll s
    | .fault _ => retX s1 d stFAULT
    | .done s2 te =>
      let (q, s2) := s2.nextSeq
      let r : Run := ⟨q, a, b, blk, incNow s v.done, false, [], [], [], 0, 0, false, 0, te⟩
      let s3 := s2.onFabSys fun x => { x with runs := x.runs ++ [r] }
      retX (traceOp s3 b 5 stQueued 0) d stOK

/-- `auc.run` (R283). -/
def execAucRun (a d : Reg) (s : State) : Host.Outcome State Fault Refusal :=
  let e := (s.opX 0 a).toNat
  done (attempt s false [xr a] false
    (master s (aligned s e 64 (checkPieces s e 64 1
      (firstMet (doneMeets s (runView (BitVec.ofNat 512 (peek s e 64))).done) (runBegin s d e))))))

/-- `auc.wait` (R285). -/
def execAucWait (a d : Reg) (s : State) : Host.Outcome State Fault Refusal :=
  let e := (s.opX 0 a).toNat
  done (attempt s false [xr a] false
    (fabWait s d 2 e 64 58 (s.fab.runs.any fun r => r.addr = e && r.by_.tenant = s.tenant)))

/-! ### Price banks -/

/-- A bank; an untouched one holds zeros (R313). -/
def State.bank (s : State) (b : Nat) : Bank := (s.fab.banks.find? fun x => x.id = b).getD ⟨b, [], false⟩

def State.setBank (s : State) (x : Bank) : State :=
  s.onFabSys fun b => { b with banks := x :: b.banks.filter fun y => y.id ≠ x.id }

/-- A price register. -/
def Bank.price (b : Bank) (e : Nat) : Int := (look b.prices e).getD 0

def Bank.set (b : Bank) (e : Nat) (v : Int) : Bank :=
  { b with prices := if v = 0 then drop b.prices e else put b.prices e v }

/-- Sets registers from one on. -/
def Bank.setAll (b : Bank) (first : Nat) (l : List Int) : Bank :=
  ((List.range l.length).zip l).foldl (fun b p => b.set (first + p.1) p.2) b

/-- Whether a run on a bank is queued or running (R286). -/
def bankBusy (s : State) (b : Nat) : Bool := s.fab.runs.any fun r => r.view.bank = b

/-- A good selector (R286): context, first register and count. -/
def selector (v : Nat) : Option (Nat × Nat × Nat) :=
  let f := bits v 16 10
  let c := bits v 0 11
  if bits v 34 30 ≠ 0 || bits v 26 6 ≠ 0 || bits v 11 5 ≠ 0 || c < 1 || 1024 < c || 1024 < f + c then none
  else some (bits v 32 2, f, c)

/-- How a price form ends: a status with the state and its order point, or a wait. -/
inductive PriceEnd where
  | done (st : Word) (s : State) (te : Nat)
  | wait

/-- Whether a waiting form is still there to be performed: a thread's ends with the thread. -/
def PriceWait.live (s : State) (f : PriceWait) : Bool :=
  match f.src with
  | .inl tid => s.threads.any fun t => t.tid = tid
  | .inr _ => true

/-- The forms that wait for their turn on a bank. -/
def formsOn (s : State) (bank : Nat) : List PriceWait := s.fab.forms.filter fun f => f.bank = bank && f.live s

/-- The waiting form of a thread or a ring. -/
def formOf (s : State) (src : Nat ⊕ Nat) : Option PriceWait := s.fab.forms.find? fun f => f.src = src

/-- Whether a waiting form's turn has come: no earlier form and no earlier run is on its bank (R344). -/
def formFirst (s : State) (f : PriceWait) : Bool :=
  !((formsOn s f.bank).any fun g => g.seq < f.seq) && !s.fab.runs.any fun r => r.view.bank = f.bank && r.seq < f.seq

/-- A form that has reached the router waits for its turn. -/
def joinForms (s : State) (bank : Nat) (src : Nat ⊕ Nat) : State :=
  let (q, s) := s.nextSeq
  s.onFabSys fun b => { b with forms := b.forms ++ [⟨q, bank, src⟩] }

/-- A form has been performed. -/
def leaveForms (s : State) (src : Nat ⊕ Nat) : State :=
  if s.fab.forms = [] then s else s.onFabSys fun b => { b with forms := b.forms.filter fun f => f.src ≠ src }

/-- Sets prices from memory as one engine source read (R286, R328). -/
def priceSet (s : State) (core tenant ti bank first count a : Nat) : PriceEnd :=
  if a % 4 ≠ 0 then .done stFAULT s ti
  else if (s.bank bank).poison then .done stFAULT s ti
  else
    let s1 := settleRows s [(a, 4 * count)]
    match spansList s1 core tenant .rd [(a, 4 * count)] with
    | .wait => .wait
    | .fault _ => .done stFAULT s ti
    | .ok l =>
      let te := engineTe s1 ti l []
      let bs := engineRead s1 l
      let vs := (List.range count).map fun i => signed (leNat ((bs.drop (4 * i)).take 4)) 32
      .done stOK ((engineLease s1 te l).setBank ((s1.bank bank).setAll first vs)) te

/-- Writes prices to memory as one engine operation (R286, R328). -/
def priceGet (s : State) (core tenant ti bank first count a : Nat) : PriceEnd :=
  if a % 4 ≠ 0 then .done stFAULT s ti
  else if (s.bank bank).poison then .done stFAULT s ti
  else
    let bs := (List.range count).flatMap fun i => leBytes 4 (unsigned ((s.bank bank).price (first + i)) 32)
    match engineOp (settleRows s [(a, 4 * count)]) core tenant ti [] [(a, 4 * count)] (fun _ => bs) with
    | .wait => .wait
    | .fault _ => .done stFAULT s ti
    | .done s' te => .done stOK s' te

/-- Clears a bank, which ends its poison (R286, R380). -/
def priceClear (s : State) (bank : Nat) : PriceEnd := .done stOK (s.setBank ⟨bank, [], false⟩) s.th.pts

/-- A price form of the current slot, which waits until it is done (R286): BUSY where a run is on its bank as it arrives, and its
turn among the forms on the bank (R344). -/
def priceForm (s : State) (d : Reg) (bank : Nat) (e : PriceEnd) : State :=
  let me : Nat ⊕ Nat := .inl s.th.tid
  match formOf s me with
  | some f =>
    if formFirst s f then
      match e with
      | .wait => poll s
      | .done st s' te => retX (leaveForms (s'.raise te) me) d st
    else poll s
  | none =>
    if bankBusy s bank then retX s d stBUSY
    else if formsOn s bank ≠ [] then poll (joinForms s bank me)
    else
      match e with
      | .wait => poll (joinForms s bank me)
      | .done st s' te => retX (s'.raise te) d st

/-- The pages that a price form of the current slot writes (R340). -/
def noteForm (s : State) (a count : Nat) : State := noteRows s s.th.lid [(a, 4 * count)]

/-- `auc.pset` (R286). -/
def execAucPset (a b d : Reg) (s : State) : Host.Outcome State Fault Refusal :=
  let e := (s.opX 1 b).toNat
  done (attempt s false [xr a, xr b] false (master s
    (match selector (s.opX 0 a).toNat with
     | none => retX s d stFAULT
     | some (ctx, f, c) =>
       if e % 4 ≠ 0 then retX s d stFAULT
       else
         let bank := s.tenant * 4 + ctx
         priceForm s d bank (priceSet s s.th.core s.tenant s.th.pts bank f c e))))

/-- `auc.pget` (R286). -/
def execAucPget (a b d : Reg) (s : State) : Host.Outcome State Fault Refusal :=
  let e := (s.opX 1 b).toNat
  done (attempt s false [xr a, xr b] false
    (match selector (s.opX 0 a).toNat with
     | none => retX s d stFAULT
     | some (ctx, f, c) =>
       if e % 4 ≠ 0 then retX s d stFAULT
       else
         let bank := s.tenant * 4 + ctx
         priceForm s d bank (priceGet (noteForm s e c) s.th.core s.tenant s.th.pts bank f c e)))

/-- `auc.pclr` (R286). -/
def execAucPclr (a d : Reg) (s : State) : Host.Outcome State Fault Refusal :=
  let v := (s.opX 0 a).toNat
  done (attempt s false [xr a] false (master s
    (if 4 ≤ v then retX s d stFAULT
     else priceForm s d (s.tenant * 4 + v) (priceClear s (s.tenant * 4 + v)))))

/-! ### The auction -/

/-- The capacity of an expert (R314). -/
def RunView.cap (v : RunView) (e : Nat) : Nat := v.copies / v.nexp + if e < v.copies % v.nexp then 1 else 0

/-- The first row of an expert (R284). -/
def RunView.row (v : RunView) (e : Nat) : Nat := (List.range e).foldl (fun a i => a + v.cap i) 0

/-- The score of a token for an expert. -/
def Run.score (r : Run) (t e : Nat) : Int := r.scores.getD (t * r.view.nexp + e) 0

/-- Entries that an expert holds. -/
def Run.heldBy (r : Run) (e : Nat) : List (Nat × Int) := r.held.getD e []

/-- Whether a token-copy is unassigned. -/
def Run.free (r : Run) (x : Nat) : Bool := !(r.held.any fun l => l.any fun p => p.1 = x)

/-- The experts that hold a copy of a token. -/
def Run.holders (r : Run) (t : Nat) : List Nat :=
  (List.range r.view.nexp).filter fun e => (r.heldBy e).any fun p => p.1 / r.view.k = t

/-- The expert with the greatest net value, the lower number on a tie, with that value (R316). -/
def bestNet (net : Nat → Int) : List Nat → Option (Nat × Int)
  | [] => none
  | e :: t =>
    match bestNet net t with
    | none => some (e, net e)
    | some (f, v) => if v ≤ net e then some (e, net e) else some (f, v)

/-- A token-copy's bid (R315): the copy, the expert, the bid. -/
def Run.bid (r : Run) (x : Nat) (excl : List Nat) : Option (Nat × Nat × Int) :=
  let v := r.view
  let t := x / v.k
  let net (e : Nat) : Int := r.score t e - r.prices.getD e 0
  let cand := (List.range v.nexp).filter fun e => 0 < v.cap e && !excl.contains e
  match bestNet net cand with
  | none => none
  | some (e1, v1) =>
    let v2 := match bestNet net (cand.filter fun e => e ≠ e1) with
      | some (_, w) => w
      | none => v1
    some (x, e1, r.prices.getD e1 0 + (v1 - v2) + v.eps)

/-- The bids of one token's unassigned copies, lower index first (R315, R316). -/
def Run.bidsOf (r : Run) (t : Nat) : List (Nat × Nat × Int) :=
  ((List.range r.view.k).foldl (fun (acc : List (Nat × Nat × Int) × List Nat) c =>
    let x := t * r.view.k + c
    if r.free x then
      match r.bid x acc.2 with
      | some b => (acc.1 ++ [b], b.2.1 :: acc.2)
      | none => acc
    else acc) ([], r.holders t)).1

/-- Rising insertion in the order of keeping: higher bid first, lower index on a tie (R316). -/
def insertBid (p : Nat × Int) : List (Nat × Int) → List (Nat × Int)
  | [] => [p]
  | q :: t => if q.2 < p.2 || (q.2 = p.2 && p.1 < q.1) then p :: q :: t else q :: insertBid p t

/-- An expert keeps its best entries, and its price follows when it is full (R315). -/
def keepBest (cap : Nat) (pool : List (Nat × Int)) (old : Int) : List (Nat × Int) × Int :=
  let l := (pool.foldr insertBid []).take cap
  match l.getLast? with
  | some p => (l, if l.length = cap then p.2 else old)
  | none => (l, old)

/-- One bidding round (R315). -/
def Run.round (r : Run) : Run :=
  let bids := (List.range r.view.ntok).flatMap r.bidsOf
  let out := (List.range r.view.nexp).map fun e =>
    let new := (bids.filter fun b => b.2.1 = e).map fun b => (b.1, b.2.2)
    if new = [] then (r.heldBy e, r.prices.getD e 0)
    else keepBest (r.view.cap e) (r.heldBy e ++ new) (r.prices.getD e 0)
  { r with held := out.map (·.1), prices := out.map (·.2), rounds := r.rounds + 1 }

/-- The unassigned token-copies, ascending. -/
def Run.left (r : Run) : List Nat := (List.range r.view.copies).filter r.free

/-- Completion of one token-copy (R318). -/
def Run.place (r : Run) (x : Nat) : Run :=
  let v := r.view
  let t := x / v.k
  let f := (List.range v.nexp).filter fun e => (r.heldBy e).length < v.cap e
  let f2 := f.filter fun e => !(r.holders t).contains e
  match bestNet (fun e => r.score t e - r.prices.getD e 0) (if f2 = [] then f else f2) with
  | some (e, _) => { r with held := r.held.set e (r.heldBy e ++ [(x, 0)]), fill := r.fill + 1 }
  | none => r

/-- Completion at the limit (R318). -/
def Run.complete (r : Run) : Run := r.left.foldl (fun r x => r.place x) r

/-- Rising insertion of a copy index. -/
def risingInsert (x : Nat) : List Nat → List Nat
  | [] => [x]
  | y :: t => if x < y then x :: y :: t else y :: risingInsert x t

/-- The token-copies of an expert in slot order (R284, R316). -/
def Run.slots (r : Run) (e : Nat) : List Nat := ((r.heldBy e).map (·.1)).foldr risingInsert []

/-- The rows array's entries (R284). -/
def Run.rowList (r : Run) : List Nat := (List.range r.view.nexp).flatMap r.slots

/-- The expert of a row. -/
def RunView.rowExpert (v : RunView) (row : Nat) : Nat :=
  ((List.range v.nexp).find? fun e => v.row e ≤ row && row < v.row e + v.cap e).getD 0

/-- The asg array's entries: the expert and row of each token-copy (R284). -/
def Run.asgList (r : Run) : List (Nat × Nat) :=
  let rows := r.rowList
  (List.range r.view.copies).map fun x =>
    let row := (rows.findIdx? fun y => y = x).getD 0
    (r.view.rowExpert row, row)

/-! ### The router's steps -/

/-- The run that an event names: its block's address and tenant. -/
def eventRun (s : State) : Option Run :=
  s.fab.runs.find? fun r => r.addr = s.input.addr && r.by_.tenant = s.input.tenant

/-- Whether two runs are the same one. -/
def Run.is (a b : Run) : Bool := a.addr = b.addr && a.by_.tenant = b.by_.tenant

/-- Updates a run. -/
def setRunOf (s : State) (r : Run) : State :=
  s.onFabSys fun b => { b with runs := b.runs.map fun x => if x.is r then r else x }

/-- Whether a run is the oldest on its bank, and no change of the bank is to be performed before it (R283, R344). -/
def firstOnBank (s : State) (r : Run) : Bool :=
  !((formsOn s r.view.bank).any fun f => f.seq < r.seq) &&
  match s.fab.runs.find? fun x => x.view.bank = r.view.bank with
  | some x => x.is r
  | none => false

/-- The rows of scores that a run reads, whole (R282, R321). -/
def scoreRows (v : RunView) : List (Nat × Nat) :=
  (List.range v.ntok).map fun t => (v.scores + t * v.sstride, v.nexp * v.size)

/-- The output arrays. -/
def asgRange (v : RunView) : Nat × Nat := (v.asg, 8 * v.copies)
def rowsRange (v : RunView) : Nat × Nat := (v.rows, 4 * v.copies)

/-- Scores from their bytes. -/
def scoresOf (v : RunView) : Nat → List Byte → List Int
  | 0, _ => []
  | n + 1, bs => scoreOf v.sfmt (leNat (bs.take v.size)) :: scoresOf v n (bs.drop v.size)

/-- RUN_BEGIN (R283, R321, R380) of a run: the checks of every address, the scores and the prices. -/
def execRunBegin (s : State) : Host.Outcome State Fault Refusal :=
  done (match eventRun s with
    | none => s
    | some r =>
      let v := r.view
      let b := r.by_
      if r.begun || r.failed || !firstOnBank s r then s
      else if (s.bank v.bank).poison then setRunOf s { r with failed := true }
      else
        let s1 := settleRows s (asgRange v :: rowsRange v :: scoreRows v)
        match spansList s1 b.core b.tenant .rd (scoreRows v), spansList s1 b.core b.tenant .wr [asgRange v],
            spansList s1 b.core b.tenant .wr [rowsRange v] with
        | .wait, _, _ | _, .wait, _ | _, _, .wait => s
        | .ok l, .ok _, .ok _ =>
          let te := engineTe s1 (max b.ti r.te) l []
          setRunOf (engineLease s1 te l) { r with
            begun := true, te := te
            scores := scoresOf v (v.ntok * v.nexp) (engineRead s1 l)
            prices := (List.range v.nexp).map (s.bank v.bank).price
            held := List.replicate v.nexp [] }
        | _, _, _ => setRunOf s1 { r with failed := true })

/-- BIDDING_ROUND (R315, R317) of a run. -/
def execBiddingRound (s : State) : Host.Outcome State Fault Refusal :=
  done (match eventRun s with
    | some r => if r.begun && !r.failed && r.left ≠ [] && r.rounds < r.view.lim then setRunOf s r.round else s
    | none => s)

/-- ROUTER_COMPLETION (R317, R318) of a run. -/
def execRouterCompletion (s : State) : Host.Outcome State Fault Refusal :=
  done (match eventRun s with
    | some r => if r.begun && !r.failed && r.left ≠ [] && r.rounds = r.view.lim then setRunOf s r.complete else s
    | none => s)

/-- The prices that a run stores (R319). -/
def Run.stored (r : Run) : List Int :=
  match r.prices with
  | [] => []
  | p :: t =>
    let m := t.foldl min p
    r.prices.map fun p => max 0 (min 0x7FFFFFFF (p - m))

/-- The last write of a run (R284): rounds, fill and status, its completion object and its waiters. -/
def endRun (s : State) (r : Run) (st rounds fill te : Nat) : State :=
  let b := r.by_
  let s1 := noteRows (settleRows s [(r.addr + 58, 6)]) b.lid [(r.addr + 58, 6)]
  match engineOp s1 b.core b.tenant (max b.ti te) [] [(r.addr + 58, 6)] (fun _ => runField st rounds fill) with
  | .wait => s
  | e =>
    let (s2, te) := match e with
      | .done s' t => (s', t)
      | _ => (s1, max b.ti te)
    let s3 := s2.onFabSys fun x => { x with runs := x.runs.filter fun q => !q.is r }
    let c := completeOn s3 r.view.done r.inc r.view.phase st te
    let s4 := c.2.release (waitsFab c.2 2 r.addr b.tenant) (BitVec.ofNat 64 st) te (some .sys)
    traceOp s4 b 6 st 0

/-- Writes one output array of a run as one engine operation (R284): a fault fails the run, a page in transition is waited for. -/
def writeArray (s : State) (r : Run) (out : Nat × Nat) (bs : List Byte) : State × Run :=
  match engineOp (noteRows (settleRows s [out]) r.by_.lid [out]) r.by_.core r.by_.tenant r.te [] [out] (fun _ => bs) with
  | .wait => (s, r)
  | .fault _ => (s, { r with failed := true })
  | .done s' te => (s', { r with stage := r.stage + 1, te := te })

/-- The next output array of a run whose rounds are over (R284): asg, then rows, and after both its prices are stored (R319). A
bank found poisoned fails the run before it has written anything (R380). -/
def runOutput (s : State) (r : Run) : State × Run :=
  let v := r.view
  if r.failed || !r.begun || r.left ≠ [] then (s, r)
  else if r.stage = 0 then
    if (s.bank v.bank).poison then (s, { r with failed := true })
    else writeArray s r (asgRange v) (r.asgList.flatMap fun p => leBytes 4 p.1 ++ leBytes 4 p.2)
  else if r.stage = 1 then
    let w := writeArray s r (rowsRange v) (r.rowList.flatMap fun x => leBytes 4 x)
    if w.2.stage = 2 then (w.1.setBank ((w.1.bank v.bank).setAll 0 r.stored), w.2) else w
  else (s, r)

/-- ROUTER_RUN_END (R284, R319, R380) of a run: its output as far as it can be written, and then its end. -/
def execRouterRunEnd (s : State) : Host.Outcome State Fault Refusal :=
  done (match eventRun s with
    | none => s
    | some r =>
      let a := runOutput s r
      let b := runOutput a.1 a.2
      let r := b.2
      let s := setRunOf b.1 r
      if r.failed then endRun s r 8 0 0 r.te
      else if r.stage = 2 then endRun s r (if r.fill = 0 then 0 else 10) r.rounds r.fill r.te
      else s)

end Sys2Proof.Machine
end

