-- ==== Sys2Proof/Machine/Links.lean ====
section
/-! DEFINITION. Fabric links and nodes (R373 to R377, R385): retry, retraining, and the loss and re-admission of nodes. -/

namespace Sys2Proof.Machine

set_option linter.unusedVariables false

/-- Failures of one flit in a row that make a link retrain (R373). -/
def retryLimit : Nat := 16

/-- A flit that fails its CRC (R373): it and every later one are discarded until the replay arrives. -/
def badFlit (x : FabPort) : FabPort :=
  let n := if x.retry then x.fails + 1 else 1
  { x with retry := true, fails := n, training := retryLimit ≤ n }

/-- A step of one of the 32 fabric ports (R6). -/
def atPort (s : State) (f : FabPort → State) : State := if s.input.port < 32 then f (s.port s.input.port) else s

/-- FLIT_RECEIVE (R373) at a port: a sequence number and whether the CRC holds; a good flit in its place acknowledges `ack` further
flits of those on the wire. -/
def execFlitReceive (s : State) : Host.Outcome State Fault Refusal :=
  let i := s.input
  done (atPort s fun x =>
    if !x.up || x.training then s
    else if i.good then
      if i.seq ≠ x.expect then s
      else
        let s := if x.retry then logError s 4 1 11 0xFFFF x.fails i.port 0 else s
        s.setPort { x with
          expect := (x.expect + 1) % 4096, retry := false, fails := 0, acked := min x.replay (x.acked + i.ack) }
    else if x.retry && i.seq ≠ x.expect then s
    else s.setPort (badFlit x))

/-- A cycle of a port (R373): the next flit of the replay buffer goes on the wire, those of a replay again in their order. -/
def FabPort.tick (x : FabPort) : FabPort :=
  if x.up && !x.training && x.replay < x.sent then { x with replay := x.replay + 1 } else x

/-- RETRY_REQUEST (R373) at a port: the replay goes on from a sequence number in the replay buffer. -/
def execRetryRequest (s : State) : Host.Outcome State Fault Refusal :=
  let i := s.input
  done (atPort s fun x =>
    let k := x.acked + (i.seq + 4096 - x.acked % 4096) % 4096
    if k ≤ x.replay then s.setPort { x with replay := k } else s)

/-- ACK_TIMEOUT (R373) at a port that waits for an acknowledgement. -/
def execAckTimeout (s : State) : Host.Outcome State Fault Refusal :=
  done (atPort s fun x => if x.up && x.acked < x.replay then s.setPort { x with training := true } else s)

/-- A plan that has a route over a port that goes down gives its windows back and reserves again, over the routes that remain (R306,
R373). -/
def replan (s : State) (port : Nat) : State :=
  s.fab.plans.foldl (fun s p =>
    if p.hops.any fun h => h.port = port then
      let s := giveBack s p
      setPlan s p { p with hops := planHops s p, accs := 0, ready := false }
    else s) s

/-- LINK_RETRAIN_DONE (R373, R385) at a port: what is not acknowledged is replayed, or the port goes down. -/
def execLinkRetrainDone (s : State) : Host.Outcome State Fault Refusal :=
  let i := s.input
  done (atPort s fun x =>
    if !x.training then s
    else if i.good then
      logError (s.setPort { x with training := false, retry := false, fails := 0, up := true, replay := x.acked }) 4 8 11 0xFFFF 0 i.port 0
    else logError (replan (s.setPort { x with training := false, up := false }) i.port) 4 9 11 0xFFFF 0 i.port 0)

/-- Whether a member list names a node. -/
def names (l : List Member) (node : Nat) : Bool := l.any fun m => m.node = node

/-- A node is marked lost (R374): its groups end (R377), and the moraine die's log gets its record (R385). -/
def loseNode (s : State) (node : Nat) : State :=
  if node = 0 || 4096 ≤ node || node = s.node || s.isLost node then s
  else
    let s1 := s.onFabSys fun b => { b with
      lost := node :: b.lost
      groups := b.groups.map fun g => if names g.members node then { g with dead := true } else g
      coords := b.coords.map fun c => if names c.list node then { c with dead := true } else c
      dropped := drop b.dropped node
      lostRecs := drop b.lostRecs node }
    let p := s1.host.logs[4].prod
    let s2 := logError s1 4 10 11 0xFFFF 0 node 0
    let q := s2.host.logs[4].prod
    if p < q then s2.onFabSys fun b => { b with lostRecs := put b.lostRecs node (q - 1, 0) } else s2

/-- NODE_LOST (R374). -/
def execNodeLost (s : State) : Host.Outcome State Fault Refusal := done (loseNode s s.input.node)

/-- NODE_LEAVE (R374). -/
def execNodeLeave (s : State) : Host.Outcome State Fault Refusal := done (loseNode s s.input.node)

/-- NODE_READMIT (R374, R385). -/
def execNodeReadmit (s : State) : Host.Outcome State Fault Refusal :=
  let n := s.input.node
  done (if s.isLost n then
      logError (s.onFabSys fun b => { b with lost := b.lost.filter fun k => k ≠ n, lostRecs := drop b.lostRecs n })
        4 11 11 0xFFFF 0 n 0
    else s)

/-- The node-lost records take the counts of the bytes discarded since (R375). -/
def noteDropped (s : State) : State :=
  s.fab.lostRecs.foldl (fun s e =>
    let n := (look s.fab.dropped e.1).getD 0
    if n = e.2.2 then s
    else
      (devWrite s (s.host.logs[4].base + 32 * (e.2.1 % 4096) + 4) (leBytes 4 n)).onFabSys fun b =>
        { b with lostRecs := put b.lostRecs e.1 (e.2.1, n) }) s

end Sys2Proof.Machine
end

