-- ==== Sys2Proof/Machine/Translate.lean ====
section
/-! DEFINITION. Translation as other agents carry it on: walks and expansions that end (R82, R351 to R354), shoot-downs
(R83), memory-management requests (R76, R329) and the tenant table (R313, R324, R364). -/

namespace Sys2Proof.Machine

set_option linter.unusedVariables false

/-! ### Walks and expansions -/

/-- A trap of a slot whose instruction is stalled (R351): an armed debug step stays armed for the instruction after the
return (R350). -/
def trapStalled (s : State) (l : Loc) (c : Cause) (xaddr xval : Nat) : State :=
  let s := trap (selectSlot s l) c xaddr xval
  let d := s.dbg l.core
  if d.armed = some l.slot && d.stepping.isSome && !d.halted then s.setDbg { d with stepping := none } else s

/-- What `xval` of a PAGE trap reports: the element of a vector access, otherwise the reason (R81, R347). -/
def pageVal (elem : Option Nat) (reason : Nat) : Nat := elem.getD reason

/-- Sets the wait of a slot. -/
def setWait (s : State) (l : Loc) (w : Wait) : State :=
  let s := selectSlot s l
  { s with th := { s.th with wait := w } }

/-- A walk's leaf enters the PLB, and the access's sector its L2 home when it is not held in the core's L1, or when the PLB held
the page already and the walk was made for the home's sake (R351). -/
def walkLeaf (s : State) (l : Loc) (va : Nat) (p : Plb) : State :=
  let held := (s.copyOf l.core va true).isSome || (s.copyOf l.core va false).isSome || (s.copyI l.core va).isSome
  let fill := !s.mem.resident va && ((plbFind s l.core va).isSome || !held)
  let s := plbAdd s l.core p
  if fill then
    let s' := bringIn s va .hd true
    if s'.mem.resident va then s'.countFor l.core l.slot 0x06 1 else s'
  else s

/-- WALK_COMPLETE (R351) of a slot: its access may be made again, waits for an expansion, which begins if it has not, or traps
PAGE. -/
def execWalkComplete (s : State) : Host.Outcome State Fault Refusal :=
  let l := s.input.loc
  done (match s.atLoc l with
    | none => s
    | some t =>
      match t.wait with
      | .walk va elem =>
        match walk s.mem va with
        | .leaf p => setWait (walkLeaf s l va p) l .retry
        | .firn _ p =>
          setWait ((s.countFor l.core l.slot 0x0D 1).onMem fun m => { m with expand := addOff m.expand p.va }) l (.expand va elem)
        | .absent => trapStalled s l .page va (pageVal elem 0)
        | .bad => trapStalled s l .page va (pageVal elem 2)
      | _ => s)

/-- The slots that wait for the expansion of a page, with their addresses and elements. -/
def waitsExpand (s : State) (p : Plb) : List (Loc × Nat × Option Nat) :=
  s.threads.filterMap fun t =>
    match t.wait with
    | .expand va elem => if va / 2 ^ p.lsz = p.vpn then some (⟨t.core, t.slot⟩, va, elem) else none
    | _ => none

/-- The slots whose awaited expansion is over: their addresses no longer lie in a compressed page. -/
def expandWakes (s : State) : State :=
  let f (t : Thread) : Thread :=
    match t.wait with
    | .expand va _ =>
      match walk s.mem va with
      | .firn _ _ => t
      | _ => { t with wait := .retry }
    | _ => t
  { s with th := f s.th, slots := s.slots.map f }

/-- EXPANSION_COMPLETE (R82, R354, R357) of a page whose expansion has begun: the page is installed, or every waiting access
traps PAGE with reason 1. -/
def execExpansionComplete (s : State) : Host.Outcome State Fault Refusal :=
  let va := s.input.addr
  done (if !s.mem.expand.contains va then s
    else
      let s := s.onMem fun m => { m with expand := m.expand.filter fun x => x ≠ va }
      match walk s.mem va with
      | .firn _ p =>
        match expandPage s.mem va with
        | some m => expandWakes { s with mem := m }
        | none => (waitsExpand s p).foldl (fun s w => trapStalled s w.1 .page w.2.1 (pageVal w.2.2 1)) s
      | _ => expandWakes s)

/-! ### Ranges of pages -/

/-- A leaf of the page table with the address of its entry; whether it is present. -/
structure Leaf where
  ea      : Nat
  page    : Plb
  present : Bool
  deriving DecidableEq, Repr

/-- The leaf that maps an address, from one level on (R78, R79). -/
def leafFrom (m : Memory) (va : Nat) : List (Nat × Nat) → Nat → Option Leaf
  | [], _ => none
  | (lo, n) :: rest, table =>
    let ea := table + bits va lo n * 8
    let e := m.read ea 8
    let p : Plb :=
      ⟨pageAt lo, va / 2 ^ (pageAt lo).log, BitVec.ofNat 52 (bits e 12 40 * 0x1000), bits e 52 8, bits e 60 2, bits e 1 11⟩
    let leaf := bits e 0 1 = 1
    if bits e 63 1 = 1 then (if leaf then some ⟨ea, p, true⟩ else leafFrom m va rest (bits e 12 40 * 0x1000))
    else if bits e 62 1 = 1 && leaf then some ⟨ea, p, false⟩
    else none

def leafAt (m : MemSys) (va : Nat) : Option Leaf :=
  leafFrom m.bytes va [(48, 9), (39, 9), (30, 9), (21, 9), (16, 5)] m.root

/-- The leaves of a range, each once: none stands for a place of 64 KiB that has none. -/
def leaves (s : State) (a len : Nat) : List (Option Leaf) :=
  (List.range ((len + 0xFFFF) / 0x10000)).filterMap fun i =>
    let va := a + i * 0x10000
    match leafAt s.mem va with
    | none => some none
    | some l => if i = 0 || l.page.va = va then some (some l) else none

/-- Writes back and invalidates, in every L1 and L2, the sectors that a test of their address selects (R76 step 2, R329). -/
def flushWhere (s : State) (p : Nat → Bool) : State :=
  let s := s.mem.l1.foldl (fun s c => if !c.hc && p (c.sector * 128) then writeBack s c else s) s
  flush2 (s.onMem fun m => { m with
    l1 := m.l1.filter fun c => !p (c.sector * 128)
    l1i := m.l1i.filter fun c => !p (c.sector * 128)
    lines := m.lines.map fun l => if p (l.line * 256) then { l with owner := none } else l }) p

/-- Whether an address lies in one of a list of ranges. -/
def inRanges (l : List (Nat × Nat)) (x : Nat) : Bool := l.any fun p => p.1 ≤ x && x < p.1 + p.2

/-- Whether a vector access in progress has elements to perform in one of a list of ranges: it was checked before (R83, R214). -/
def partIn (s : State) (l : List (Nat × Nat)) : Bool :=
  s.threads.any fun t => t.vpart.any fun v => v.left.any fun e => inRanges l e.a

/-- Every PLB and translation cache drops the entries of a range (R83). -/
def dropRange (s : State) (a len : Nat) : State :=
  s.onMem fun m => { m with plb := m.plb.filter fun e => !(e.2.va < a + len && a < e.2.va + 2 ^ e.2.lsz) }

/-- Rewrites a leaf's entry. -/
def setEntry (s : State) (l : Leaf) (f : Nat → Nat) : State :=
  s.onMem fun m => { m with bytes := m.bytes.write l.ea 8 (f (m.bytes.read l.ea 8)) }

/-- An entry with a new attribute and owner (R79). -/
def entryAttr (attr owner e : Nat) : Nat :=
  e - bits e 60 2 * 2 ^ 60 - bits e 1 11 * 2 + attr * 2 ^ 60 + owner * 2

/-! ### Memory-management requests -/

/-- A request's fields from its 64 bytes (R329). -/
def mmOf (tenant : Nat) (ring : Option Nat) (seq entry : Nat) (bs : List Byte) : MmReq :=
  let f (o n : Nat) : Nat := leNat ((bs.drop o).take n)
  { tenant := tenant, ring := ring, seq := seq, irq := bits (f 2 1) 0 1 = 1, entry := entry, start := f 8 8, len := f 16 8,
    action := f 24 1, attr := f 25 1, owner := f 26 2, comp := f 32 8, val := BitVec.ofNat 64 (f 40 8), corr := f 4 4,
    held := [], bad := f 1 1 ≠ 0 || f 2 2 / 2 ≠ 0 || f 28 4 ≠ 0 || f 48 16 ≠ 0, stage := 0, result := 0, pages := 0 }

/-- The refusal of a request, 0 for none (R329): no right, malformed, a page not present. -/
def mmRefusal (s : State) (r : MmReq) : Nat :=
  let ls := leaves s r.start r.len
  let held : Bool := match s.tenantCfg r.tenant with
    | some c => c.mm
    | none => false
  if !held then 1
  else if r.bad || r.start % 0x10000 ≠ 0 || r.len % 0x10000 ≠ 0 || r.len = 0 || 0x00F0000000000000 < r.start + r.len ||
      (r.action = 0 && 2 < r.attr) || (r.action ≠ 0 && r.attr ≠ 0) ||
      (r.owner ≠ 0 && !(r.action = 0 && r.attr = 2)) || 2048 ≤ r.owner || r.comp % 16 ≠ 0 || 3 ≤ r.action then 2
  else if ls.any fun l => l.any fun l => !hasRight s r.tenant l.page.dom .wr then 1
  else if r.action = 0 && ls.any fun l => l.isNone then 3
  else 0

/-- The page-table mapping is written back and invalidated everywhere before Chirnaore acts (R329): its sectors are those of
the pages in the mapping's protection domain. -/
def flushTable (s : State) (tenant : Nat) : State :=
  match s.tenantCfg tenant with
  | none => s
  | some c =>
    if !c.mm || c.ptMap = 0 then s
    else
      match leafAt s.mem c.ptMap with
      | none => s
      | some l => flushWhere s fun x =>
          match leafAt s.mem x with
          | some k => k.page.dom = l.page.dom
          | none => false

/-- Updates the request of a tenant that is being carried out. -/
def onReq (s : State) (q : MmReq) (f : MmReq → MmReq) : State :=
  { s with lp := { s.lp with mm := s.lp.mm.map fun r => if r = q then f r else r } }

/-- The ends of the images in the firn zone and its base: where an image may begin. -/
def imageSpots (m : MemSys) : List Nat :=
  ((0x8000000000 - m.firn) :: m.images.map fun g => g.addr + 2 ^ g.lsz).foldl addOff []

/-- The lowest place in the firn zone for an image of `n` bytes, which meets no other image; none when the zone is full. -/
def imageSpot (m : MemSys) (n : Nat) : Option Nat :=
  (imageSpots m).find? fun a =>
    a + n ≤ 0x8000000000 && !m.images.any fun g => g.addr < a + n && a < g.addr + 2 ^ g.lsz

/-- What a page's frame holds, as its image keeps it: bytes, poison and pending reductions (R82, R114, R367). -/
def pageImage (m : MemSys) (p : Plb) (addr : Nat) : Image where
  lsz := p.lsz
  addr := addr
  data := (m.bytes.filter fun c => p.pa ≤ c.1 && c.1 < p.pa + 2 ^ p.lsz).map fun c => (c.1 - p.pa, c.2)
  bad := (m.poison.filter fun g => p.pa ≤ g && g < p.pa + 2 ^ p.lsz).map fun g => g - p.pa
  reds := (m.reds.filter fun r => p.pa ≤ r.key && r.key < p.pa + 2 ^ p.lsz).map fun r => { r with key := r.key - p.pa }

/-- Compresses one present page (R82, R329, R351): it is written back and invalidated, no PLB holds it any more, its image goes to
the firn zone, its entry names the image, and its frame is free. None when the zone has no place for it. -/
def compressPage (s : State) (l : Leaf) : Option State :=
  let n := 2 ^ l.page.lsz
  (imageSpot s.mem n).map fun addr =>
    let s := dropRange (flushWhere s (inRanges [(l.page.va, n)])) l.page.va n
    let img := pageImage s.mem l.page addr
    let s := setEntry s l fun e => e % 2 ^ 12 + addr + bits e 52 10 * 2 ^ 52 + 2 ^ 62
    s.onMem fun m => { m with images := img :: m.images, frames := m.frames ++ [(l.page.pa, n)] }

/-- Compresses the present local pages of a range (R329): how many, and whether the zone was full. -/
def compressAll : List Leaf → State → Nat → State × Nat × Bool
  | [], s, n => (s, n, false)
  | l :: t, s, n =>
    if l.present && l.page.pa < 2 ^ 40 then
      match compressPage s l with
      | some s' => compressAll t s' (n + 1)
      | none => (s, n, true)
    else compressAll t s n

/-- Chirnaore begins a request (R76 steps 1 and 2, R82, R329): a refused one is at its end at once. A vector access in progress
on its pages is waited for. -/
def beginReq (s : State) (q : MmReq) : State :=
  let s := flushTable s q.tenant
  let r := mmRefusal s q
  let ls := (leaves s q.start q.len).filterMap id
  let pages := ls.map fun l => (l.page.va, 2 ^ l.page.lsz)
  if r ≠ 0 then onReq s q fun x => { x with stage := 3, result := r }
  else if partIn s pages then s
  else
    match q.action with
    | 0 =>
      let s := ls.foldl (fun s l => setEntry s l (entryAttr 3 0)) s
      let s := flushWhere s (inRanges pages)
      onReq s q fun x => { x with stage := 2, pages := ls.length, held := pages }
    | 1 =>
      let c := compressAll ls s 0
      onReq c.1 q fun x => { x with stage := 2, pages := c.2.1, result := if c.2.2 then 4 else 0 }
    | _ => onReq s q fun x => { x with stage := 2, pages := ls.length }

/-- The requests of one tenant are carried out one at a time, in arrival order (R329). -/
def startReq (s : State) (tenant : Nat) : State :=
  match s.lp.mm.find? fun r => r.tenant = tenant with
  | some r => if r.stage = 0 then beginReq s r else s
  | none => s

/-- A request arrives in Chirnaore's hands. -/
def takeReq (s : State) (r : MmReq) : State := startReq { s with lp := { s.lp with mm := s.lp.mm ++ [r] } } r.tenant

/-- The address of the next entry of a tenant's request ring that Chirnaore serves (R329). -/
def nextEntry (s : State) (t : Nat) : Option (Nat × Nat) :=
  match s.tenantCfg t with
  | some c =>
    if c.mm && c.mmRing ≠ 0 then
      let i := (look s.lp.mmNext t).getD 0
      some (i, c.mmRing + 64 * i)
    else none
  | none => none

/-- A posted entry of a tenant's request ring with its fields, when none of the tenant's posted requests is in hand
(R329). -/
def postedReq (s : State) (t : Nat) : Option MmReq :=
  if s.lp.mm.any fun r => r.tenant = t && r.ring.isNone then none
  else
    match nextEntry s t with
    | none => none
    | some (i, a) =>
      match devRead s a 64 with
      | some bs => if leNat (bs.take 1) = 6 then some (mmOf t none 0 i bs) else none
      | none => none

/-- SHOOTDOWN_COMPLETE (R76 step 3, R83, R353) of the request that a tenant has in hand. A vector access in progress in the range
completes first. -/
def execShootdownComplete (s : State) : Host.Outcome State Fault Refusal :=
  done (match s.lp.mm.find? fun r => r.tenant = s.input.tenant with
    | some r =>
      if r.stage = 2 && !partIn s [(r.start, r.len)] then onReq (dropRange s r.start r.len) r fun x => { x with stage := 3 }
      else s
    | none => s)

/-- Step 4 of R76: the new attribute, which whoever waited for it fetches. -/
def installReq (s : State) (r : MmReq) : State :=
  let s := if r.action = 0 && r.result = 0 then
      dropRange (((leaves s r.start r.len).filterMap id).foldl (fun s l => setEntry s l (entryAttr r.attr r.owner)) s)
        r.start r.len
    else s
  onReq s r fun x => { x with stage := 4, held := [] }

/-- The completion record of a request (R329), which waits while its page is in transition (R352). -/
def recordReq (s : State) (r : MmReq) : State :=
  let bs := leBytes 8 r.val.toNat ++ leBytes 4 r.result ++ leBytes 4 r.pages
  let next (s : State) : State := onReq s r fun x => { x with stage := 5 }
  if r.comp = 0 || r.comp % 16 ≠ 0 then next s
  else
    match record s 2048 chirnaore 0 r.comp bs with
    | .done s' _ => next s'
    | .fault => next s
    | .wait => s

/-- A request leaves Chirnaore's hands: its packet completes, or its entry's header becomes 0 (R329). The tenant's next request
begins, and global phases whose record waited for a page go on (R257). -/
def releaseReq (s : State) (r : MmReq) : State :=
  let gone (s : State) : State :=
    let s := startReq { s with lp := { s.lp with mm := s.lp.mm.erase r } } r.tenant
    s.lp.launches.foldl (fun s l => if l.gaddr ≠ 0 then gbarCheck s l.lid else s) s
  match r.ring with
  | some q => gone (completePacket s q r.seq)
  | none =>
    match nextEntry s r.tenant with
    | some (i, a) =>
      let next (s : State) : State := gone { s with lp := { s.lp with mmNext := put s.lp.mmNext r.tenant ((i + 1) % 64) } }
      match record s 2048 chirnaore 0 a (leBytes 8 0) with
      | .done s' _ => next s'
      | .fault => next s
      | .wait => s
    | none => gone s

/-- The next part of a request's work, when it is at a stage. -/
def stageReq (tenant stage : Nat) (f : State → MmReq → State) (s : State) : State :=
  match s.lp.mm.find? fun r => r.tenant = tenant with
  | some r => if r.stage = stage then f s r else s
  | none => s

/-- The end of a tenant's request (R76 step 4, R329), as far as it can go. -/
def finishReq (s : State) (tenant : Nat) : State :=
  stageReq tenant 5 releaseReq (stageReq tenant 4 recordReq (stageReq tenant 3 installReq s))

/-- MM_REQUEST_COMPLETE (R329) of the request that a tenant has in hand; one that had to wait before it began begins. -/
def execMmRequestComplete (s : State) : Host.Outcome State Fault Refusal :=
  done (finishReq (stageReq s.input.tenant 0 beginReq s) s.input.tenant)

/-! ### The tenant table -/

/-- Frees an object of a tenant that goes, its waiters first released with BROKEN (R364). -/
def freeTenantObj (s : State) (h : Nat) : State :=
  let s := match s.obj h with
    | some ⟨_, _, _, .bar b⟩ => barRelease s h (fun _ => true) true b.pts
    | _ =>
      let s := s.release (fun t => t.wait.obj = some h) 2 0 (some .pkg)
      releaseRings s fun w => w.handle = h
  { s with sync := { s.sync with
      objs := drop s.sync.objs h
      retired := if poisonedObj s h then slotsOf s h ++ s.sync.retired else s.sync.retired
      binds := s.sync.binds.filter fun b => b.handle ≠ h
      dies := s.sync.dies.map fun d => { d with partials := d.partials.filter fun p => p.1 ≠ h } } }

/-- Whether two tenants' sub-meshes overlap. -/
def meshMeets (a b : TenantCfg) : Bool :=
  a.x0 < b.x0 + 2 ^ b.wlog && b.x0 < a.x0 + 2 ^ a.wlog && a.y0 < b.y0 + 2 ^ b.hlog && b.y0 < a.y0 + 2 ^ a.hlog

/-- Whether an entry may stand in the tenant table beside others (R28, R36): one of 16, its sub-mesh aligned, on the package's
mesh and apart from theirs. -/
def tenantOk (l : List TenantCfg) (c : TenantCfg) : Bool :=
  c.id < 16 && c.wlog ≤ 6 && c.hlog ≤ 5 && c.x0 % 2 ^ c.wlog = 0 && c.y0 % 2 ^ c.hlog = 0 &&
    c.x0 + 2 ^ c.wlog ≤ 64 && c.y0 + 2 ^ c.hlog ≤ 32 && l.all fun x => x.id ≠ c.id && !meshMeets x c

/-- A tenant table from the entries that may stand together, earlier ones first. -/
def tenantTable : List TenantCfg → List TenantCfg → List TenantCfg
  | acc, [] => acc
  | acc, c :: t => tenantTable (if tenantOk acc c then acc ++ [c] else acc) t

/-- TENANT_RECONFIGURATION (R36, R267, R313, R324, R364): a tenant's entry is set, or removed when none is given, and the host
rights entry is filled again. An entry that the table cannot hold is never configured. -/
def execTenantReconfiguration (s : State) : Host.Outcome State Fault Refusal :=
  let t := s.input.tenant
  let rest := s.lp.tenants.filter fun x => x.id ≠ t
  let entry := s.input.cfg.map fun c => { c with id := t }
  done (if entry.all (tenantOk rest) then
      let mine := (s.sync.objs.filter fun e => e.2.tenant = t && inSync e.1).map (·.1)
      let s1 := mine.foldl freeTenantObj s
      { s1 with
        lp := { s1.lp with tenants := entry.toList ++ rest }
        host := { s1.host with cfg := s1.host.cfg.map fun c => { c with hostRd := s.input.hostRd, hostWr := s.input.hostWr } }
        fab := { s1.fab with banks := s1.fab.banks.filter fun b => b.id / 4 ≠ t } }
    else s)

end Sys2Proof.Machine
end

