-- ==== Sys2Proof/Machine/Packets.lean ====
section
/-! DEFINITION. Submission rings and their packets (R31, R32, R326 to R331, R381, R382, R392): the ring registers, reading and
checking a packet, and every packet kind but the life of a launch after it is read. -/

namespace Sys2Proof.Machine

set_option linter.unusedVariables false

/-! ### Ring registers -/

/-- RINGCFG's fields (R326). -/
def SubRing.en (x : SubRing) : Bool := x.cfg.getLsbD 31
def SubRing.loc (x : SubRing) : Bool := x.cfg.getLsbD 30
def SubRing.prio (x : SubRing) : Nat := bits x.cfg.toNat 28 2
def SubRing.tenant (x : SubRing) : Nat := bits x.cfg.toNat 24 4
def SubRing.halted (x : SubRing) : Bool := x.cfg.getLsbD 19
def SubRing.size (x : SubRing) : Nat := 2 ^ (12 + bits x.cfg.toNat 20 4)

/-- A write of RINGCFG on a disabled ring (R326): every writable field; a size code of 9 to 15 is refused. -/
def ringSetup (s : State) (r : Nat) (v : Word) : State :=
  if 9 ≤ bits v.toNat 20 4 then s else s.setRing r { s.ring r with cfg := v &&& 0xFFF00000 }

/-- A write of RINGCFG with en = 0 on an enabled ring (R326, R382): head, tail, halt and the record are cleared, and a packet
that holds the ring is dropped. -/
def ringOff (s : State) (r : Nat) : State :=
  let x := s.ring r
  let open_ := match x.held with
    | some w => x.open_.filter fun p => p.seq ≠ w.seq
    | none => x.open_
  (leaveForms s (.inr r)).setRing r { x with
    cfg := x.cfg &&& 0x7FF00000, tail := 0, head := 0, err := 0, open_ := open_, held := none, pend := none, seen := [] }

/-- A host write of a ring's RINGCFG (R326). -/
def ringCfgWrite (s : State) (r : Nat) (v : Word) : State :=
  if !(s.ring r).en then ringSetup s r v else if v.getLsbD 31 then s else ringOff s r

/-- RING_ENABLE (R326): a RINGCFG write on a disabled ring. -/
def execRingEnable (s : State) : Host.Outcome State Fault Refusal := done (ringCfgWrite s (s.input.ring % 64) s.input.value)

/-- RING_DISABLE (R326, R382): a RINGCFG write with en = 0 on an enabled ring. -/
def execRingDisable (s : State) : Host.Outcome State Fault Refusal := done (ringCfgWrite s (s.input.ring % 64) s.input.value)

/-- A host write of RINGTAIL (R326): a bad value halts the ring with code 6 (R381). -/
def ringTailWrite (s : State) (r : Nat) (v : Nat) : State :=
  let x := s.ring r
  if !x.en || x.halted then s
  else if v % 64 ≠ 0 || x.size ≤ v then haltRing s r 6 0 0
  else s.setRing r { x with tail := v }

/-- RINGTAIL (R326). -/
def execRingtail (s : State) : Host.Outcome State Fault Refusal :=
  done (ringTailWrite s (s.input.ring % 64) s.input.value.toNat)

/-! ### Reading a packet -/

/-- What the device finds at a ring's head. -/
inductive RingRead where
  | nothing
  | failed
  | packet (bs : List Byte)
  deriving DecidableEq, Repr

/-- `n` bytes of a ring in device memory from an offset, past the ring's end from its start (R327). -/
def ringBytes (s : State) (x : SubRing) (o n : Nat) : Option (List Byte) :=
  (List.range n).foldr (fun i acc =>
    match acc, devRead s (x.base.toNat + (o + i) % x.size) 1 with
    | some l, some [b] => some (b :: l)
    | _, _ => none) (some [])

/-- The bytes at the head of a ring: those of a ring in host memory as they have been read over the link. -/
def headBytes (s : State) (x : SubRing) (n : Nat) : Option (List Byte) :=
  if x.loc then ringBytes s x x.head n
  else if n ≤ x.seen.length then some (x.seen.take n)
  else none

/-- A field of a packet: `n` bytes from offset `o`. -/
def pf (bs : List Byte) (o n : Nat) : Nat := leNat ((bs.drop o).take n)

/-- The length that a packet's header gives (R327). -/
def packetBytes (hdr : Nat) : Nat := (bits hdr 8 3 + 1) * 64

/-- Whether a ring has bytes that the device may read. -/
def SubRing.open (x : SubRing) : Bool := x.en && !x.halted && x.held.isNone && x.pend.isNone && x.head ≠ x.tail

/-- Bytes between a ring's head and its tail. -/
def SubRing.avail (x : SubRing) : Nat := (x.tail + x.size - x.head) % x.size

/-- The device reads the head of a ring in host memory over the link, whose answer the event brings: the header first, and the
whole packet once all of it is there (R326, R327). -/
def lookRing (s : State) (r : Nat) : State :=
  let x := s.ring r
  let n := if x.seen = [] then 64 else packetBytes (pf x.seen 0 8)
  if x.loc || !x.open || n ≤ x.seen.length || x.avail < n || !s.host.linkUp || s.input.err ≠ 0 then s
  else
    let m := packetBytes (leNat (s.input.bytes.take 8))
    s.setRing r { x with seen := (List.range (if m ≤ x.avail then m else 64)).map fun i => s.input.bytes.getD i 0 }

/-- Reads the packet at a ring's head once the whole of it lies between head and tail (R327). -/
def readHead (s : State) (x : SubRing) : RingRead :=
  if !x.open then .nothing
  else
    match headBytes s x 64 with
    | none => .failed
    | some h =>
      let n := packetBytes (pf h 0 8)
      if x.avail < n then .nothing
      else
        match headBytes s x n with
        | some bs => .packet bs
        | none => .failed

/-! ### Checking a packet -/

/-- The byte ranges that a packet kind lists (R328 to R330). -/
def listed (op : Nat) : List (Nat × Nat) :=
  match op with
  | 1 => [(0, 28), (32, 108), (112, 128)]
  | 2 => [(0, 24)]
  | 3 => [(0, 25)]
  | 4 => [(0, 25)]
  | 5 => [(0, 17)]
  | _ => [(0, 28), (32, 48)]

/-- The offset and the number of values of the byte that selects a packet's action (R328). -/
def actionOf (op : Nat) : Option (Nat × Nat) :=
  match op with
  | 3 => some (24, 2)
  | 4 => some (24, 3)
  | 5 => some (16, 2)
  | 6 => some (24, 3)
  | _ => none

/-- Whether a packet sets a reserved bit (R327, R328). -/
def reservedSet (bs : List Byte) : Bool :=
  let op := pf bs 0 1
  bits (pf bs 0 8) 18 14 ≠ 0 || bits (pf bs 0 8) 11 5 ≠ 0 ||
  ((List.range bs.length).any fun i => bs.getD i 0 ≠ 0 && !((listed op).any fun r => r.1 ≤ i && i < r.2)) ||
  (match actionOf op with
    | some (o, n) => n ≤ pf bs o 1
    | none => false)

/-- The failure of a packet's handle (R328, R381): code 4, 9, or 0 for none. -/
def handleCode (s : State) (tenant h : Nat) (bar cnt : Bool) : Nat :=
  if !inSync h then 9
  else
    match s.obj h with
    | none => 9
    | some o =>
      if o.tenant ≠ tenant then 4
      else
        match o.kind with
        | .bar _ => if bar then 0 else 9
        | .cnt _ _ => if cnt then 0 else 9
        | _ => 9

/-- The selector of a router configuration packet (R286, R328): context, first register and count. -/
def packetSelector (action v : Nat) : Option (Nat × Nat × Nat) :=
  if action = 2 then (if v % 2 ^ 32 = 0 && v / 2 ^ 34 = 0 then some (bits v 32 2, 0, 1024) else none) else selector v

/-- The limits of a router configuration packet's fields (R328, R381): code 10, or 0. -/
def routerCode (bs : List Byte) : Nat :=
  if (packetSelector (pf bs 24 1) (pf bs 8 8)).isNone || pf bs 16 8 % 4 ≠ 0 then 10 else 0

/-! ### Launch packets -/

/-- Whether a page is present or compressed and grants a tenant a right, as the launch processor checks it (R79, R358). A PRV
page is writable by its owner core alone (R75). -/
def pageFit (s : State) (tenant : Nat) (n : Need) (a : Nat) : Bool :=
  match leafAt s.mem a with
  | some l => l.page.attr ≠ 2 && hasRight s tenant l.page.dom n && region a = .virt
  | none => false

/-- Whether every page of a range does; a range of no bytes has no page (R358). -/
def rangeFit (s : State) (tenant : Nat) (n : Need) (a len : Nat) : Bool :=
  len = 0 ||
    (List.range ((a % 0x10000 + len + 0xFFFF) / 0x10000)).all fun i => pageFit s tenant n (a / 0x10000 * 0x10000 + i * 0x10000)

/-- The fields of a kernel image header that the launch processor uses (R24). -/
structure Header where
  enc   : Nat
  slots : Nat
  wlog  : Nat
  hlog  : Nat
  entry : Nat
  code  : Nat
  /-- Ring number, log2 of the capacity, tile bytes and base of each ring-table entry. -/
  rings : List (Nat × Nat × Nat × Nat)
  deriving DecidableEq, Repr

/-- The ring numbers whose bits are set. -/
def setBits (v n : Nat) : List Nat := (List.range n).filter fun i => bits v i 1 = 1

/-- A ring-table entry, none when it breaks a limit (R24). -/
def ringEntry (bs : List Byte) : Option (Nat × Nat × Nat × Nat) :=
  let cap := pf bs 1 1
  let tile := pf bs 4 4
  let base := pf bs 8 4
  if pf bs 2 2 ≠ 0 || pf bs 12 4 ≠ 0 || 6 < cap || tile % 256 ≠ 0 || tile < 256 || 2096896 < tile || base % 256 ≠ 0 ||
      0x200000 < base + tile * 2 ^ cap then none
  else some (pf bs 0 1, cap, tile, base)

/-- The ring table: one good entry for each bit, in ascending order. -/
def ringTable : List Nat → List Byte → Option (List (Nat × Nat × Nat × Nat))
  | [], _ => some []
  | q :: t, bs =>
    match ringEntry (bs.take 16), ringTable t (bs.drop 16) with
    | some e, some l => if e.1 = q then some (e :: l) else none
    | _, _ => none

/-- Reads and checks a kernel image's header and ring table (R24); none when the launch processor refuses it. The launch processor
reads them itself, under no right of the tenant (R343). DESIGN CHOICE (log 107): it refuses an image whose magic or slots field
has another value than R24 gives, or whose header or ring table it cannot read because a page is not present. -/
def headerOf (s : State) (a : Nat) : Option Header :=
  if a % 256 ≠ 0 then none
  else
    match devRead s a 64 with
    | none => none
    | some h =>
      let f (lo n : Nat) : Nat := bits (leNat h) lo n
      let qs := setBits (f 128 16) 16
      let r := qs.length
      if f 0 32 ≠ 0x4B51445A || f 32 4 < 1 || 3 < f 32 4 || f 36 4 < 1 || 4 < f 36 4 || f 192 64 ≠ 64 ||
          f 256 64 ≠ 64 + 16 * r then none
      else
        match devRead s (a + 64) (16 * r) with
        | none => none
        | some t =>
          (ringTable qs t).map fun rings =>
            { enc := f 32 4, slots := f 36 4, wlog := f 40 4, hlog := f 44 4, entry := f 64 32,
              code := a + 256 * ((64 + 16 * (r + f 160 16) + 255) / 256), rings := rings }

/-- The floes that a rectangle touches, ascending (R54). -/
def rectFloes (x0 y0 wlog hlog : Nat) : List Nat :=
  (List.range 256).filter fun f => (List.range 8).any fun i =>
    let c := coreOfFloe f i
    x0 ≤ c % 64 && c % 64 < x0 + 2 ^ wlog && y0 ≤ c / 64 && c / 64 < y0 + 2 ^ hlog

/-- The bytes of a launch's save area (R54). -/
def saveBytes (x0 y0 wlog hlog slots : Nat) : Nat :=
  278528 * (rectFloes x0 y0 wlog hlog).length + 2 ^ (wlog + hlog) * slots * 0x10000

/-- Whether a rectangle is legal for a tenant (R28). -/
def rectOk (s : State) (tenant x0 y0 wlog hlog : Nat) : Bool :=
  wlog ≤ 6 && hlog ≤ 5 && x0 % 2 ^ wlog = 0 && y0 % 2 ^ hlog = 0 &&
  (match s.tenantCfg tenant with
    | some c => c.x0 ≤ x0 && x0 + 2 ^ wlog ≤ c.x0 + 2 ^ c.wlog && c.y0 ≤ y0 && y0 + 2 ^ hlog ≤ c.y0 + 2 ^ c.hlog
    | none => false)

/-- A well-formed launch packet's header (R23, R24, R28, R330, R358); none when the launch is refused as malformed. -/
def launchFit (s : State) (tenant : Nat) (bs : List Byte) : Option Header :=
  let x0 := pf bs 24 1
  let y0 := pf bs 25 1
  let w := pf bs 26 1
  let h := pf bs 27 1
  if !rectOk s tenant x0 y0 w h then none
  else
    match headerOf s (pf bs 8 8) with
    | none => none
    | some k =>
      let save := pf bs 88 8
      let la := pf bs 96 8
      let ll := pf bs 104 4
      if (k.wlog ≠ 15 && k.wlog ≠ w) || (k.hlog ≠ 15 && k.hlog ≠ h) || save % 0x10000 ≠ 0 ||
          !rangeFit s tenant .wr save (saveBytes x0 y0 w h k.slots) ||
          la % 16 ≠ 0 || ll % 16 ≠ 0 || 2 ^ 20 < ll || !rangeFit s tenant .wr la ll || pf bs 112 8 % 16 ≠ 0 then none
      else some k

/-- The cause code of a bad packet, 0 for a good one (R328, R381). -/
def packetCode (s : State) (x : SubRing) (bs : List Byte) : Nat :=
  let op := pf bs 0 1
  let h := pf bs 8 8
  if op = 0 || 6 < op then 1
  else if bits (pf bs 0 8) 8 3 ≠ (if op = 1 then 3 else 0) then 2
  else if reservedSet bs then 3
  else if (s.tenantCfg x.tenant).isNone then 5
  else
    match op with
    | 1 => if (launchFit s x.tenant bs).isNone then 7 else 0
    | 2 => handleCode s x.tenant h true true
    | 3 => handleCode s x.tenant h (pf bs 24 1 = 0) (pf bs 24 1 = 1)
    | 4 => routerCode bs
    | _ => 0

/-! ### Serving the rings -/

/-- The bank that a router configuration packet names (R313, R328). -/
def packetBank (x : SubRing) (bs : List Byte) : Nat := x.tenant * 4 + bits (pf bs 8 8) 32 2

/-- Whether a packet has to wait: an ord packet for the earlier ones, a router configuration that has reached the router for its
turn on the bank (R327, R328, R344). -/
def packetWaits (s : State) (r : Nat) (bs : List Byte) : Bool :=
  (bits (pf bs 0 8) 17 1 = 1 && (s.ring r).open_ ≠ []) || (pf bs 0 1 = 4 && (formOf s (.inr r)).any fun f => !formFirst s f)

/-- Whether a ring has a packet waiting that can be served now (R31), as far as the device has read it. -/
def ringDue (s : State) (r : Nat) : Bool :=
  match readHead s (s.ring r) with
  | .nothing => false
  | .failed => true
  | .packet bs => packetCode s (s.ring r) bs ≠ 0 || !packetWaits s r bs

/-- Whether one ring comes before another in the launch processor's service (R31): a higher priority, or the same one earlier in
the round. -/
def ringBefore (s : State) (q r : Nat) : Bool :=
  let turn (q : Nat) : Nat := (q + 127 - s.lp.rr) % 64
  (s.ring r).prio < (s.ring q).prio || ((s.ring r).prio = (s.ring q).prio && turn q < turn r)

/-- Whether another ring with a packet waiting is served before one (R31). A packet that has reached the router is no longer the
launch processor's to serve (R344). -/
def outranked (s : State) (r : Nat) : Bool :=
  (formOf s (.inr r)).isNone &&
    s.lp.rings.any fun e => e.1 ≠ r && e.1 < 64 && ringBefore s e.1 r && (formOf s (.inr e.1)).isNone && ringDue s e.1

/-- Which event reads a packet: 0 a launch or an unknown kind, then the others in the order of R328 and of their actions. -/
def packetKind (bs : List Byte) : Nat :=
  match pf bs 0 1 with
  | 2 => 1
  | 3 => if pf bs 24 1 = 1 then 3 else 2
  | 4 => if pf bs 24 1 = 1 then 5 else if pf bs 24 1 = 2 then 6 else 4
  | 5 => if pf bs 16 1 = 1 then 8 else 7
  | 6 => if pf bs 24 1 = 1 then 10 else if pf bs 24 1 = 2 then 11 else 9
  | _ => 0

/-- The head advances past a packet, which is open until it completes (R327, R392). -/
def takePacket (s : State) (r : Nat) (bs : List Byte) : State :=
  let x := s.ring r
  s.setRing r { x with
    head := (x.head + packetBytes (pf bs 0 8)) % x.size
    read := x.read + 1
    seen := []
    open_ := x.open_ ++ [⟨x.read, bits (pf bs 0 8) 16 1 = 1⟩] }

/-- The event's ring reads the packet at its head (R31, R327, R328): a bad one halts the ring, and a good one of the event's
kind has the effect `k` of its bytes. -/
def servePacket (s : State) (kind : Nat) (k : State → List Byte → State) : State :=
  let r := s.input.ring % 64
  if outranked s r then s
  else
    let s := lookRing s r
    match readHead s (s.ring r) with
    | .nothing => s
    | .failed => haltRing s r 8 0 0
    | .packet bs =>
      if packetKind bs ≠ kind then s
      else
        let s := if pf bs 0 1 = 1 then expandRange s (pf bs 8 8) 320 else s
        let c := packetCode s (s.ring r) bs
        let s' := { s with lp := { s.lp with rr := r } }
        if c ≠ 0 then haltRing (leaveForms s' (.inr r)) r c (pf bs 0 1) (pf bs 4 4)
        else if packetWaits s r bs then s
        else k s' bs

/-- The ring of the event. -/
def State.evRing (s : State) : Nat := s.input.ring % 64

/-- LAUNCH (R330): a launch packet is read and checked, and waits to be accepted (R32, R331). -/
def execLaunch (s : State) : Host.Outcome State Fault Refusal :=
  done (servePacket s 0 fun s bs =>
    s.setRing s.evRing { s.ring s.evRing with pend := some (bs, max s.lp.mark s.mem.hts) })

/-- The place of the packet that a ring has just read. -/
def lastRead (s : State) (r : Nat) : Nat := (s.ring r).read - 1

/-- Whether a wait-on-object's condition holds already (R328). -/
def objectReady (s : State) (h : Nat) (target : Word) : Bool :=
  match s.obj h with
  | some ⟨_, _, p, .bar b⟩ => p || b.brk || b.done (target.toNat % 65536)
  | some ⟨_, _, p, .cnt v _⟩ => p || target.toNat ≤ v.toNat
  | _ => true

/-- WAIT_ON_OBJECT (R32, R328): the packet holds its ring until its condition holds. -/
def execWaitOnObject (s : State) : Host.Outcome State Fault Refusal :=
  done (servePacket s 1 fun s bs =>
    let r := s.evRing
    let h := pf bs 8 8
    let target := BitVec.ofNat 64 (pf bs 16 8)
    let s := takePacket s r bs
    let n := lastRead s r
    if objectReady s h target then completePacket s r n
    else s.setRing r { s.ring r with held := some ⟨h, target, n, bits (pf bs 0 8) 16 1 = 1⟩ })

/-- SIGNAL_ARRIVAL (R251, R328, R392): an engine arrival at the object's incarnation as it stands. DESIGN CHOICE (log 108): it
carries the larger of the launch processor's mark and the host link's timestamp, as does a counter's add. -/
def execSignalArrival (s : State) : Host.Outcome State Fault Refusal :=
  done (servePacket s 2 fun s bs =>
    let r := s.evRing
    let h := pf bs 8 8
    let s := takePacket s r bs
    let n := lastRead s r
    let inc := match s.bar h with
      | some b => b.inc
      | none => 0
    completePacket (barArrive s h inc (pf bs 16 8 % 65536) none (max s.lp.mark s.mem.hts)).2 r n)

/-- SIGNAL_CNT_ADD (R256, R328): a poisoned counter keeps its state (R369). -/
def execSignalCntAdd (s : State) : Host.Outcome State Fault Refusal :=
  done (servePacket s 3 fun s bs =>
    let r := s.evRing
    let h := pf bs 8 8
    let s := takePacket s r bs
    let n := lastRead s r
    let s := match s.obj h with
      | some ⟨_, _, false, .cnt v p⟩ =>
        cntSet s h (v + BitVec.ofNat 64 (pf bs 16 8)) (max p (max s.lp.mark s.mem.hts))
      | _ => s
    completePacket s r n)

/-- A router configuration packet completes without effect and is logged (R328, R385). -/
def routerLogged (s : State) (r : Nat) (bs : List Byte) : State := logError s 4 14 15 0xFFFF 0 r (pf bs 4 4)

/-- A router configuration packet at the router (R344): it waits for its turn on the bank, and ends with its effect or without
effect. -/
def routerPacket (s : State) (bs : List Byte) (f : State → Nat → Nat → Nat → PriceEnd) : State :=
  let r := s.evRing
  let bank := packetBank (s.ring r) bs
  match packetSelector (pf bs 24 1) (pf bs 8 8) with
  | none => s
  | some (_, first, count) =>
    let waiting := (formOf s (.inr r)).isSome
    if !waiting && (bankBusy s bank || formsOn s bank ≠ []) then joinForms s bank (.inr r)
    else
      match f s bank first count with
      | .wait => if waiting then s else joinForms s bank (.inr r)
      | .done st s' _ =>
        let s := takePacket (leaveForms (if st = 0 then s' else routerLogged s r bs) (.inr r)) r bs
        completePacket s r (lastRead s r)

/-- ROUTER_CONFIG_SET (R286, R328). -/
def execRouterConfigSet (s : State) : Host.Outcome State Fault Refusal :=
  done (servePacket s 4 fun s bs => routerPacket s bs fun s bank first count =>
    priceSet s 2048 (s.ring s.evRing).tenant s.mem.hts bank first count (pf bs 16 8))

/-- ROUTER_CONFIG_GET (R286, R328). -/
def execRouterConfigGet (s : State) : Host.Outcome State Fault Refusal :=
  done (servePacket s 5 fun s bs => routerPacket s bs fun s bank first count =>
    priceGet s 2048 (s.ring s.evRing).tenant s.mem.hts bank first count (pf bs 16 8))

/-- ROUTER_CONFIG_CLEAR (R286, R328, R380). -/
def execRouterConfigClear (s : State) : Host.Outcome State Fault Refusal :=
  done (servePacket s 6 fun s bs => routerPacket s bs fun s bank _ _ => priceClear s bank)

/-! ### Time packets -/

/-- Updates the time unit. -/
def State.onTime (s : State) (f : TimeUnit → TimeUnit) : State :=
  { s with host := { s.host with time := f s.host.time } }

/-- A step of the time base (R384): a negative one freezes `ptime` until the stepped time passes it. -/
def TimeUnit.step (u : TimeUnit) (d : Int) : TimeUnit :=
  let t : Int := (u.frozen.getD u.ns : Nat) + d
  if (u.ns : Int) ≤ t then { u with ns := t.toNat % 2 ^ 64, frozen := none }
  else { u with frozen := some t.toNat }

/-- TIME_STEP (R328, R384). -/
def execTimeStep (s : State) : Host.Outcome State Fault Refusal :=
  done (servePacket s 7 fun s bs =>
    let r := s.evRing
    let s := takePacket (s.onTime fun u => u.step (signed (pf bs 8 8) 64)) r bs
    completePacket s r (lastRead s r))

/-- TIME_SLEW (R328, R384): the packet completes once the slew has begun. -/
def execTimeSlew (s : State) : Host.Outcome State Fault Refusal :=
  done (servePacket s 8 fun s bs =>
    let r := s.evRing
    let s := takePacket (s.onTime fun u => { u with slew := u.slew + signed (pf bs 8 8) 64 }) r bs
    completePacket s r (lastRead s r))

/-! ### Memory-management requests -/

/-- A request from a packet or from a tenant's request ring (R329). -/
def mmEvent (s : State) (action : Nat) : State :=
  match s.input.src with
  | .ring r =>
    servePacket { s with input := { s.input with ring := r } } (9 + action) fun s bs =>
      let r := s.evRing
      let t := (s.ring r).tenant
      let s := takePacket s r bs
      takeReq s (mmOf t (some r) (lastRead s r) 0 bs)
  | .tenant t =>
    match postedReq s t with
    | some q => if q.action = action || (2 < q.action && action = 0) then takeReq s q else s
    | none => s

/-- CHANGE_ATTRIBUTE (R76, R329): an action byte that names none is taken here and refused. -/
def execChangeAttribute (s : State) : Host.Outcome State Fault Refusal := done (mmEvent s 0)

/-- COMPRESS (R82, R329). -/
def execCompress (s : State) : Host.Outcome State Fault Refusal := done (mmEvent s 1)

/-- SHOOT_DOWN (R83, R329). -/
def execShootDown (s : State) : Host.Outcome State Fault Refusal := done (mmEvent s 2)

end Sys2Proof.Machine
end

