-- ==== Sys2Proof/Machine/Launches.lean ====
section
/-! DEFINITION. The life of a launch (R32 to R35, R330, R391, R392) and the taking up and moving of continuation records (R48
to R50). -/

namespace Sys2Proof.Machine

set_option linter.unusedVariables false

/-! ### Rectangles and slots -/

/-- The cores of a launch's rectangle by logical core number (R29). -/
def Launch.cores (l : Launch) : List Nat :=
  (List.range (2 ^ (l.wlog + l.hlog))).map fun n => (l.y0 + n / 2 ^ l.wlog) * 64 + l.x0 + n % 2 ^ l.wlog

/-- The logical core number of a core (R29). -/
def Launch.logical (l : Launch) (core : Nat) : Nat := (core / 64 - l.y0) * 2 ^ l.wlog + (core % 64 - l.x0)

/-- Whether two rectangles share a core. -/
def Launch.meets (a b : Launch) : Bool :=
  a.x0 < b.x0 + 2 ^ b.wlog && b.x0 < a.x0 + 2 ^ a.wlog && a.y0 < b.y0 + 2 ^ b.hlog && b.y0 < a.y0 + 2 ^ a.hlog

/-- The floes that a launch's rectangle touches, ascending. -/
def Launch.floes (l : Launch) : List Nat := rectFloes l.x0 l.y0 l.wlog l.hlog

/-- The free slots of a core, ascending (R38). -/
def freeSlots (s : State) (core : Nat) : List Nat :=
  (List.range 4).filter fun i => !(s.threads.any fun t => t.core = core && t.slot = i)

/-- How many slots a launch holds on a core. -/
def slotsHeld (s : State) (lid core : Nat) : Nat := (s.threads.filter fun t => t.core = core && t.lid = lid).length

/-- Puts a thread into its free slot. -/
def addThread (s : State) (t : Thread) : State :=
  if s.th.core = t.core && s.th.slot = t.slot then { s with th := t } else { s with slots := s.slots ++ [t] }

/-- A thread at its start (R34): a launch's initial values. -/
def Launch.thread (l : Launch) (core slot tid : Nat) : Thread :=
  { Thread.idle core slot with
    live := true, tid := tid, lid := l.lid, enc := l.enc, frm := l.frm, srseed := l.srseed, lease := l.lease
    rimewin := l.rimewin, chk := l.chk, corr := l.corr }

/-- x10 to x14 and x15 of a new thread, its other registers 0 (R34, R50). -/
def startRegs (a : List Word) (x15 : Word) : Vector Word 32 :=
  (((((Vector.replicate 32 (0 : Word)).set 10 (a.getD 0 0)).set 11 (a.getD 1 0)).set 12 (a.getD 2 0)).set 13 (a.getD 3 0)).set
    14 (a.getD 4 0) |>.set 15 x15

/-! ### Records -/

/-- Whether a core's slot may take up a record (R49). -/
def eligible (s : State) (core : Nat) (r : Rec) : Bool :=
  match s.launch r.lid with
  | some l => l.state = .running && l.holds core && slotsHeld s l.lid core < l.slots
  | none => false

/-- The pools in the order in which a core looks (R49): its floe's, its die's, and the other dies' oldest first. A floe's pool
has no die number. -/
def poolsOf (s : State) (core : Nat) : List (Option Nat × Rec) :=
  let d := dieOfCore core
  let own := (s.die d).pool.map fun r => (some d, r)
  let others := (List.range 4).filter (· ≠ d) |>.flatMap fun e => (s.die e).pool.map fun r => (some e, r)
  (s.floe (floeOfCore core)).pool.map (fun r => (none, r)) ++ own ++ others

/-- The records that a core's slot may take up. -/
def eligibleRecs (s : State) (core : Nat) : List (Option Nat × Rec) := (poolsOf s core).filter fun e => eligible s core e.2

/-- The oldest of other dies' records: the one that entered its die's pool first, the lower die on a tie (DESIGN CHOICE,
log 109). -/
def olderRec : List (Option Nat × Rec) → Option (Option Nat × Rec)
  | [] => none
  | e :: t =>
    match olderRec t with
    | none => some e
    | some f => if f.2.since < e.2.since then some f else some e

/-- The record that a slot of a core takes up (R49). -/
def chooseRec (s : State) (core : Nat) : Option (Option Nat × Rec) :=
  let l := eligibleRecs s core
  let top := l.foldl (fun m e => max m e.2.prio) 0
  let l := l.filter fun e => e.2.prio = top
  match l.find? fun e => e.1 = none || e.1 = some (dieOfCore core) with
  | some e => some e
  | none => olderRec l

/-! ### Accepting a launch -/

/-- A launch id that no launch in the table has (R32). -/
def freshLid (s : State) : Nat :=
  (((List.range 257).map fun i => (s.lp.nextLid + i) % 65536).find? fun n => (s.launch n).isNone).getD 0

/-- A launch from its packet and its kernel's header (R24, R330). -/
def launchOf (bs : List Byte) (k : Header) (lid tenant prio ring pkt mark : Nat) : Launch where
  lid := lid
  state := .accepted
  tenant := tenant
  prio := prio
  ring := ring
  irq := bits (pf bs 0 8) 16 1 = 1
  pkt := pkt
  x0 := pf bs 24 1
  y0 := pf bs 25 1
  wlog := pf bs 26 1
  hlog := pf bs 27 1
  image := pf bs 8 8
  code := k.code
  entry := k.entry
  enc := k.enc
  slots := k.slots
  rings := k.rings
  start := pf bs 16 8
  args := (List.range 5).map fun i => BitVec.ofNat 64 (pf bs (32 + 8 * i) 8)
  srseed := BitVec.ofNat 64 (pf bs 72 8)
  frm := BitVec.ofNat 3 (pf bs 80 1)
  chk := bits (pf bs 81 1) 0 1 = 1
  lease := clamp 64 4096 (pf bs 82 2)
  rimewin := clamp 256 65536 (pf bs 84 4)
  corr := BitVec.ofNat 32 (pf bs 4 4)
  save := pf bs 88 8
  logAddr := pf bs 96 8
  logLen := pf bs 104 4
  logPos := 0
  logBad := 0
  comp := pf bs 112 8
  compVal := BitVec.ofNat 64 (pf bs 120 8)
  mark := mark
  started := 0
  cause := 0
  pts := 0
  lost := 0
  saved := []
  savedTasks := []
  savedCopies := []
  savedRings := []
  savedMasks := []
  urgent := false
  gphase := 0
  garr := []
  gended := 0
  gaddr := 0
  gearly := 0
  glate := 0
  gtimes := []
  glast := 0
  gpts := 0

/-- A launch enters the table. -/
def enterLaunch (s : State) (l : Launch) : State :=
  { s with lp := { s.lp with launches := s.lp.launches ++ [l], nextLid := (l.lid + 1) % 65536 } }

/-- Whether another ring's launch that waits for the table is accepted first (R31). -/
def pendBefore (s : State) (r : Nat) : Bool := s.lp.rings.any fun e => e.1 ≠ r && ringBefore s e.1 r && e.2.pend.isSome

/-- LAUNCH_ACCEPT (R31, R32, R358) of the packet that a ring holds; a full table makes it wait. -/
def execLaunchAccept (s : State) : Host.Outcome State Fault Refusal :=
  let r := s.evRing
  let x := s.ring r
  done (match x.pend, pendBefore s r with
    | none, _ | _, true => s
    | some (bs, mark), false =>
      let s1 := ({ s with lp := { s.lp with rr := r } }).setRing r { x with pend := none }
      match packetCode s x bs, launchFit s x.tenant bs with
      | 0, some k =>
        if 256 ≤ s.lp.launches.length then s
        else
          let s2 := takePacket s1 r bs
          enterLaunch s2 (launchOf bs k (freshLid s) x.tenant x.prio r (lastRead s2 r) mark)
      | c, _ => haltRing s1 r c (pf bs 0 1) (pf bs 4 4))

/-! ### Starting a launch -/

/-- Whether an accepted launch is due (R33), no checkpoint standing in its way (R335). -/
def due (s : State) (l : Launch) : Bool := l.state = .accepted && l.start ≤ s.ptime && !s.lp.stopped

/-- How many free slots of a core records of at least a priority can take up: of each launch as many as its `.slots` allows
(R38, R49). -/
def recordsAhead (s : State) (core prio : Nat) : Nat :=
  let l := (eligibleRecs s core).filter fun e => prio ≤ e.2.prio
  s.lp.launches.foldl (fun n k =>
    n + min (l.filter fun e => e.2.lid = k.lid).length (k.slots - slotsHeld s k.lid core)) 0

/-- Whether a core has a slot for a due launch (R33) beside those that records of at least its priority take up (R391). -/
def coreFree (s : State) (l : Launch) (core : Nat) : Bool := recordsAhead s core l.prio < (freeSlots s core).length

/-- Whether the rings that a launch configures are unused in its floes (R24, R245). -/
def ringsFree (s : State) (l : Launch) : Bool :=
  l.rings = [] || l.floes.all fun f => l.rings.all fun q => !ringUsed (s.floe f) q.1

/-- Whether a launch's resources are there. -/
def canStart (s : State) (l : Launch) : Bool := l.cores.all (coreFree s l) && ringsFree s l

/-- The due launches that start before one (R33): of higher priority, or of the same and accepted earlier. -/
def dueBefore (s : State) (l : Launch) : List Launch :=
  (s.lp.launches.filter fun d => due s d && l.prio < d.prio) ++
    (s.lp.launches.takeWhile fun d => d.lid ≠ l.lid).filter fun d => due s d && d.prio = l.prio

/-- Whether a launch starts now: it is due, what it needs is there, and none before it can start (R33, R391). -/
def startsNow (s : State) (l : Launch) : Bool := due s l && canStart s l && (dueBefore s l).all fun d => !canStart s d

/-- The configuration word of a ring-table entry (R24, R245). -/
def ringWord (q : Nat × Nat × Nat × Nat) : Word :=
  BitVec.ofNat 64 (q.2.1 * 2 ^ 48 + q.2.2.1 / 256 * 2 ^ 32 + q.2.2.2 / 256)

/-- Configures a launch's rings in every floe of its rectangle (R24). -/
def configRings (s : State) (l : Launch) : State :=
  l.floes.foldl (fun s f => l.rings.foldl (fun s q =>
    noteMasks (s.onFloe f fun x => x.setRing q.1 (Ring.config (ringWord q))) f l.lid 0 (2 ^ q.1)) s) s

/-- A thread that begins in a slot: its `pts` is at least the slot's and the mark that it is given (R84, R92). -/
def Thread.begin (s : State) (t : Thread) (mark : Nat) : Thread :=
  let c := s.clock t.core t.slot
  { t with pts := max c.1 mark, ptsFrac := c.2 }

/-- The launch's thread of one core (R34, R92), in the core's lowest free slot (DESIGN CHOICE, log 110). -/
def startThread (s : State) (l : Launch) (core : Nat) : State :=
  let slot := (freeSlots s core).headD 0
  let t := (l.thread core slot s.lp.nextTid).begin s l.mark
  let t := { t with
    pc := BitVec.ofNat 64 (l.code + l.entry), x := startRegs l.args 0, key := BitVec.ofNat 16 (l.logical core) }
  addThread { s with lp := { s.lp with nextTid := s.lp.nextTid + 1 } } t

/-- LAUNCH_START (R33, R34) of a launch. -/
def execLaunchStart (s : State) : Host.Outcome State Fault Refusal :=
  done (match s.launch s.input.lid with
    | none => s
    | some l =>
      if startsNow s l then
        let s := configRings s l
        let s := l.cores.foldl (fun s c => startThread s l c) s
        let n := s.lp.started + 1
        ({ s with lp := { s.lp with started := n } }).onLaunch l.lid fun l => { l with state := .running, started := n }
      else s)

/-! ### Completing a launch -/

/-- Whether a pool holds a record of a launch. -/
def pooled (s : State) (lid : Nat) : Bool :=
  (s.floes.any fun f => f.2.pool.any fun r => r.lid = lid) || s.sync.dies.toList.any fun d => d.pool.any fun r => r.lid = lid

/-- Whether a launch has on-die engine work that has not finished (R35). -/
def engineWork (s : State) (lid : Nat) : Bool :=
  s.floes.any fun f => (f.2.tasks.any fun t => t.by_.lid = lid) || f.2.copies.any fun c => c.by_.lid = lid

/-- The bytes of a launch's completion record (R330): the parked records that are discarded are counted. -/
def launchRecord (s : State) (l : Launch) : List Byte :=
  leBytes 8 l.compVal.toNat ++ leBytes 4 (l.lost + (s.sync.parked.filter fun p => p.cont.lid = l.lid).length) ++ leBytes 4 (l.cause % 256)

/-- A launch leaves the table (R35, R392): its parked records go, and its packet completes. -/
def leaveTable (s : State) (l : Launch) : State :=
  let s := { s with
    sync := { s.sync with parked := s.sync.parked.filter fun p => p.cont.lid ≠ l.lid }
    floes := s.floes.map fun f => (f.1, { f.2 with masks := f.2.masks.filter fun m => m.1 ≠ l.lid })
    lp := { s.lp with launches := s.lp.launches.filter fun k => k.lid ≠ l.lid, mark := max s.lp.mark l.pts } }
  completePacket s l.ring l.pkt

/-- The end of a launch (R330, R392): its completion record is written, or suppressed by a fault, and it leaves the table; while the
record's page is in transition it waits. -/
def finishLaunch (s : State) (l : Launch) : State :=
  if l.comp = 0 then leaveTable s l
  else
    match record s 2048 l.tenant l.pts l.comp (launchRecord s l) with
    | .done s' _ => leaveTable s' l
    | .fault => leaveTable s l
    | .wait => s

/-! ### Taking up and moving records -/

/-- Takes a record out of its pool: its mark comes with it (R92). -/
def takeRec (s : State) (core : Nat) (e : Option Nat × Rec) : Nat × State :=
  match e.1 with
  | none =>
    let f := floeOfCore core
    ((s.floe f).mark, s.onFloe f fun x => { x with pool := x.pool.erase e.2 })
  | some d => ((s.die d).poolMark, s.onDie d fun x => { x with pool := x.pool.erase e.2 })

/-- The thread that takes up a record (R50). -/
def Launch.resume (l : Launch) (r : Rec) (core slot : Nat) : Thread :=
  { l.thread core slot r.tid with
    pc := r.pc, key := r.key, draw := r.draw, gborn := r.gborn
    x := startRegs [r.x10, r.x11, r.x12, r.x13, r.x14] (BitVec.ofNat 64 r.reason) }

/-- Whether a core's free slots are all held for due launches of higher priority than every record that they could take up
(R391). -/
def slotHeld (s : State) (core : Nat) : Bool :=
  (freeSlots s core).length ≤
    (s.lp.launches.filter fun d => due s d && d.holds core && (eligibleRecs s core).all fun e => e.2.prio < d.prio).length

/-- RECORD_TAKE_UP (R49, R50, R391) of a slot. -/
def execRecordTakeUp (s : State) : Host.Outcome State Fault Refusal :=
  let c := s.input.loc.core
  let k := s.input.loc.slot
  done (if !(freeSlots s c).contains k || slotHeld s c || (s.island (islandOfFloe (floeOfCore c))).gated then s
    else
      match chooseRec s c with
      | none => s
      | some e =>
        match s.launch e.2.lid with
        | none => s
        | some l =>
          let (mark, s) := takeRec s c e
          let t := (l.resume e.2 c k).begin s mark
          traceFor (addThread s t) c k 4 t.corr.toNat t.pc.toNat 0)

/-- FLOE_POOL_MIGRATION (R48, R92) of a floe: the record at the head of its pool has waited 4,096 cycles. -/
def execFloePoolMigration (s : State) : Host.Outcome State Fault Refusal :=
  let f := s.input.floe
  let d := f / 64
  done (match (s.floe f).pool with
    | [] => s
    | r :: t =>
      if s.host.cycle < r.since + 4096 || dieCap (s.die d) ≤ (s.die d).pool.length then s
      else dieEnqueue (s.onFloe f fun x => { x with pool := t }) d r (s.floe f).mark)

end Sys2Proof.Machine
end

