-- ==== Sys2Proof/Machine/VMemory.lean ====
section
/-! DEFINITION. Vector loads and stores (R212 to R215). -/

namespace Sys2Proof.Machine

set_option linter.unusedVariables false

/-- The addresses of the active elements (R207, R212), with their indices, in ascending order. -/
def activeEas (s : State) (w mask : Nat) (f : Nat → Word) : List (Nat × Nat) :=
  ((List.range (s.th.n w)).filter fun i => active mask (lane w i)).map fun i => (i, (f i).toNat)

/-- An element that meets a condition, the one of lowest index first. -/
def firstBad (l : List (Nat × Nat)) (p : Nat → Bool) : Option (Nat × Nat) := l.find? fun e => p e.2

/-- Whether an address fails the checks of R57 to R61, and whether it lies in a window of R62. -/
def badAddr (s : State) (n : Need) (size a : Nat) : Bool :=
  match region a with
  | .virt => false
  | _ =>
    match resolve s s.th.core s.tenant n a size with
    | .trap .prot _ => true
    | _ => false

def inObjWindow (a : Nat) : Bool :=
  match region a with
  | .sync _ _ | .event _ _ => a < 2 ^ 57
  | _ => false

/-- The page of an element that is still to be walked, expanded or waited for. -/
def pageWait (s : State) (n : Need) (size a : Nat) : Option Wait :=
  match resolve s s.th.core s.tenant n a size with
  | .wait w => some w
  | _ => none

/-- The right that an element lacks: the `xval` does not apply to elements (R213). -/
def noRight (s : State) (n : Need) (size a : Nat) : Bool :=
  match resolve s s.th.core s.tenant n a size with
  | .trap _ _ => true
  | _ => false

/-- A wait on behalf of an element (R213, R347). -/
def Wait.forElem (w : Wait) (i : Nat) : Wait :=
  match w with
  | .walk va _ => .walk va (some i)
  | .expand va _ => .expand va (some i)
  | w => w

/-- The checks of every active element in the order of R170 (R213): the lowest index that fails is reported; then the
accesses `k`. -/
def vchecks (s : State) (n : Need) (size : Nat) (l : List (Nat × Nat)) (k : State) : State :=
  match firstBad l fun a => a % size ≠ 0 with
  | some (i, a) => trap s .misalign a i
  | none =>
    match firstBad l fun a => 2 ^ 57 ≤ a || badAddr s n size a with
    | some (i, a) => trap s .prot a i
    | none =>
      match firstBad l inObjWindow with
      | some (i, a) => trap s .syncwin a i
      | none =>
        match firstBad l fun a => (pageWait s n size a).isSome with
        | some (i, a) =>
          match pageWait s n size a with
          | some w => stallOn s (w.forElem i)
          | none => k
        | none =>
          match firstBad l (noRight s n size) with
          | some (i, a) => trap s .prot a i
          | none =>
            match firstBad l fun a => n = .rd &&
                (match resolve s s.th.core s.tenant n a size with
                  | .ok key cls => badRead s a key size cls
                  | _ => false) with
            | some (i, a) => trap s .poison a i
            | none => watched s (l.map (·.2)) (n = .wr) k

/-- The element accesses that a vector load or store makes, in ascending order (R214). -/
def velems (s : State) (n : Need) (size : Nat) (l : List (Nat × Nat)) (val : Nat → Nat) : List VElem :=
  l.filterMap fun e =>
    match resolve s s.th.core s.tenant n e.2 size with
    | .ok key cls => some ⟨e.1, e.2, if cls = .bank then key else s.mem.physKey key, cls, val e.1⟩
    | _ => none

/-- The storage key of an element: its sector may have entered or left L2 since the checks. -/
def VElem.place (s : State) (e : VElem) : Nat := if e.cls = .bank then e.key else s.mem.homeKey e.a e.key

/-- At most `n` element accesses of a load, in ascending order, each its own access (R214): the state, the values by index, and
the elements that remain. -/
def vloads (s : State) (size : Nat) (h : Hint) : Nat → List VElem → List (Nat × Nat) → State × List (Nat × Nat) × List VElem
  | 0, l, acc => (s, acc, l)
  | _ + 1, [], acc => (s, acc, [])
  | n + 1, e :: t, acc =>
    let r := loadAt s e.a (e.place s) size e.cls h false
    vloads r.2 size h n t ((e.idx, r.1) :: acc)

/-- At most `n` element accesses of a store, in ascending order (R214). -/
def vstores (s : State) (size : Nat) (h : Hint) : Nat → List VElem → State × List VElem
  | 0, l => (s, l)
  | _ + 1, [] => (s, [])
  | n + 1, e :: t => vstores (storeAt s e.a (e.place s) size e.val e.cls h) size h n t

/-- How many of the elements that remain are accessed in this step: all, or the most that the step allows. -/
def State.share (s : State) (l : List VElem) : Nat := if s.limit = 0 then l.length else s.limit

/-- A vector access stops with elements left: the slot goes on with it when it issues next (R214). -/
def interrupt (s : State) (p : VPart) : State := { s with th := { s.th with vpart := some p, wait := .retry } }

/-- A vector access has no element left. -/
def endPart (s : State) : State := { s with th := { s.th with vpart := none } }

/-- The elements of a load that remain, and its result once none does. -/
def vloadRun (s : State) (d : Reg) (vs : List Reg) (h : Hint) (w : Nat) (p : VPart) : State :=
  let r := vloads s (w / 8) h (s.share p.left) p.left p.got
  if r.2.2 ≠ [] then interrupt r.1 { p with left := r.2.2, got := r.2.1 }
  else vret (endPart r.1) vs none d fun old => pack w (blend w (s.th.n w) p.mask old fun i => (look r.2.1 i).getD 0)

/-- A vector load with the address of each element (R212, R213). Poison that has come up since its first accesses traps (R367). -/
def vload (s : State) (d : Reg) (vs : List Reg) (xs : List Nat) (m : Mask) (h : Hint) (z : EW) (f : Nat → Word) : State :=
  let w := z.bits
  match s.th.vpart with
  | some p =>
    match p.left.find? fun e => badRead s e.a (e.place s) (w / 8) e.cls with
    | some e => trap s .poison e.a e.idx
    | none => vloadRun s d vs h w p
  | none =>
    let l := activeEas s w (s.maskOf m) f
    vop s false vs (some d) xs m
      (vchecks s .rd (w / 8) l (vloadRun s d vs h w ⟨velems s .rd (w / 8) l fun _ => 0, [], s.maskOf m⟩))

/-- The elements of a store that remain, and its completion once none does. -/
def vstoreRun (s : State) (src : Reg) (vs : List Reg) (h : Hint) (w : Nat) (p : VPart) : State :=
  let r := vstores s (w / 8) h (s.share p.left) p.left
  if r.2 ≠ [] then interrupt r.1 { p with left := r.2 }
  else retire (consumeAll (endPart r.1) (src :: vs))

/-- A vector store with the address of each element (R212, R213). -/
def vstore (s : State) (src : Reg) (vs : List Reg) (xs : List Nat) (m : Mask) (h : Hint) (z : EW) (f : Nat → Word) : State :=
  let w := z.bits
  match s.th.vpart with
  | some p => vstoreRun s src vs h w p
  | none =>
    let l := activeEas s w (s.maskOf m) f
    let v := s.vsrc 2 src
    vop s false (src :: vs) none xs m
      (vchecks s .wr (w / 8) l
        (vstoreRun s src vs h w ⟨velems s .wr (w / 8) l fun i => elem v w i, [], s.maskOf m⟩))

/-- The element addresses of the three modes (R212). -/
def eaUnit (base : Word) (w i : Nat) : Word := base + BitVec.ofNat 64 (i * (w / 8))
def eaStride (base stride : Word) (i : Nat) : Word := base + stride * BitVec.ofNat 64 i
def eaIndex (base : Word) (v : BitVec 2048) (w i : Nat) : Word := base + sxN (elem v w i) w

/-- `vld` (R212). -/
def execVld (d a : Reg) (m : Mask) (h : Hint) (z : EW) (s : State) : Host.Outcome State Fault Refusal :=
  let x := s.opX 0 a
  done (vload s d [] [xr a] m h z (eaUnit x z.bits))

/-- `vlds` (R212). -/
def execVlds (d a b : Reg) (m : Mask) (h : Hint) (z : EW) (s : State) : Host.Outcome State Fault Refusal :=
  let x := s.opX 0 a
  let y := s.opX 1 b
  done (vload s d [] [xr a, xr b] m h z (eaStride x y))

/-- `vldx` (R212). -/
def execVldx (d a b : Reg) (m : Mask) (h : Hint) (z : EW) (s : State) : Host.Outcome State Fault Refusal :=
  let x := s.opX 0 a
  let v := s.vsrc 1 b
  done (vload s d [b] [xr a] m h z (eaIndex x v z.bits))

/-- `vst` (R212). -/
def execVst (x a : Reg) (m : Mask) (h : Hint) (z : EW) (s : State) : Host.Outcome State Fault Refusal :=
  let b := s.opX 0 a
  done (vstore s x [] [xr a] m h z (eaUnit b z.bits))

/-- `vsts` (R212). -/
def execVsts (x a b : Reg) (m : Mask) (h : Hint) (z : EW) (s : State) : Host.Outcome State Fault Refusal :=
  let p := s.opX 0 a
  let y := s.opX 1 b
  done (vstore s x [] [xr a, xr b] m h z (eaStride p y))

/-- `vstx` (R212). -/
def execVstx (x a b : Reg) (m : Mask) (h : Hint) (z : EW) (s : State) : Host.Outcome State Fault Refusal :=
  let p := s.opX 0 a
  let v := s.vsrc 1 b
  done (vstore s x [b] [xr a] m h z (eaIndex p v z.bits))

/-! ### Lane slices -/

/-- A lane-slice form's checks (R215). -/
def laneChecks (s : State) (o : Nat) (k : State) : State :=
  if o % 4 ≠ 0 then trap s .misalign o 0 else if 508 < o then trap s .prot o 0 else k

/-- The lanes whose element is active; a 64-bit element uses lanes 2j and 2j + 1 by its governing lane. -/
def activeLanes (s : State) (w mask : Nat) : List Nat :=
  (List.range s.th.vl).filter fun L => active mask (if w = 64 then L / 2 * 2 else L)

/-- `vldl` (R215): each active lane reads its own slice; a poisoned granule traps and writes no lane (R367). -/
def execVldl (d a : Reg) (m : Mask) (h : Hint) (z : EW) (s : State) : Host.Outcome State Fault Refusal :=
  let o := (s.opX 0 a).toNat
  let ls := activeLanes s z.bits (s.maskOf m)
  done (vop s false [] (some d) [xr a] m (laneChecks s o
    (if ls.any fun L => s.th.bad.contains (512 * L + o / 8 * 8) then trap s .poison o 1
     else vret s [] none d fun old => pack 32 ((List.range s.th.vl).map fun L =>
       if ls.contains L then s.th.slice.read (512 * L + o) 4 else elem old 32 L))))

/-- `vstl` (R215): a store of half a granule leaves its poison (R367). -/
def execVstl (x a : Reg) (m : Mask) (h : Hint) (z : EW) (s : State) : Host.Outcome State Fault Refusal :=
  let o := (s.opX 0 a).toNat
  let v := s.vsrc 2 x
  let ls := activeLanes s z.bits (s.maskOf m)
  done (vop s false [x] none [xr a] m (laneChecks s o
    (let t := { s.th with slice := ls.foldl (fun (b : Memory) L => Memory.write b (512 * L + o) 4 (elem v 32 L)) s.th.slice }
     retire (consumeAll { s with th := t } [x]))))

end Sys2Proof.Machine
end

