-- ==== Sys2Proof/Machine/VPorts.lean ====
section
/-! DEFINITION. Claiming lanes (R210, R211) and stream ports (R216 to R220). -/

namespace Sys2Proof.Machine

set_option linter.unusedVariables false

/-- Granules held in a floe (R210). -/
def granulesHeld (s : State) (f : Nat) : Nat :=
  (s.threads.filter fun t => floeOfCore t.core = f).foldl (fun n t => n + t.gran) 0

/-- Granules free in a floe's pool of 16. -/
def granulesFree (s : State) (f : Nat) : Nat := 16 - granulesHeld s f

/-- Changes a claim (R210): released granules lose their contents, and new ones read zero. -/
def Thread.claim (t : Thread) (g : Nat) : Thread :=
  let keep := min g t.gran
  { t with
    gran := g
    v := t.v.map fun x => (x.setWidth (1024 * keep)).setWidth 2048
    slice := t.slice.filter fun c => c.1 < 0x4000 * keep
    bad := t.bad.filter fun o => o < 0x4000 * keep }

/-- Sets the claim to `g` granules: when it changes, every binding ends first (R73, R210). -/
def setClaim (s : State) (g : Nat) (k : State → State) : State :=
  if g = s.th.gran then k s
  else
    match portsEnd s s.th with
    | none => poll s
    | some (s, t) => k { s with th := t.claim g }

/-- `vclaim` (R210). -/
def execVclaim (d a : Reg) (s : State) : Host.Outcome State Fault Refusal :=
  let r := min (s.opX 0 a).toNat 2
  let g := min r (s.th.gran + granulesFree s (floeOfCore s.th.core))
  done (attempt s false [xr a] false (setClaim s g fun s => retX s d (BitVec.ofNat 64 g)))

/-- `vfree` (R211). -/
def execVfree (s : State) : Host.Outcome State Fault Refusal := done (setClaim s 0 retire)

/-- Binds a port to a descriptor's fields (R216, R217). -/
def bindPort (s : State) (n : Nat) (write : Bool) (desc v : Nat) : State :=
  match portEnd s s.th n with
  | none => poll s
  | some (s, t) =>
    let p : Port := ⟨desc, write, BitVec.ofNat 64 v, BitVec.ofNat 64 (v / 2 ^ 64), bits v 128 32, bits v 160 2, 0, 0, false,
      false, [], [], none, t.pts⟩
    retire { s with th := { t.forget (56 + n) with ports := put t.ports n p } }

/-- The pushes of the current thread's port are performed, and a failure among them traps (R219), before the port is unbound
or bound again (R217, R220). -/
def flushed (s : State) (n : Nat) (k : State → State) : State :=
  failGate s n
    (match portFlush s s.th n with
     | none => poll s
     | some (s', t) => failGate { s' with th := t } n (k { s' with th := t }))

/-- `vsbind` (R217): the old binding's pushes reach memory, the descriptor is read as a load, and then the old binding ends and
the new one begins. -/
def bindForm (s : State) (n : Fin 8) (a : Reg) (write : Bool) : State :=
  let e := (s.opX 0 a).toNat
  attempt s false [xr a] true
    (flushed s n.val fun s =>
      access s .rd e 32 fun key cls =>
        let r := loadAt s e key 32 cls .hd false
        let v := r.1
        if bits v 0 2 ≠ 0 then trap s .misalign (bits v 0 64) 0
        else if bits v 64 2 ≠ 0 then trap s .misalign (bits v 64 64) 0
        else if bits v 162 30 ≠ 0 then trap s .prot e 0
        else bindPort r.2 n.val write e v)

/-- `vsbind.rd` (R217). -/
def execVsbindRd (n : Fin 8) (a : Reg) (s : State) : Host.Outcome State Fault Refusal := done (bindForm s n a false)

/-- `vsbind.wr` (R217). -/
def execVsbindWr (n : Fin 8) (a : Reg) (s : State) : Host.Outcome State Fault Refusal := done (bindForm s n a true)

/-- `vsunbind` (R217, R220). -/
def execVsunbind (n : Fin 8) (s : State) : Host.Outcome State Fault Refusal :=
  done (flushed s n.val fun s =>
    match portEnd s s.th n.val with
    | none => poll s
    | some (s, t) => retire { s with th := t })

/-- Updates one port of the thread in a slot. -/
def onPort (s : State) (f : State → Thread → Port → Option (State × Port)) : State :=
  match s.atLoc s.input.loc with
  | none => s
  | some t =>
    match look t.ports s.input.port with
    | none => s
    | some p =>
      match f s t p with
      | none => s
      | some (s', p') => s'.onTid t.tid fun t => { t with ports := put t.ports s.input.port p' }

/-- STREAM_FETCH (R218): at most 8 vectors ahead, and none after a failed one. -/
def execStreamFetch (s : State) : Host.Outcome State Fault Refusal :=
  done (onPort s fun s t p =>
    if !p.write && p.ahead.length < 8 && p.done + p.ahead.length < p.count && !(p.ahead.any fun f => f.fail.isSome)
    then portFetch (settleHint s (p.addr (p.done + p.ahead.length)) t.vbytes (hintOf p.hint)) t p
    else none)

/-- STREAM_PUSH_WRITE (R218). -/
def execStreamPushWrite (s : State) : Host.Outcome State Fault Refusal :=
  done (onPort s fun s t p =>
    let a := p.addr p.done
    if p.write then portPush (noteRange (settleHint s a t.vbytes (hintOf p.hint)) t.lid a t.vbytes) t p else none)

end Sys2Proof.Machine
end

