-- ==== Sys2Proof/Machine/Preempt.lean ====
section
/-! DEFINITION. Pre-emption (R52 to R56, R258, R287, R357, R358): stopping a launch, its save area, its restore, the end of a
launch whose save area fails, and the whole-memory checkpoint (R335). -/

namespace Sys2Proof.Machine

set_option linter.unusedVariables false

/-! ### Choosing a launch to pre-empt -/

/-- The threads of a core that no pre-emption is taking out already. -/
def stayers (s : State) (core : Nat) : List Thread :=
  s.threads.filter fun t => t.core = core && !(s.launch t.lid).any fun l => l.state = .stopping

/-- Whether a due launch may pre-empt another (R52). -/
def outweighs (d v : Launch) : Bool := v.state = .running && v.tenant = d.tenant && v.prio < d.prio

/-- The cores of a due launch that have no free slot. -/
def fullCores (s : State) (d : Launch) : List Nat := d.cores.filter fun c => 4 ≤ (stayers s c).length

/-- Whether a launch holds a slot on one of a list of cores. -/
def holdsSlot (s : State) (v : Launch) (cs : List Nat) : Bool :=
  s.threads.any fun t => t.lid = v.lid && cs.contains t.core

/-- The launch that is taken next of a list (R52): the lowest priority, and within it the most recently started. -/
def lowestOf : List Launch → Option Launch
  | [] => none
  | l :: t =>
    match lowestOf t with
    | none => some l
    | some k => if l.prio < k.prio || (l.prio = k.prio && k.started < l.started) then some l else some k

/-- The launch that a due launch pre-empts next, of those that hold slots on its full cores (R52). -/
def victim (s : State) (d : Launch) : Option Launch :=
  if due s d then lowestOf (s.lp.launches.filter fun v => outweighs d v && holdsSlot s v (fullCores s d)) else none

/-- Whether a core with a slot of the launch is halted by its debug module (R337, R357). -/
def heldByDebug (s : State) (l : Launch) : Bool :=
  s.threads.any fun t => t.lid = l.lid && (s.dbg t.core).halted

/-- Whether a wait leaves its instruction to be executed again (R258, R351, R354). -/
def Wait.incomplete : Wait → Bool
  | .walk _ _ | .expand _ _ | .trans _ | .retry | .poll | .storage => true
  | _ => false

/-- The instruction of the word that a thread executes. -/
def Thread.instr (t : Thread) : Option Instr := (decode t.enc t.ir.toNat).map (·.instr)

/-- Whether an instruction that a slot has begun completes before the slot stops (R287). -/
def completesFirst : Option Instr → Bool
  | some (.grpSet _ _ _) | some (.aucPset _ _ _) | some (.aucPget _ _ _) | some (.aucPclr _ _) => true
  | _ => false

/-- Whether a slot has not come to an instruction boundary yet (R53): the accesses of a vector instruction have begun, its thread is
dying, or its instruction completes before the slot stops (R287). -/
def mustFinish (t : Thread) : Bool :=
  t.vpart.isSome ||
    match t.wait with
    | .dying _ => true
    | w => w.incomplete && completesFirst t.instr

/-- A slot of a pre-empted launch stops (R53, R142, R258, R357): a mutex request is withdrawn, and the result of a pending walk is
discarded. -/
def Thread.stop (t : Thread) : Thread :=
  if mustFinish t then t
  else
    let t := t.land
    match t.wait with
    | .mtx _ _ _ => { t with wait := .poll }
    | .walk _ _ | .expand _ _ | .trans _ => { t with wait := .retry }
    | _ => t

/-- Updates the threads in slots of a launch. -/
def onThreadsOf (s : State) (lid : Nat) (f : Thread → Thread) : State :=
  let g (t : Thread) : Thread := if t.live && t.lid = lid then f t else t
  { s with th := g s.th, slots := s.slots.map g }

/-- PREEMPTION (R52, R53, R335) of a launch. -/
def execPreemption (s : State) : Host.Outcome State Fault Refusal :=
  done (match s.launch s.input.lid with
    | none => s
    | some l =>
      let wanted := s.lp.launches.any fun d => (victim s d).any fun v => v.lid = l.lid
      if l.state = .running && (wanted || s.lp.stopped) && !heldByDebug s l then
        (onThreadsOf s l.lid Thread.stop).onLaunch l.lid fun l => { l with state := .stopping }
      else s)

/-! ### The save area -/

/-- A place in a slot's entry: its offset, what is saved there, how it is reloaded, and the offsets of its poisoned 8-byte granules
(R367). -/
structure Saved where
  off  : Nat
  data : List Byte
  load : List Byte → Thread → Thread
  bad  : List Nat := []

/-- A place that holds a number. -/
def Saved.num (off n v : Nat) (f : Thread → Nat → Thread) : Saved := { off := off, data := leBytes n v, load := fun bs t => f t (leNat bs) }

/-- Bytes that are reserved, and written as 0. -/
def Saved.zero (off n : Nat) : Saved := { off := off, data := List.replicate n 0, load := fun _ t => t }

/-- The per-slot CSRs in ascending number (R202). -/
def slotCsrs : List Nat :=
  [0x010, 0x011, 0x014, 0x020, 0x021, 0x022, 0x023, 0x024, 0x030, 0x031, 0x040, 0x100, 0x101, 0x102, 0x103, 0x104, 0x105, 0x106]

/-- A per-slot CSR's value. -/
def slotCsr (l : Launch) (t : Thread) (c : Nat) : Nat :=
  match c with
  | 0x010 => lcoreOf t l
  | 0x011 => lrectOf l
  | c => (t.csr c).getD 0

/-- The reload of a per-slot CSR; the stream key comes back with the draw counter, and `xstat` with its handler bit. -/
def reloadCsr (c : Nat) (t : Thread) (v : Nat) : Thread :=
  if c = 0x023 then { t with key := BitVec.ofNat 16 (v / 2 ^ 48), draw := BitVec.ofNat 48 v }
  else if c = 0x105 then { t.csrSet c (BitVec.ofNat 64 v) with inh := bits v 3 1 = 1 }
  else t.csrSet c (BitVec.ofNat 64 v)

/-- The wait target (R53): its kind, the object or line address and the target phase. -/
def waitTarget : Wait → List Byte
  | .bar h p _ _ => leBytes 8 1 ++ leBytes 8 h ++ leBytes 8 p
  | .line h _ => leBytes 8 2 ++ leBytes 8 h ++ leBytes 8 0
  | .gbar p _ _ => leBytes 8 3 ++ leBytes 8 0 ++ leBytes 8 p
  | .take _ _ => leBytes 24 4
  | _ => leBytes 24 0

/-- The wait target reloaded, unless the wait has ended while the launch was out. -/
def reloadTarget (bs : List Byte) (t : Thread) : Thread :=
  match t.wait with
  | .bar _ _ rd q => { t with wait := .bar (pf bs 8 8) (pf bs 16 8) rd q }
  | .line _ q => { t with wait := .line (pf bs 8 8) q }
  | .gbar _ rd q => { t with wait := .gbar (pf bs 16 8) rd q }
  | _ => t

/-- The live repetition (R181), saved behind the wait target: a flag and the body's length, its start, the iterations left and
those completed, and the completed iterations of the repetition that a trap has interrupted (R338). DESIGN CHOICE (log 70): the
spec gives these no places of their own. -/
def repImage (t : Thread) : List Byte :=
  (match t.rep with
    | some r => leBytes 8 (r.len + 2 ^ 63) ++ leBytes 8 r.start.toNat ++ leBytes 8 r.left.toNat ++ leBytes 8 r.iter
    | none => leBytes 32 0) ++ leBytes 8 t.xriter ++ leBytes 40 0

/-- The live repetition reloaded. -/
def reloadRep (bs : List Byte) (t : Thread) : Thread :=
  { t with
    rep := if bits (pf bs 0 8) 63 1 = 1 then
        some ⟨BitVec.ofNat 64 (pf bs 8 8), bits (pf bs 0 8) 0 63, BitVec.ofNat 64 (pf bs 16 8), pf bs 24 8⟩
      else none
    xriter := pf bs 32 8 }

/-- A failure record's 16 bytes (R355); an unused record is 0. -/
def failImage (l : List Fail) : List Byte :=
  ((l.flatMap fun (f : Fail) => leBytes 8 f.xval ++ leBytes 8 f.addr) ++ List.replicate 128 0).take 128

/-- The failure records reloaded: correlation number, status, count and address. -/
def reloadFails (bs : List Byte) (t : Thread) : Thread :=
  { t with fails := ((List.range t.fails.length).zip t.fails).map fun e =>
      let v := pf bs (16 * e.1) 8
      { e.2 with corr := bits v 0 32, status := bits v 32 8, folded := bits v 40 8, addr := pf bs (16 * e.1 + 8) 8 } }

/-- A stream port's 32 bytes (R54). -/
def portImage (p : Port) : List Byte :=
  leBytes 8 p.desc ++ leBytes 8 (1 + p.write.toNat * 2) ++ leBytes 8 (if p.write then p.pushed else p.done) ++
    leBytes 8 (p.ovf.toNat + p.flt.toNat * 2)

/-- A stream port reloaded. -/
def Port.reload (p : Port) (bs : List Byte) : Port :=
  let n := pf bs 16 8
  { p with
    desc := pf bs 0 8, write := bits (pf bs 8 8) 1 1 = 1, ovf := bits (pf bs 24 8) 0 1 = 1, flt := bits (pf bs 24 8) 1 1 = 1
    done := if p.write then p.done else n, pushed := if p.write then n else p.pushed }

/-- Granule g of a vector register. -/
def granuleOf (t : Thread) (g r : Nat) : Nat := bits (t.getV (Fin.ofNat 32 r)).toNat (1024 * g) 1024

/-- A vector register with a granule replaced. -/
def setGranule (t : Thread) (g r v : Nat) : Thread :=
  let d : Reg := Fin.ofNat 32 r
  let old := (t.getV d).toNat
  t.setV d (BitVec.ofNat 2048 (old - bits old (1024 * g) 1024 * 2 ^ (1024 * g) + v * 2 ^ (1024 * g)))

/-- The registers and CSRs of a slot's entry (R54). -/
def scalarPart (s : State) (l : Launch) (t : Thread) : List Saved :=
  Saved.num 0 8 t.pc.toNat (fun t v => { t with pc := BitVec.ofNat 64 v }) ::
    ((List.range 31).map fun i =>
      let r : Reg := Fin.ofNat 32 (i + 1)
      Saved.num (8 * (i + 1)) 8 (t.getX r).toNat fun t v => t.setX r (BitVec.ofNat 64 v)) ++
    ((List.range 18).map fun i =>
      let c := slotCsrs.getD i 0
      Saved.num (256 + 8 * i) 8 (slotCsr l t c) (reloadCsr c)) ++
    [Saved.num 400 8 t.pts fun t v => { t with pts := v }, { off := 408, data := waitTarget t.wait, load := reloadTarget },
     { off := 432, data := repImage t, load := reloadRep }]

/-- The failure records, engine registers and ports of a slot's entry (R54). -/
def enginePart (s : State) (t : Thread) : List Saved :=
  [{ off := 512, data := failImage t.fails, load := reloadFails },
   Saved.num 640 8 t.mxshape.toNat fun t v => { t with mxshape := BitVec.ofNat 64 v },
   Saved.num 648 8 t.mxdstr.toNat fun t v => { t with mxdstr := BitVec.ofNat 64 v }] ++
    ((List.range 7).map fun i =>
      Saved.num (656 + 8 * i) 8 (t.cp[Fin.ofNat 7 i]).toNat fun t v => { t with cp := t.cp.set (Fin.ofNat 7 i) (BitVec.ofNat 64 v) }) ++
    [Saved.num 712 8 (cpStat s t) fun t v => { t with
      cpCorr := BitVec.ofNat 32 (bits v 32 32), cpStale := bits v 4 1 = 1, cpStatus := bits v 0 4 }] ++
    (t.ports.map fun e =>
      { off := 720 + 32 * e.1, data := portImage e.2
        load := fun bs t => { t with ports := t.ports.map fun q => if q.1 = e.1 then (q.1, q.2.reload bs) else q } }) ++
    [Saved.zero 976 48]

/-- The claimed granules of a slot's entry (R54), poison and all (R367). -/
def granulePart (t : Thread) : List Saved :=
  (List.range t.gran).flatMap fun g =>
    ((List.range 32).map fun r => Saved.num (1024 + 4096 * g + 128 * r) 128 (granuleOf t g r) fun t v => setGranule t g r v) ++
      [{ off := 9216 + 16384 * g, data := Memory.bytes t.slice (16384 * g) 16384
         load := fun bs t => { t with slice := Memory.put t.slice (16384 * g) bs, bad := t.bad.filter fun o => o / 16384 ≠ g }
         bad := (t.bad.filter fun o => o / 16384 = g).map (· % 16384) }]

/-- The pinned words reloaded. -/
def reloadPin (bs : List Byte) (t : Thread) : Thread :=
  { t with pin := t.pin.map fun p =>
      { p with words := (List.range p.words.length).map fun i => BitVec.ofNat 32 (pf bs (4 * i) 4) } }

/-- The pin of a slot's entry (R54, R182). -/
def pinPart (t : Thread) : List Saved :=
  match t.pin with
  | none => []
  | some p => [{ off := 41984, data := leBytes 8 p.start.toNat ++ leBytes 4 p.words.length ++ leBytes 4 1
                 load := fun bs t => { t with pin := t.pin.map fun p => { p with start := BitVec.ofNat 64 (pf bs 0 8) } } },
      { off := 42000, data := p.words.flatMap fun w => leBytes 4 w.toNat, load := reloadPin }]

/-- A slot's entry (R54): unclaimed granules, unbound ports and an absent pin have no place in it; reserved bytes are 0. -/
def slotImage (s : State) (l : Launch) (t : Thread) : List Saved :=
  scalarPart s l t ++ enginePart s t ++ granulePart t ++ pinPart t ++ [Saved.zero 42512 23024]

/-- A saved tile task's 64 bytes (R54). -/
def taskImage (t : Task) (entry : Nat) : List Byte :=
  leBytes 32 t.desc.toNat ++ leBytes 8 t.shape.toNat ++ leBytes 8 t.stride.toNat ++ leBytes 8 t.by_.ti ++ leBytes 2 t.aTile ++
    leBytes 2 t.bTile ++ leBytes 2 entry ++ leBytes 2 0

/-- A saved copy command's 128 bytes (R54). -/
def copyImage (c : CopyCmd) (entry : Nat) : List Byte :=
  c.regs.toList.flatMap (fun r => leBytes 8 r.toNat) ++ leBytes 8 c.src.toNat ++ leBytes 8 c.dst.toNat ++ leBytes 8 c.by_.ti ++
    leBytes 8 c.prog ++ leBytes 2 (c.inc % 4096) ++ leBytes 2 entry ++ leBytes 36 0

/-- A tile task reloaded, never started, that has taken note of no tile. -/
def Task.reload (t : Task) (bs : List Byte) : Task :=
  { t with
    desc := BitVec.ofNat 256 (pf bs 0 32), shape := BitVec.ofNat 64 (pf bs 32 8), stride := BitVec.ofNat 64 (pf bs 40 8)
    by_ := { t.by_ with ti := pf bs 48 8 }, aTile := pf bs 56 2, bTile := pf bs 58 2, run := .queued, tiles := [] }

/-- A copy command reloaded, to be started again. -/
def CopyCmd.reload (c : CopyCmd) (bs : List Byte) : CopyCmd :=
  { c with
    regs := Vector.ofFn fun i => BitVec.ofNat 64 (pf bs (8 * i.val) 8), src := BitVec.ofNat 64 (pf bs 56 8)
    dst := BitVec.ofNat 64 (pf bs 64 8), by_ := { c.by_ with ti := pf bs 72 8 }, prog := pf bs 80 8
    inc := pf bs 88 2 % 4096, run := false, status := none }

/-- A ring's 16 bytes (R245), and the ring reloaded. -/
def ringImage (r : Ring) : List Byte := leBytes 8 r.word.toNat ++ leBytes 8 r.stateHi

def Ring.reload (r : Ring) (bs : List Byte) : Ring :=
  let h := pf bs 8 8
  { r with
    word := BitVec.ofNat 64 (pf bs 0 8), cfgd := bits h 63 1 = 1, claim := bits h 32 16, tail := bits h 16 16, head := bits h 0 16 }

/-- The tile and ring masks of a launch on a floe (R244). -/
def masksOf (s : State) (f lid : Nat) : Nat × Nat :=
  match (s.floe f).masks.find? fun m => m.1 = lid with
  | some m => m.2
  | none => (0, 0)

/-- The tasks and copies of a launch on a floe. -/
def tasksOf (s : State) (f lid : Nat) : List Task := (s.floe f).tasks.filter fun t => t.by_.lid = lid
def cmdsOf (s : State) (f lid : Nat) : List CopyCmd := (s.floe f).copies.filter fun c => c.by_.lid = lid

/-- The offset of floe entry `i`, and of a slot-part entry, in a save area (R54). -/
def Launch.floeOff (l : Launch) (i : Nat) : Nat := l.save + 278528 * i
def Launch.slotOff (l : Launch) (e : Nat) : Nat := l.save + 278528 * l.floes.length + 0x10000 * e

/-- The slot-part entry number of a thread's slot (R54). -/
def entryOf (s : State) (l : Launch) (t : Thread) : Nat :=
  l.logical t.core * l.slots + (s.threads.filter fun u => u.core = t.core && u.lid = l.lid && u.slot < t.slot).length

/-- The entry number of an issuer, 0xFFFF when its thread has gone. -/
def entryOfTid (s : State) (l : Launch) (tid : Nat) : Nat :=
  match s.findTid tid with
  | some t => entryOf s l t
  | none => 0xFFFF

/-- Bytes for a place of a save area, with the offsets of their poisoned 8-byte granules. -/
structure Place where
  a   : Nat
  bs  : List Byte
  bad : List Nat
  deriving DecidableEq, Repr

/-- The places of a floe's entry (R54), by their offsets in it; poison goes with the tiles (R367), and reserved bytes are 0. -/
def floeImage (s : State) (l : Launch) (f : Nat) : List Place :=
  let (tm, rm) := masksOf s f l.lid
  let ts := tasksOf s f l.lid
  let cs := cmdsOf s f l.lid
  (setBits tm 16).map (fun t =>
    let k := tileKey f t 0
    ⟨16384 * t, s.mem.bytes.bytes k 16384, (s.mem.poison.filter fun g => k ≤ g && g < k + 16384).map (· - k)⟩) ++
    (setBits rm 16).map (fun q => ⟨262144 + 16 * q, ringImage ((s.floe f).ring q), []⟩) ++
    ((List.range ts.length).zip ts).map (fun e => ⟨262400 + 64 * e.1, taskImage e.2 (entryOfTid s l e.2.by_.tid), []⟩) ++
    ((List.range cs.length).zip cs).map (fun e => ⟨266496 + 128 * e.1, copyImage e.2 (entryOfTid s l e.2.by_.tid), []⟩) ++
    [⟨270592, leBytes 8 (tm % 65536 + rm % 65536 * 2 ^ 16 + ts.length % 256 * 2 ^ 32 + cs.length % 256 * 2 ^ 40) ++
      List.replicate 7928 0, []⟩]

/-! ### Writing and reading it -/

/-- Joins places that lie end to end, so that each is written by one operation. -/
def joinPlaces : List Place → List Place
  | [] => []
  | p :: t =>
    match joinPlaces t with
    | [] => [p]
    | q :: r =>
      if p.a + p.bs.length = q.a then ⟨p.a, p.bs ++ q.bs, p.bad ++ q.bad.map (p.bs.length + ·)⟩ :: r else p :: q :: r

/-- How a series of engine operations on a save area ends (R358): the cause of the first that fails. -/
inductive SaveEnd (α : Type) where
  | ok (a : α)
  | bad (cause : Nat)
  | wait

/-- The poison of a place's bytes travels into the save area (R367). -/
def markPlace (s : State) (p : Place) : State :=
  p.bad.foldl (fun s o =>
    match xlate s 2048 (p.a + o) with
    | some k => s.onMem fun m => { m with poison := addPoison m.poison (k / 128 * 128) }
    | none => s) s

/-- Writes a list of places. A write meets poison where it covers a poisoned sector in part (R358; DESIGN CHOICE, log 115). -/
def putAll (tenant ti : Nat) : List Place → State → SaveEnd State
  | [], s => .ok s
  | p :: t, s =>
    let s := settle s p.a p.bs.length
    match spans s 2048 tenant .wr p.a p.bs.length with
    | .fault b => .bad (faultCause s 2048 tenant .wr b).code
    | .wait => .wait
    | .ok ds =>
      let s' := engineWrite s 2048 (engineTe s ti [] ds) ds p.bs
      if ds.any fun x => poisoned s' x.key x.n then .bad Cause.poison.code else putAll tenant ti t (markPlace s' p)

/-- Reads a list of places in order. -/
def getAll (s : State) (tenant : Nat) : List (Nat × Nat) → SaveEnd (List (List Byte))
  | [] => .ok []
  | (a, n) :: t =>
    let s := expandRange s a n
    match spans s 2048 tenant .rd a n with
    | .fault b => .bad (faultCause s 2048 tenant .rd b).code
    | .wait => .wait
    | .ok l =>
      match getAll s tenant t with
      | .ok r => .ok (engineRead s l :: r)
      | e => e

/-! ### The end of a launch whose save area fails -/

/-- The records of a launch, in pools and parked. -/
def recordsOf (s : State) (lid : Nat) : List Rec :=
  (s.floes.flatMap fun f => f.2.pool.filter fun r => r.lid = lid) ++
    (s.sync.dies.toList.flatMap fun d => d.pool.filter fun r => r.lid = lid) ++
    (s.sync.parked.filter fun p => p.cont.lid = lid).map (·.cont)

/-- A launch's records are discarded, and its parked ones counted (R358); their threads end (R370). -/
def dropRecords (s : State) (lid : Nat) : State :=
  let recs := recordsOf s lid
  let n := (s.sync.parked.filter fun p => p.cont.lid = lid).length
  let s := { s with
    floes := s.floes.map fun (f : Nat × Floe) => (f.1, { f.2 with pool := f.2.pool.filter fun r => r.lid ≠ lid })
    sync := { s.sync with
      dies := s.sync.dies.map fun (d : Die) => { d with pool := d.pool.filter fun r => r.lid ≠ lid }
      parked := s.sync.parked.filter fun p => p.cont.lid ≠ lid } }
  let s := s.onLaunch lid fun l => { l with lost := l.lost + n }
  recs.foldl (fun s r => threadGone s r.tid r.core lid 0) s

/-- A launch's queued tile tasks and copies are discarded, their completion objects broken (R358). -/
def dropWork (s : State) (lid : Nat) : State :=
  let saved := match s.launch lid with
    | some l => l.savedCopies.map (·.2)
    | none => []
  let cs := (s.floes.flatMap fun f => f.2.copies.filter fun c => c.by_.lid = lid) ++ saved
  let s := { s with floes := s.floes.map fun (f : Nat × Floe) => (f.1, { f.2 with
    tasks := f.2.tasks.filter fun t => t.by_.lid ≠ lid, copies := f.2.copies.filter fun c => c.by_.lid ≠ lid }) }
  let s := s.onLaunch lid fun l => { l with savedTasks := [], savedCopies := [] }
  cs.foldl (fun s c => if c.regs[5] = 0 then s else engineBreak s c.regs[5].toNat c.inc) s

/-- A saved thread is killed (R358): its bindings end, then it is gone. One whose bindings have to wait stays. -/
def killSaved (s : State) (t : Thread) : State :=
  match portsEnd s t with
  | none => s
  | some (s, u) =>
    threadGone (s.onLaunch t.lid fun l => { l with saved := l.saved.filter fun e => e.2.tid ≠ t.tid }) u.tid u.core u.lid u.pts

/-- A launch whose save area or log has failed ends (R358): its records and engine work are discarded, its threads are killed, and
when none is left its completion record is written. -/
def endLaunch (s : State) (lid : Nat) : State :=
  match s.launch lid with
  | none => s
  | some l =>
    let s := dropRecords s lid
    let s := (s.threads.filter fun t => t.lid = lid).foldl
      (fun s t => killThread s t (match t.wait with | .dying c => c | _ => .page)) s
    let s := l.saved.foldl (fun s e => killSaved s e.2) s
    let s := dropWork s lid
    match s.launch lid with
    | some l => if l.saved = [] && !(s.threads.any fun t => t.lid = lid) then finishLaunch s l else s
    | none => s

/-- A launch begins to end for a cause (R358), which its completion record gives. -/
def failLaunch (s : State) (lid cause : Nat) : State :=
  endLaunch (s.onLaunch lid fun l => { l with state := .ending, cause := cause }) lid

/-- LAUNCH_COMPLETE (R35, R358) of a launch. -/
def execLaunchComplete (s : State) : Host.Outcome State Fault Refusal :=
  done (match s.launch s.input.lid with
    | none => s
    | some l =>
      if l.state = .ending then endLaunch s l.lid
      else if l.state = .running && !(s.threads.any fun t => t.lid = l.lid) && !pooled s l.lid && !engineWork s l.lid then
        finishLaunch s l
      else s)

/-! ### Saving -/

/-- Whether a started task can go on: it has work it can do, or is done (R290, R292). -/
def taskGoes (x : Floe) (t : Task) : Bool :=
  match t.engine, t.view with
  | some (_, w), some v => v.need ≤ w || w < workCap x t v
  | _, _ => t.draining.isSome

/-- Whether a launch's tile tasks or copies can progress in a floe (R53). -/
def floeGoes (x : Floe) (lid : Nat) : Bool :=
  (x.tasks.any fun t => t.by_.lid = lid && taskGoes x t) ||
  (findTask x fun t => t.by_.lid = lid && (!t.mac || hopeless x t || tilesHere x t)).isSome ||
  ((x.copies.any fun c => c.by_.lid = lid) &&
    (match x.copies with
      | c :: _ =>
        let r := x.ring c.view.ring
        !(c.run && c.status.isNone && (r.tail + 65536 - r.head) % 65536 = r.cap)
      | [] => false))

/-- Performs the pushed vectors of every port of a thread (R54). -/
def drainPorts (s : State) (t : Thread) : Option (State × Thread) :=
  t.ports.foldl (fun acc e => acc.bind fun x =>
    (portDrain (e.2.queue.length + 1) x.1 x.2 e.2).map fun r => (r.1, { x.2 with ports := put x.2.ports e.1 { r.2 with ahead := [] } }))
    (some (s, t))

/-- Performs the pushed vectors of a list of threads. -/
def drainAll : List Thread → State → Option State
  | [], s => some s
  | t :: l, s =>
    match drainPorts s t with
    | some (s', t') => drainAll l (s'.putThread t')
    | none => none

/-- What a saved slot waits for (R258, R287, R357). -/
def Wait.saved : Wait → Wait
  | .walk _ _ | .expand _ _ | .trans _ | .retry | .storage | .waking _ _ _ => .none
  | .cnt _ _ _ _ | .mtx _ _ _ | .fab _ _ _ => .poll
  | w => w

/-- The launch's threads with their entry numbers, as they are saved. -/
def savedThreads (s : State) (l : Launch) : List (Nat × Thread) :=
  (s.threads.filter fun t => t.lid = l.lid).map fun t => (entryOf s l t, { t with wait := t.wait.saved })

/-- Every place of a launch's save area with its bytes (R54). -/
def saveImage (s : State) (l : Launch) : List Place :=
  joinPlaces ((((List.range l.floes.length).zip l.floes).flatMap fun e =>
      (floeImage s l e.2).map fun p => { p with a := l.floeOff e.1 + p.a }) ++
    (savedThreads s l).flatMap fun e => (slotImage s l e.2).map fun p => ⟨l.slotOff e.1 + p.off, p.data, p.bad⟩)

/-- The launch goes out (R53 steps 2 and 4): its work is taken out, its slots and granules are free. -/
def takeOut (s : State) (l : Launch) (saved : List (Nat × Thread)) : State :=
  let of {α : Type} (g : Nat → List α) : List (Nat × α) := l.floes.flatMap fun f => (g f).map fun x => (f, x)
  let s := s.onLaunch l.lid fun l => { l with
    state := .out
    saved := saved
    savedTasks := of fun f => tasksOf s f l.lid
    savedCopies := of fun f => cmdsOf s f l.lid
    savedRings := l.floes.flatMap fun f => (setBits (masksOf s f l.lid).2 16).map fun q => (f, q, (s.floe f).ring q)
    savedMasks := l.floes.map fun f => (f, masksOf s f l.lid) }
  let s := l.floes.foldl (fun s f => s.onFloe f fun x => { x with
    tasks := x.tasks.filter fun t => t.by_.lid ≠ l.lid
    copies := x.copies.filter fun c => c.by_.lid ≠ l.lid
    masks := x.masks.filter fun m => m.1 ≠ l.lid }) s
  let s := (s.threads.filter fun t => t.lid = l.lid).foldl State.keepClock s
  { s with
    th := if s.th.live && s.th.lid = l.lid then Thread.idle s.th.core s.th.slot else s.th
    slots := s.slots.filter fun t => t.lid ≠ l.lid }

/-- PREEMPTION_SAVE (R53, R54, R357, R358) of a launch that has stopped: it waits until every slot has come to an instruction
boundary and the engines can do no more. -/
def execPreemptionSave (s : State) : Host.Outcome State Fault Refusal :=
  done (match s.launch s.input.lid with
    | none => s
    | some l =>
      if l.state ≠ .stopping || (l.floes.any fun f => floeGoes (s.floe f) l.lid) ||
          s.threads.any (fun t => t.lid = l.lid && mustFinish t) then s
      else
        let s0 := onThreadsOf s l.lid Thread.stop
        match drainAll (s0.threads.filter fun t => t.lid = l.lid) s0 with
        | none => s
        | some s1 =>
          match putAll l.tenant l.pts (saveImage s1 l) s1 with
          | .wait => s
          | .bad c => failLaunch s1 l.lid c
          | .ok s2 => takeOut s2 l (savedThreads s1 l))

/-! ### Restoring -/

/-- Whether a launch that is out may come back (R56): for no due launch of higher priority are its slots needed, nor for one of its
priority that is marked for restore ahead of it (R55). -/
def comesBack (s : State) (l : Launch) : Bool :=
  l.state = .out && !s.lp.stopped &&
  !(s.lp.launches.any fun d => d.meets l &&
    ((due s d && l.prio < d.prio) || (d.state = .out && l.prio = d.prio && d.urgent && !l.urgent))) &&
  (l.cores.all fun c => (l.saved.filter fun e => e.2.core = c).length ≤ (freeSlots s c).length) &&
  l.floes.all fun f => (l.saved.foldl (fun n e => if floeOfCore e.2.core = f then n + e.2.gran else n) 0) ≤ granulesFree s f

/-- Reloads a floe's part: its tiles, rings, tasks and copies, ahead of any new ones (R56). -/
def reloadFloe (l : Launch) (i f : Nat) (s : State) : SaveEnd State :=
  let base := l.floeOff i
  let tm := (((l.savedMasks.find? fun m => m.1 = f).map (·.2)).getD (0, 0)).1
  let tiles := setBits tm 16
  let rs := l.savedRings.filter fun r => r.1 = f
  let ts := (l.savedTasks.filter fun t => t.1 = f).map (·.2)
  let cs := (l.savedCopies.filter fun c => c.1 = f).map (·.2)
  let at_ (o n k : Nat) : List (Nat × Nat) := (List.range k).map fun j => (base + o + n * j, n)
  match getAll s l.tenant (tiles.map fun t => (base + 16384 * t, 16384)),
      getAll s l.tenant (rs.map fun r => (base + 262144 + 16 * r.2.1, 16)),
      getAll s l.tenant (at_ 262400 64 ts.length), getAll s l.tenant (at_ 266496 128 cs.length) with
  | .ok tb, .ok rb, .ok kb, .ok cb =>
    let s := (tiles.zip tb).foldl (fun s e => s.homePut (tileKey f e.1 0) e.2) s
    .ok (noteTiles (s.onFloe f fun x =>
      let x := (rs.zip rb).foldl (fun x e => x.setRing e.1.2.1 (e.1.2.2.reload e.2)) x
      { x with
        tasks := (ts.zip kb).map (fun e => e.1.reload e.2) ++ x.tasks
        copies := (cs.zip cb).map (fun e => e.1.reload e.2) ++ x.copies
        masks := (l.savedMasks.filter fun m => m.1 = f).map (fun m => (l.lid, m.2)) ++ x.masks }) f)
  | .wait, _, _, _ | _, .wait, _, _ | _, _, .wait, _ | _, _, _, .wait => .wait
  | .bad c, _, _, _ | _, .bad c, _, _ | _, _, .bad c, _ | _, _, _, .bad c => .bad c

/-- Reloads every floe's part. -/
def reloadFloes (l : Launch) : List (Nat × Nat) → State → SaveEnd State
  | [], s => .ok s
  | (i, f) :: t, s =>
    match reloadFloe l i f s with
    | .ok s' => reloadFloes l t s'
    | e => e

/-- The oldest request for a master that comes back waiting in `coll.take` (R287). -/
def serveTaker (s : State) (t : Thread) : State × Thread :=
  match t.wait with
  | .take _ _ =>
    match takeMail s (floeOfCore t.core) t.lid with
    | some (m, s) => (acquireCore s t.core .sys, { t.deliver s.host.cycle m.word m.pts with wait := .none })
    | none => (s, t)
  | _ => (s, t)

/-- A saved wait that has ended completes as its log entry states, or as the event that was held back (R55, R56 steps 2 and 3);
a wait for an event line acquires nothing (R237). -/
def replayWait (s : State) (t : Thread) : State × Thread :=
  let finish (st : Word) (ts : Nat) : State × Thread :=
    ((match t.instr with
      | some (.evWait _) => s
      | _ => acquireCore s t.core .pkg), { t.deliver s.host.cycle st ts with wait := .none })
  match t.wait with
  | .logged _ st ts => finish st ts
  | .owed _ st ts => finish st ts
  | .waking _ _ _ => (s, { t with wait := .none })
  | _ => serveTaker s t

/-- Reloads a slot's entry into a free slot of its core. -/
def reloadSlot (l : Launch) (e : Nat × Thread) (s : State) : SaveEnd State :=
  let t := e.2
  let img := slotImage s l t
  match getAll s l.tenant (img.map fun p => (l.slotOff e.1 + p.off, p.data.length)) with
  | .wait => .wait
  | .bad c => .bad c
  | .ok bs =>
    let t := (img.zip bs).foldl (fun t p => p.1.load p.2 t) t
    let t := { t with slot := (freeSlots s t.core).headD 0 }
    let r := replayWait s (t.begin s t.pts)
    .ok (addThread r.1 r.2)

/-- Reloads every slot's entry. -/
def reloadSlots (l : Launch) : List (Nat × Thread) → State → SaveEnd State
  | [], s => .ok s
  | e :: t, s =>
    match reloadSlot l e s with
    | .ok s' => reloadSlots l t s'
    | r => r

/-- Brings a launch back (R56). -/
def bringBack (s : State) (l : Launch) : State :=
  match reloadFloes l ((List.range l.floes.length).zip l.floes) s with
  | .wait => s
  | .bad c => failLaunch s l.lid c
  | .ok s1 =>
    match reloadSlots l l.saved s1 with
    | .wait => s
    | .bad c => failLaunch s l.lid c
    | .ok s2 => s2.onLaunch l.lid fun k => { k with
        state := .running, saved := [], savedTasks := [], savedCopies := [], savedRings := [], savedMasks := []
        urgent := false, logPos := 0 }

/-- RESTORE (R56, R358) of a launch; one whose log has failed ends. -/
def execRestore (s : State) : Host.Outcome State Fault Refusal :=
  done (match s.launch s.input.lid with
    | none => s
    | some l =>
      if l.logBad ≠ 0 then failLaunch s l.lid l.logBad
      else if comesBack s l then bringBack s l
      else s)

/-! ### Checkpoints -/

/-- CKPTCTL_GO (R335): a write of go while a checkpoint runs is ignored. -/
def execCkptctlGo (s : State) : Host.Outcome State Fault Refusal :=
  let fail (e : Nat) : State := { s with host := { s.host with ckptState := 3, ckptErr := e, ckptMs := 0 } }
  done (if s.host.ckptState = 1 || !s.input.value.getLsbD 0 then s
    else if !(s.host.cfg.any fun c => c.ckpt) then fail 1
    else if (List.range 8).any fun i => !(s.port (24 + i)).up then fail 3
    else { s with
      host := { s.host with ckptState := 1, ckptErr := 0 }
      lp := { s.lp with stopped := true } })

/-- Every dirty sector of every L1 and L2 is written back (R335 step 2). -/
def writeBackAll (s : State) : State :=
  let s := s.mem.l1.foldl (fun s c => if c.hc then s else writeBack s c) s
  let s := s.onMem fun m => { m with l1 := m.l1.map fun c => { c with dirty := [] } }
  s.mem.l2.foldl State.clean2 s

/-- CHECKPOINT_COMPLETE (R335), once every launch is out: the duration, and an error that ended the stream. The target holds this
package's memory as it then stands; of a failed stream nothing is kept. -/
def execCheckpointComplete (s : State) : Host.Outcome State Fault Refusal :=
  done (if s.host.ckptState ≠ 1 || s.lp.launches.any fun l => l.state = .running || l.state = .stopping || l.state = .ending then s
    else
      let s := writeBackAll s
      let e := if s.input.err = 2 || s.input.err = 3 then s.input.err else 0
      { s with
        host := { s.host with
          ckptState := if e = 0 then 2 else 3, ckptErr := e, ckptMs := min s.input.ms (2 ^ 32 - 1)
          ckptImage := if e = 0 then s.mem.bytes.filter fun c => c.1 < 2 ^ 39 else [] }
        lp := { s.lp with stopped := false } })

end Sys2Proof.Machine
end

