-- ==== Sys2Proof/Machine/Sha.lean ====
section
/-! DEFINITION. SHA-256, and the verification of an LMS signature (RFC 8554, LMS_SHA256_M32_H15 with LMOTS_SHA256_N32_W4), which
start-up and attestation use (R332, R334). -/

namespace Sys2Proof.Machine

/-! ### SHA-256 -/

/-- The round constants. -/
def shaK : List Lane :=
  [0x428A2F98, 0x71374491, 0xB5C0FBCF, 0xE9B5DBA5, 0x3956C25B, 0x59F111F1, 0x923F82A4, 0xAB1C5ED5] ++
  [0xD807AA98, 0x12835B01, 0x243185BE, 0x550C7DC3, 0x72BE5D74, 0x80DEB1FE, 0x9BDC06A7, 0xC19BF174] ++
  [0xE49B69C1, 0xEFBE4786, 0x0FC19DC6, 0x240CA1CC, 0x2DE92C6F, 0x4A7484AA, 0x5CB0A9DC, 0x76F988DA] ++
  [0x983E5152, 0xA831C66D, 0xB00327C8, 0xBF597FC7, 0xC6E00BF3, 0xD5A79147, 0x06CA6351, 0x14292967] ++
  [0x27B70A85, 0x2E1B2138, 0x4D2C6DFC, 0x53380D13, 0x650A7354, 0x766A0ABB, 0x81C2C92E, 0x92722C85] ++
  [0xA2BFE8A1, 0xA81A664B, 0xC24B8B70, 0xC76C51A3, 0xD192E819, 0xD6990624, 0xF40E3585, 0x106AA070] ++
  [0x19A4C116, 0x1E376C08, 0x2748774C, 0x34B0BCB5, 0x391C0CB3, 0x4ED8AA4A, 0x5B9CCA4F, 0x682E6FF3] ++
  [0x748F82EE, 0x78A5636F, 0x84C87814, 0x8CC70208, 0x90BEFFFA, 0xA4506CEB, 0xBEF9A3F7, 0xC67178F2]

/-- The initial state. -/
def shaH : List Lane :=
  [0x6A09E667, 0xBB67AE85, 0x3C6EF372, 0xA54FF53A,
   0x510E527F, 0x9B05688C, 0x1F83D9AB, 0x5BE0CD19]

/-- The big-endian bytes of a value, and their value. -/
def beBytes (n v : Nat) : List Byte := (leBytes n v).reverse
def beNat (bs : List Byte) : Nat := leNat bs.reverse

/-- A message padded to whole blocks of 64 bytes. -/
def shaPad (m : List Byte) : List Byte :=
  m ++ 0x80 :: List.replicate ((119 - m.length % 64) % 64) 0 ++ beBytes 8 (8 * m.length)

/-- The next word of a message schedule, whose words stand newest first. -/
def shaNext (l : List Lane) : Lane :=
  let a := l.getD 14 0
  let b := l.getD 1 0
  let s0 := a.rotateRight 7 ^^^ a.rotateRight 18 ^^^ (a >>> 3)
  let s1 := b.rotateRight 17 ^^^ b.rotateRight 19 ^^^ (b >>> 10)
  l.getD 15 0 + s0 + l.getD 6 0 + s1

/-- The message schedule of a block. -/
def shaSchedule (block : List Byte) : List Lane :=
  let w := (List.range 16).map fun i => BitVec.ofNat 32 (beNat ((block.drop (4 * i)).take 4))
  (iterate 48 (fun _ l => shaNext l :: l) w.reverse).reverse

/-- One round on the working state a to h. -/
def shaRound (st : List Lane) (kw : Lane × Lane) : List Lane :=
  let g (i : Nat) : Lane := st.getD i 0
  let a := g 0
  let e := g 4
  let s1 := e.rotateRight 6 ^^^ e.rotateRight 11 ^^^ e.rotateRight 25
  let ch := (e &&& g 5) ^^^ (~~~e &&& g 6)
  let t1 := g 7 + s1 + ch + kw.1 + kw.2
  let s0 := a.rotateRight 2 ^^^ a.rotateRight 13 ^^^ a.rotateRight 22
  let maj := (a &&& g 1) ^^^ (a &&& g 2) ^^^ (g 1 &&& g 2)
  [t1 + (s0 + maj), a, g 1, g 2, g 3 + t1, e, g 5, g 6]

/-- One block enters the state. -/
def shaBlock (h : List Lane) (block : List Byte) : List Lane :=
  List.zipWith (· + ·) h ((shaK.zip (shaSchedule block)).foldl shaRound h)

/-- SHA-256 of a message. -/
def sha256 (m : List Byte) : List Byte :=
  let p := shaPad m
  let h := (List.range (p.length / 64)).foldl (fun h i => shaBlock h ((p.drop (64 * i)).take 64)) shaH
  h.flatMap fun w => beBytes 4 w.toNat

/-! ### LMS -/

/-- Bytes `o` to `o + n - 1` of a list. -/
def part (bs : List Byte) (o n : Nat) : List Byte := (bs.drop o).take n

/-- The four-bit coefficient `i` of a byte string. -/
def coef (bs : List Byte) (i : Nat) : Nat :=
  let b := (bs.getD (i / 2) 0).toNat
  if i % 2 = 0 then b / 16 else b % 16

/-- The checksum of a hash's 64 coefficients. -/
def lmsCksm (q : List Byte) : List Byte :=
  beBytes 2 ((List.range 64).foldl (fun n i => n + (15 - coef q i)) 0 * 16)

/-- The end of one hash chain of a one-time signature, from a coefficient on. -/
def chainEnd (id : List Byte) (q i a : Nat) (y : List Byte) : List Byte :=
  (List.range (15 - a)).foldl (fun t j => sha256 (id ++ beBytes 4 q ++ beBytes 2 i ++ beBytes 1 (a + j) ++ t)) y

/-- The candidate of the one-time public key. -/
def otsCandidate (id : List Byte) (q : Nat) (sig msg : List Byte) : List Byte :=
  let h := sha256 (id ++ beBytes 4 q ++ beBytes 2 0x8181 ++ part sig 4 32 ++ msg)
  let c := h ++ lmsCksm h
  sha256 (id ++ beBytes 4 q ++ beBytes 2 0x8080 ++
    (List.range 67).flatMap fun i => chainEnd id q i (coef c i) (part sig (36 + 32 * i) 32))

/-- The candidate of a tree's root, from a node and the path above it. -/
def rootCandidate (id : List Byte) : List (List Byte) → Nat → List Byte → List Byte
  | [], _, t => t
  | p :: rest, n, t =>
    rootCandidate id rest (n / 2)
      (sha256 (id ++ beBytes 4 (n / 2) ++ beBytes 2 0x8383 ++ (if n % 2 = 1 then p ++ t else t ++ p)))

/-- Whether a signature of 2,668 bytes is one of a message under a public key of 56 bytes: its types, its leaf and its root. -/
def lmsOk (key sig msg : List Byte) : Bool :=
  let id := part key 8 16
  let q := beNat (part sig 0 4)
  let leaf := sha256 (id ++ beBytes 4 (2 ^ 15 + q) ++ beBytes 2 0x8282 ++ otsCandidate id q (part sig 4 2180) msg)
  let path := (List.range 15).map fun i => part sig (2188 + 32 * i) 32
  key.length = 56 && sig.length = 2668 && part key 0 8 = beBytes 4 7 ++ beBytes 4 3 && part sig 4 4 = beBytes 4 3 &&
    part sig 2184 4 = beBytes 4 7 && q < 2 ^ 15 && rootCandidate id path (2 ^ 15 + q) leaf = part key 24 32

end Sys2Proof.Machine
end

