-- ==== Sys2Proof/Machine/Debug.lean ====
section
/-! DEFINITION. Debug modules (R336 to R338, R350), attestation (R334) and replay sessions (R340). -/

namespace Sys2Proof.Machine

set_option linter.unusedVariables false

/-! ### Debug modules -/

/-- Every fixed-latency result of a core's slots lands (R142). -/
def landCore (s : State) (core : Nat) : State :=
  let f (t : Thread) : Thread := if t.core = core then t.land else t
  { s with th := f s.th, slots := s.slots.map f }

/-- A halt request (R336, R337). -/
def haltCore (s : State) (core : Nat) : State :=
  let d := s.dbg core
  if d.halted then s
  else landCore (s.setDbg { d with
    halted := true, why := 1, cmp := 0, iter := 0, inside := false
    armed := if d.stepping.isSome then d.armed else none }) core

/-- A resume request (R336, R350): it also disarms a step. -/
def resumeCore (s : State) (core : Nat) : State :=
  s.setDbg { s.dbg core with halted := false, why := 0, armed := none, inside := false, stepping := none }

/-- A step request on a slot (R336, R350): on a halted core the slot runs one instruction, on a running one a thread step is
armed. -/
def stepCore (s : State) (core slot : Nat) : State :=
  s.setDbg { s.dbg core with sslot := slot, armed := some slot, inside := false, stepping := none }

/-- A write of DBGCTL (R336): sslot first, then halt, resume and step in the order of their bits. -/
def dbgCtlWrite (s : State) (core : Nat) (v : Word) : State :=
  let n := bits v.toNat 8 2
  let s := s.setDbg { s.dbg core with sslot := n }
  let s := if v.getLsbD 0 then haltCore s core else s
  let s := if v.getLsbD 1 then resumeCore s core else s
  if v.getLsbD 2 then stepCore s core n else s

/-- DEBUG_HALT (R337) of a core. -/
def execDebugHalt (s : State) : Host.Outcome State Fault Refusal := done (haltCore s (s.input.core % 2048))

/-- DEBUG_RESUME (R336, R350) of a core. -/
def execDebugResume (s : State) : Host.Outcome State Fault Refusal := done (resumeCore s (s.input.core % 2048))

/-- DEBUG_STEP (R336, R350) of a core, with the DBGCTL value that brings sslot. -/
def execDebugStep (s : State) : Host.Outcome State Fault Refusal :=
  done (stepCore s (s.input.core % 2048) (bits s.input.value.toNat 8 2))

/-- Whether an asynchronous operation that a thread issued from a cycle on is in flight (R337). -/
def asyncWork (s : State) (tid since : Nat) : Bool :=
  let mine (b : Issuer) : Bool := b.tid = tid && since ≤ b.since
  (s.floes.any fun f => (f.2.tasks.any fun t => mine t.by_) || f.2.copies.any fun c => mine c.by_) ||
  (s.fab.ops.any fun o => mine o.by_) || (s.fab.runs.any fun r => mine r.by_) ||
  (s.threads.any fun t => t.tid = tid && t.ports.any fun p => p.2.queue ≠ [])

/-- Whether the stepped thread's instruction is over: its slot waits for nothing, or the thread has gone. -/
def stepOver (s : State) (core tid : Nat) : Bool :=
  match s.findTid tid with
  | some t => t.wait = .none
  | none => true

/-- DEBUG_STEP_DONE (R337, R350) of a core: a halted one reports it, and on a running one the slot traps STEP. -/
def execDebugStepDone (s : State) : Host.Outcome State Fault Refusal :=
  let c := s.input.core % 2048
  let d := s.dbg c
  done (match d.armed, d.stepping with
    | some k, some (pc, tid, since) =>
      if !stepOver s c tid || asyncWork s tid since then s
      else
        let s := s.setDbg { d with armed := none, stepping := none }
        if d.halted then landCore (s.setDbg { s.dbg c with why := 4, slot := k, cmp := 0, iter := 0 }) c
        else
          match s.atLoc ⟨c, k⟩ with
          | some t => if t.tid = tid then trapAt (selectSlot s ⟨c, k⟩) .step 0 pc.toNat t.pc else s
          | none => s
    | _, _ => s)

/-- DBGSTAT as it reads (R336). -/
def Dbg.stat (d : Dbg) : Nat :=
  d.iter % 2 ^ 32 * 2 ^ 32 + d.why % 256 * 2 ^ 24 + d.cmp % 4 * 2 ^ 20 + d.slot % 4 * 2 ^ 16 + d.halted.toNat

/-! ### Attestation -/

/-- Signatures that the per-boot key can make, and leaves of the identity key (R334). -/
def attLimit : Nat := 1024
def otpLimit : Nat := 2 ^ 20

/-- A boot's key is certified (R334): the bank is advanced before the leaf is used. -/
def certify (s : State) : State :=
  if s.host.otp < otpLimit then
    { s with host := { s.host with attCert := some s.host.otp, otp := s.host.otp + 1, attUsed := 0 } }
  else { s with host := { s.host with attCert := none, attUsed := 0 } }

/-- A write of ATTGO (R334): 3 when the bank or the boot's signatures are exhausted. -/
def attGo (s : State) (v : Word) : State :=
  if v ≠ 1 || s.host.attState = 1 then s
  else { s with host := { s.host with attState := if s.host.attCert = none || attLimit ≤ s.host.attUsed then 3 else 1 } }

/-- ATTGO (R334). -/
def execAttgo (s : State) : Host.Outcome State Fault Refusal := done (attGo s s.input.value)

/-- The accepted image, as BAR2 still holds it (R332). -/
def bootImage (s : State) : List Byte := Memory.bytes s.host.staging 0 s.host.bootlen

/-- `n` bytes of a list, filled up with 0. -/
def fitTo (n : Nat) (bs : List Byte) : List Byte := (bs ++ List.replicate n 0).take n

/-- The report (R334): its magic, the version, the hashes of the image, of the fuses' key and of the tenant table, the nonce, the
leaves, the boot's key and the two signatures. -/
def attReport (s : State) (nonce : List Byte) : List Byte :=
  let leaf := s.host.attCert.getD 0
  let key := leBytes 56 (Config.bootKey leaf).toNat
  let body := leBytes 4 0x5441445A ++ leBytes 4 s.host.ver.toNat ++ sha256 (bootImage s) ++ beBytes 32 Config.fuseHash.toNat ++
    sha256 (Config.tableBytes s.lp.tenants) ++ nonce ++ leBytes 4 s.host.attUsed ++ leBytes 4 leaf ++ key ++
    fitTo 2828 (Config.identitySignature leaf key)
  body ++ fitTo 2508 (Config.bootSignature leaf s.host.attUsed body)

/-- ATTESTATION_REPORT (R334): the report as one engine operation. -/
def execAttestationReport (s : State) : Host.Outcome State Fault Refusal :=
  let n := s.host.attNonce.toNat
  let r := s.host.attRpt.toNat
  done (if s.host.attState ≠ 1 then s
    else
      let s := settle (settle s n 32) r 5536
      let fail : State := { s with host := { s.host with attState := 4 } }
      match spans s 2048 chirnaore .rd n 32 with
      | .wait => s
      | .fault _ => fail
      | .ok l =>
        if r % 64 ≠ 0 then fail
        else
          match engineOp s 2048 chirnaore 0 [(n, 32)] [(r, 5536)] (fun bs => attReport s (bs.take 32)) with
          | .wait => s
          | .fault _ => fail
          | .done s' _ => { s' with host := { s'.host with attState := 2, attUsed := s.host.attUsed + 1 } })

/-! ### Replay sessions -/

/-- A field of the session's descriptor (R340). -/
def replayField (s : State) (o n : Nat) : Nat := pf s.host.replayDesc o n

/-- The passes of a session: four events each. -/
def replayPasses (s : State) : Nat := (replayField s 32 1 + 3) / 4

/-- A session that fails (R340). -/
def replayFail (s : State) : State := { s with host := { s.host with replayState := 3 } }

/-- The events of a pass on every core of a launch's rectangle, counted for all slots, and the counters at 0. -/
def replayCounters (s : State) (l : Launch) : State :=
  let ev (k : Nat) : Word :=
    let i := 4 * (s.host.replayPass - 1) + k
    if i < replayField s 32 1 then pcsel (BitVec.ofNat 64 (0x1100 + replayField s (40 + i) 1)) else 0
  l.cores.foldl (fun s c => s.setPmu ⟨c, Vector.ofFn fun k => ev k.val, Vector.replicate 4 0⟩) s

/-- Submits the session's launch packet for a pass (R340): the launch of the tenant that holds its origin, at priority 0; a full
table makes it wait, and a refused packet ends the session. -/
def replaySubmit (s : State) : State :=
  match devRead s (replayField s 0 8) 256 with
  | none => replayFail s
  | some bs =>
    let tenant := s.tenantOf (pf bs 25 1 * 64 + pf bs 24 1)
    let x : SubRing := ⟨0, BitVec.ofNat 64 (tenant * 2 ^ 24), 0, 0, 0, 0, [], none, none, []⟩
    if pf bs 0 1 ≠ 1 || packetCode s x bs ≠ 0 then replayFail s
    else
      match launchFit s tenant bs with
      | none => replayFail s
      | some k =>
        if 256 ≤ s.lp.launches.length then s
        else
          let l := launchOf bs k (freshLid s) tenant 0 64 0 (max s.lp.mark s.mem.hts)
          let s := replayCounters (enterLaunch s l) l
          { s with host := { s.host with replayLid := l.lid } }

/-- A write of REPLAYGO (R340): the session starts from its descriptor. -/
def replayGo (s : State) (v : Word) : State :=
  if v ≠ 1 || s.host.replayState = 1 then s
  else
    match devRead s s.host.replayAddr.toNat 128 with
    | none => replayFail s
    | some d =>
      let s := { s with host := { s.host with
        replayState := 1, replayPass := 1, replayDesc := d, replayLid := noLid, replayPages := []
        replayRes := [], replaySig := [] } }
      let n := pf d 32 1
      if n < 1 || 64 < n || pf d 8 8 % 0x10000 ≠ 0 || pf d 24 8 % 64 ≠ 0 then replayFail s else replaySubmit s

/-- REPLAYGO (R340). -/
def execReplaygo (s : State) : Host.Outcome State Fault Refusal := done (replayGo s s.input.value)

/-- The cores of the session's rectangle, from its launch packet. -/
def replayCores (s : State) : List Nat :=
  match devRead s (replayField s 0 8) 256 with
  | some bs =>
    let w := min 6 (pf bs 26 1)
    (List.range (2 ^ (w + min 5 (pf bs 27 1)))).map fun n => (pf bs 25 1 + n / 2 ^ w) * 64 + pf bs 24 1 + n % 2 ^ w
  | none => []

/-- A pass's counts and path signature of every core. -/
def replayNote (s : State) : State :=
  { s with host := { s.host with replayRes := s.host.replayRes ++ (replayCores s).map fun c =>
      (s.host.replayPass, c, (look s.host.replaySig c).getD 0xFFFFFFFF :: ((s.pmu c).cnt.toList.map (·.toNat))) } }

/-- The written pages come back from the replay area. -/
def restorePages : List (Nat × Nat × Nat) → State → State
  | [], s => s
  | (va, n, at_) :: t, s => restorePages t ((copyPieces s at_ va (n / 0x10000)).getD s)

/-- Before a later pass (R340): every L1 and L2 is written back and emptied, and every PLB, and the written pages come back. -/
def replayRewind (s : State) : State :=
  let s := flush2 (writeBackAll s) fun _ => true
  let s := restorePages s.host.replayPages (s.onMem fun m => { m with
    l1 := [], l1i := [], plb := [], lines := m.lines.map fun l => { l with owner := none } })
  { s with host := { s.host with replayPass := s.host.replayPass + 1, replayLid := noLid, replaySig := [] } }

/-- What a pass recorded of a core: its signature, then its counts. -/
def replayOf (s : State) (pass core : Nat) : List Nat :=
  match s.host.replayRes.find? fun r => r.1 = pass && r.2.1 = core with
  | some r => r.2.2
  | none => []

/-- A core's entry of the result (R340). -/
def replayEntry (s : State) (core : Nat) : List Byte :=
  let sig (p : Nat) : Nat := (replayOf s p core).headD 0
  let bad := (List.range (replayPasses s + 1)).find? fun p => 1 < p && sig p ≠ sig 1
  let flags := match bad with
    | some p => 1 + p * 256
    | none => 0
  ((List.range 64).flatMap fun i =>
    leBytes 8 (if i < replayField s 32 1 then (replayOf s (i / 4 + 1) core).getD (1 + i % 4) 0 else 0)) ++
    leBytes 8 flags ++ leBytes 8 0

/-- The end of a session: the result is written (R340). -/
def replayEnd (s : State) : State :=
  match record s 2048 chirnaore 0 (replayField s 24 8) ((replayCores s).flatMap (replayEntry s)) with
  | .done s' _ => { s' with host := { s'.host with replayState := 2 } }
  | .fault => replayFail s
  | .wait => s

/-- REPLAY_PASS_END (R340): once the launch of the pass has completed; a pass that has not begun is begun. -/
def execReplayPassEnd (s : State) : Host.Outcome State Fault Refusal :=
  done (if s.host.replayState ≠ 1 then s
    else if s.host.replayLid = noLid then replaySubmit s
    else if (s.launch s.host.replayLid).isSome then s
    else
      let s := replayNote s
      if replayPasses s ≤ s.host.replayPass then replayEnd s
      else replaySubmit (replayRewind s))

end Sys2Proof.Machine
end

