-- ==== Sys2Proof/Machine/HostLink.lean ====
section
/-! DEFINITION. The host link (R323 to R326, R331 to R333, R383 to R385): start-up, the BAR0 registers, the memory aperture,
and the time unit. -/

namespace Sys2Proof.Machine

set_option linter.unusedVariables false

/-! ### Start-up -/

/-- The device as after reset: the one-time-programmable bank keeps its count (R334), and what the model itself counts goes on. -/
def resetDevice (s : State) : State :=
  { State.reset with
    turns := s.turns, fresh := s.fresh, host := { HostSys.reset with otp := s.host.otp } }

/-- POWER_ON (R332, R333): the boot ROM waits for an image. -/
def execPowerOn (s : State) : Host.Outcome State Fault Refusal := done (resetDevice s)

/-- DEVICE_RESET (R383). -/
def execDeviceReset (s : State) : Host.Outcome State Fault Refusal := done (resetDevice s)

/-- The size of BAR2 (R323), and the attempts that the boot ROM accepts (R332). -/
def stagingSize : Nat := 0x1000000
def bootTries : Nat := 8

/-- A failed start (R332, R333). -/
def bootFail (s : State) (state : Nat) : State :=
  { s with host := { s.host with boot := state, tries := min 8 (s.host.tries + 1) } }

/-- A write of BOOTLEN, the boot doorbell (R325, R332). -/
def bootDoorbell (s : State) (v : Word) : State :=
  if s.host.boot = 0x80 || s.host.boot = 1 then s
  else
    let s := { s with host := { s.host with bootlen := v.toNat } }
    if bootTries ≤ s.host.tries then { s with host := { s.host with boot := 5 } }
    else if stagingSize < v.toNat then bootFail s 4
    else { s with host := { s.host with boot := 1 } }

/-- BOOTLEN (R332). -/
def execBootlen (s : State) : Host.Outcome State Fault Refusal := done (bootDoorbell s s.input.value)

/-- What Chirnaore sets up when it starts (R82, R296, R313, R324, R332, R334, R359, R371). -/
def startChirnaore (s : State) (c : BootCfg) : State :=
  let logs : Vector ErrLog 5 := Vector.ofFn fun g => { ErrLog.reset with base := c.logs.getD g.val 0 }
  let die (i : Fin 4) : Die :=
    let o := c.ovf.getD i.val (16, 1)
    { s.die i.val with ovf := min 252 o.1, spill := min (min 252 o.1) o.2 }
  certify { s with
    mem := { s.mem with root := c.root, firn := min 128 c.firnGiB * 2 ^ 30, frames := c.frames }
    sync := { s.sync with dies := Vector.ofFn die }
    lp := { s.lp with tenants := tenantTable [] c.tenants }
    fab := { s.fab with banks := [] }
    host := { s.host with boot := 0x80, ver := c.ver, cfg := some c, logs := logs } }

/-- How the verification of an image ends (R332, R333): BOOTSTAT's error state, or none. The public key stands before the signature,
which covers it (DESIGN CHOICE, log 81). -/
def imageError (img : List Byte) : Option Nat :=
  let n := img.length
  let key := part img (n - 2724) 56
  if n < 2724 || sha256 key ≠ beBytes 32 Config.fuseHash.toNat then some 2
  else if lmsOk key (part img (n - 2668) 2668) (img.take (n - 2668)) then none
  else some 3

/-- IMAGE_VERIFICATION (R332, R333): an image that is good is run, and Chirnaore trains the memory and sets up its tables. -/
def execImageVerification (s : State) : Host.Outcome State Fault Refusal :=
  done (if s.host.boot ≠ 1 then s
    else
      match imageError (bootImage s), s.input.boot with
      | some e, _ => bootFail s e
      | none, .accepted c => startChirnaore s c
      | none, .training => bootFail s 6)

/-- BOOT_STAGING_WRITE (R323, R332): BAR2 is read-only once Chirnaore runs. -/
def execBootStagingWrite (s : State) : Host.Outcome State Fault Refusal :=
  let i := s.input
  done (if s.host.boot = 0x80 || stagingSize < i.off + i.bytes.length || !s.host.linkUp then s
    else { s with host := { s.host with staging := Memory.put s.host.staging i.off i.bytes } })

/-- HOST_LINK_DOWN (R383, R385). -/
def execHostLinkDown (s : State) : Host.Outcome State Fault Refusal :=
  done (if s.host.linkUp then
      logError { s with host := { s.host with linkUp := false } } 4 9 12 0xFFFF 0 0 0
    else s)

/-- HOST_LINK_UP (R383, R385). -/
def execHostLinkUp (s : State) : Host.Outcome State Fault Refusal :=
  done (if s.host.linkUp then s
    else logError { s with host := { s.host with linkUp := true } } 4 8 12 0xFFFF 0 0 0)

/-! ### BAR0 -/

/-- A core's trace registers; untouched ones read 0 (R325). -/
def State.traceRegs (s : State) (core : Nat) : Trace := (s.host.trace.find? fun t => t.core = core).getD ⟨core, 0, 0, 0, 0, 0⟩

def State.setTrace (s : State) (t : Trace) : State :=
  { s with host := { s.host with trace := t :: s.host.trace.filter fun u => u.core ≠ t.core } }

/-- A write of TRCTL (R325): while tracing is enabled lsz keeps its value, and a size code of 15 stores 14. -/
def trCtlWrite (t : Trace) (v : Word) : Trace :=
  let lsz := if t.ctl.getLsbD 0 then bits t.ctl.toNat 20 4 else min 14 (bits v.toNat 20 4)
  { t with ctl := BitVec.ofNat 64 (lsz * 2 ^ 20 + v.toNat % 16) }

/-- Space has returned: the loss record of a trace buffer is written (R339). -/
def traceLoss (s : State) (core : Nat) : State :=
  let t := s.traceRegs core
  if 0 < t.lost && t.wr + 32 - t.rd ≤ t.size then
    (devWrite s (t.base.toNat + t.wr % t.size) (traceBytes 7 0 core 0 s.ptime t.lost 0)).setTrace
      { t with wr := (t.wr + 32) % 2 ^ 64, lost := 0 }
  else s

/-- A write of one of a core's trace registers. -/
def traceWrite (s : State) (core k : Nat) (v : Word) : State :=
  let t := s.traceRegs core
  match k with
  | 0 => if t.ctl.getLsbD 0 then s else s.setTrace { t with base := v &&& 0xFFFFFFFFFFFFF000 }
  | 1 => s.setTrace (trCtlWrite t v)
  | 3 => traceLoss (s.setTrace { t with rd := v.toNat }) core
  | _ => s

/-- A write of a debug-module register (R336). -/
def debugWrite (s : State) (core k : Nat) (v : Word) : State :=
  let d := s.dbg core
  if k = 0 then dbgCtlWrite s core v
  else if 2 ≤ k && k < 6 then s.setDbg { d with ia := d.ia.set (Fin.ofNat 4 (k - 2)) v }
  else if 6 ≤ k && k < 8 then s.setDbg { d with da := d.da.set (Fin.ofNat 2 (k - 6)) v }
  else s

/-- A write of one of a ring's registers (R326). -/
def ringRegWrite (s : State) (r k : Nat) (v : Word) : State :=
  match k with
  | 0 => s.setRing r { s.ring r with base := v &&& 0xFFFFFFFFFFFFF000 }
  | 1 => ringCfgWrite s r v
  | 2 => ringTailWrite s r v.toNat
  | _ => s

/-- A write of ELCONS (R325, R371): a loss record that has waited for space is written. -/
def elConsWrite (s : State) (g : Nat) (v : Word) : State :=
  let i : Fin 5 := Fin.ofNat 5 g
  logLoss { s with host := { s.host with logs := s.host.logs.set i { s.host.logs[i] with cons := v.toNat } } } g

/-- A host write of a BAR0 register (R325): offsets without a register, and read-only registers, ignore it. -/
def barWrite (s : State) (o : Nat) (v : Word) : State :=
  if o % 8 ≠ 0 then s
  else if o = 0x8 then bootDoorbell s v
  else if o = 0x200 then
    match execCkptctlGo { s with input := { s.input with value := v } } with
    | .next s' => s'
    | _ => s
  else if o = 0x300 then { s with host := { s.host with replayAddr := v } }
  else if o = 0x308 then replayGo s v
  else if o = 0x400 then { s with host := { s.host with attNonce := v } }
  else if o = 0x408 then { s with host := { s.host with attRpt := v } }
  else if o = 0x410 then attGo s v
  else if 0x500 ≤ o && o < 0x5A0 then (if o % 0x20 = 8 then elConsWrite s ((o - 0x500) / 0x20) v else s)
  else if 0x10000 ≤ o && o < 0x10800 then ringRegWrite s ((o - 0x10000) / 0x20) (o % 0x20 / 8) v
  else if 0x1000000 ≤ o && o < 0x1080000 then debugWrite s ((o - 0x1000000) / 0x100) (o % 0x100 / 8) v
  else if 0x2000000 ≤ o && o < 0x2010000 then traceWrite s ((o - 0x2000000) / 0x20) (o % 0x20 / 8) v
  else s

/-- REGISTER_WRITE (R325) at a BAR0 offset; a write that does not arrive has no effect (R383). -/
def execRegisterWrite (s : State) : Host.Outcome State Fault Refusal :=
  done (if s.host.linkUp then barWrite s s.input.off s.input.value else s)

/-- A tenant's MMRING or PTMAP (R325). -/
def mmReg (s : State) (t : Nat) (map : Bool) : Nat :=
  match s.tenantCfg t with
  | some c => if c.mm then (if map then c.ptMap else c.mmRing) else 0
  | none => 0

/-- One of an error log's registers (R325). -/
def logReg (l : ErrLog) (k : Nat) : Nat :=
  match k with
  | 0 => l.base
  | 1 => l.cons
  | 2 => l.prod
  | _ => l.drop

/-- One of a debug module's registers (R336). -/
def debugReg (d : Dbg) (k : Nat) : Nat :=
  if k = 0 then d.sslot % 4 * 2 ^ 8
  else if k = 1 then d.stat
  else if 2 ≤ k && k < 6 then (d.ia[Fin.ofNat 4 (k - 2)]).toNat
  else if 6 ≤ k && k < 8 then (d.da[Fin.ofNat 2 (k - 6)]).toNat
  else 0

/-- TIMESTAT (R384). -/
def TimeUnit.stat (u : TimeUnit) : Nat :=
  min (u.hold / 1000000000) (2 ^ 32 - 1) * 2 ^ 32 + u.frozen.isSome.toNat * 2 ^ 7 + u.state % 4

/-- A BAR0 register as it reads (R325); other offsets read 0. -/
def barRead (s : State) (o : Nat) : Nat :=
  let h := s.host
  if o % 8 ≠ 0 then 0
  else if o = 0 then h.ver.toNat * 2 ^ 32 + h.tries % 16 * 2 ^ 8 + h.boot % 256
  else if o = 0x100 then h.time.stat
  else if o = 0x208 then h.ckptMs * 2 ^ 32 + h.ckptErr % 256 * 2 ^ 8 + h.ckptState % 4
  else if o = 0x300 then h.replayAddr.toNat
  else if o = 0x310 then h.replayPass % 256 * 2 ^ 8 + h.replayState % 4
  else if o = 0x400 then h.attNonce.toNat
  else if o = 0x408 then h.attRpt.toNat
  else if o = 0x418 then h.attState
  else if 0x500 ≤ o && o < 0x5A0 then logReg (h.logs[Fin.ofNat 5 ((o - 0x500) / 0x20)]) (o % 0x20 / 8)
  else if 0x600 ≤ o && o < 0x700 then mmReg s ((o - 0x600) / 0x10) (o % 0x10 = 8)
  else if 0x10000 ≤ o && o < 0x10800 then
    let x := s.ring ((o - 0x10000) / 0x20)
    match o % 0x20 / 8 with
    | 0 => x.base.toNat
    | 1 => x.cfg.toNat
    | 2 => x.tail
    | _ => x.head
  else if 0x20000 ≤ o && o < 0x20400 then bits (s.ring ((o - 0x20000) / 0x10)).err.toNat (8 * (o % 0x10)) 64
  else if 0x1000000 ≤ o && o < 0x1080000 then debugReg (s.dbg ((o - 0x1000000) / 0x100)) (o % 0x100 / 8)
  else if 0x2000000 ≤ o && o < 0x2010000 then
    let t := s.traceRegs ((o - 0x2000000) / 0x20)
    match o % 0x20 / 8 with
    | 0 => t.base.toNat
    | 1 => t.ctl.toNat
    | 2 => t.wr
    | _ => t.rd
  else 0

/-! ### The aperture -/

/-- The checks of a host access at one address (R324): none is a completer abort, a wait stands for a page in transition. -/
def hostAccess (s : State) (write : Bool) (a : Nat) : Option Acc1 :=
  match s.host.cfg with
  | none => none
  | some c =>
    if region a ≠ .virt then none
    else
      match walk s.mem a with
      | .leaf p =>
        if p.attr = 3 || inTransition s a then some (.wait (.trans p.va))
        else if p.cls = .prv || !(if write then c.hostWr else c.hostRd).contains p.dom then none
        else if p.gone s then none
        else some (.ok (s.mem.homeKey a (p.pa + (a - p.va))) p.cls)
      | _ => none

/-- The checked pieces of a host access: none is an abort. -/
def hostSpans (s : State) (write : Bool) : List (Nat × Nat) → Option Fit
  | [] => some (.ok [])
  | (a, n) :: t =>
    match hostAccess s write a, hostSpans s write t with
    | none, _ | _, none => none
    | some (.ok k c), some (.ok l) => if write && leasedTo s 0 a n then some .wait else some (.ok (⟨a, k, n, c⟩ :: l))
    | _, _ => some .wait

/-- A host access that may be made, its sectors at their L2 homes (R94). -/
def hostFetch (s : State) (write : Bool) (a n : Nat) : Option (State × Fit) :=
  match hostSpans s write (sectorPieces n a n) with
  | some (.ok _) =>
    let s := bringRange s a n .hd
    (hostSpans s write (sectorPieces n a n)).map fun f => (s, f)
  | f => f.map fun f => (s, f)

/-- A completer abort (R324). -/
def abortHost (s : State) : State := { s with host := { s.host with reply := none, replyPoison := false } }

/-- One piece of a host write at its home (R94). -/
def hostPut (s : State) (x : Span) (bs : List Byte) : State :=
  let s := if x.cls = .hc then
      let t := max s.mem.hts ((s.line (x.a / 256)).rts + 1)
      (s.setLine ⟨x.a / 256, t, t, none⟩).onMem fun m => { m with hts := t }
    else s
  s.homePut x.key bs

/-- The pieces of a host write in order. -/
def hostPutAll : List Span → List Byte → State → State
  | [], _, s => s
  | x :: t, bs, s => hostPutAll t (bs.drop x.n) (hostPut s x (bs.take x.n))

/-- The device virtual address of an aperture offset (R324). -/
def apertureAddr (s : State) (o : Nat) : Nat :=
  match s.host.cfg with
  | some c => c.aperture + o
  | none => o

/-- HOST_WRITE (R94, R125, R324, R335, R383): a write waits while a checkpoint runs or its page is in transition. -/
def execHostWrite (s : State) : Host.Outcome State Fault Refusal :=
  let i := s.input
  let n := i.bytes.length
  done (if !s.host.linkUp || s.host.ckptState = 1 then s
    else if 2 ^ 39 < i.off + n then abortHost s
    else
      match hostFetch s true (apertureAddr s i.off) n with
      | none => abortHost s
      | some (s, .ok l) =>
        let s := contributeAll 2048 [] (spanRanges l) (hostPutAll l i.bytes s)
        { s with host := { s.host with reply := some [], replyPoison := false } }
      | some _ => s)

/-- A host read recalls the owner of an HC line (R94). -/
def hostRecall (s : State) (x : Span) : State :=
  if x.cls = .hc then s.setLine { s.line (x.a / 256) with owner := none } else s

/-- A host read through the aperture (R324): the stored bytes, with the mark of poison. -/
def apertureRead (s : State) (o n : Nat) : State :=
  if 2 ^ 39 < o + n then abortHost s
  else
    match hostFetch s false (apertureAddr s o) n with
    | none => abortHost s
    | some (s, .ok l) =>
      let s := l.foldl hostRecall s
      { s with host := { s.host with
          reply := some (engineRead s l), replyPoison := l.any fun x => poisoned s x.key x.n } }
    | some _ => s

/-- HOST_READ (R324, R325): the aperture, BAR0 (port 1) or BAR2 (port 2). -/
def execHostRead (s : State) : Host.Outcome State Fault Refusal :=
  let i := s.input
  let put (bs : List Byte) : State := { s with host := { s.host with reply := some bs, replyPoison := false } }
  done (if !s.host.linkUp then s
    else
      match i.port with
      | 1 => put (leBytes 8 (barRead s i.off))
      | 2 => put (Memory.bytes s.host.staging i.off (min i.len stagingSize))
      | _ => apertureRead s i.off i.len)

/-! ### The time unit -/

/-- A change of the time unit's state is logged (R385). -/
def logTime (s : State) : State := logError s 4 13 14 0xFFFF 0 0 0

/-- TIME_REFERENCE_LOST (R384). -/
def execTimeReferenceLost (s : State) : Host.Outcome State Fault Refusal :=
  done (if s.host.time.state = 1 then logTime (s.onTime fun u => { u with state := 2, hold := 0 }) else s)

/-- TIME_RELOCK (R384): the offset is slewed away. -/
def execTimeRelock (s : State) : Host.Outcome State Fault Refusal :=
  done (if s.host.time.state = 1 then s
    else logTime (s.onTime fun u => { u with state := 1, slew := u.slew + s.input.offset }))

/-- NEGATIVE_STEP_ABSORBED (R384): the stepped time has passed the frozen value. -/
def execNegativeStepAbsorbed (s : State) : Host.Outcome State Fault Refusal :=
  done (match s.host.time.frozen with
    | some f => if s.host.time.ns ≤ f then s.onTime fun u => { u with ns := f % 2 ^ 64, frozen := none } else s
    | none => s)

end Sys2Proof.Machine
end

