-- ==== Sys2Proof/Machine/Errors.lean ====
section
/-! DEFINITION. Soft errors and scrubbing (R366 to R371, R380), the passing of a slot's own counts and messages (R39, R42, R43,
R85, R139), accesses of other packages (R98, R190), power gating (R83) and objects that move (R360). -/

namespace Sys2Proof.Machine

set_option linter.unusedVariables false

/-! ### Where an error is logged -/

/-- The die that a storage key belongs to, and so the log of its errors (R65, R66, R371): an L2 home's, an accumulator tile's, an HBM
stack's, or a window's. -/
def dieOfKey (key : Nat) : Nat :=
  if 2 ^ 61 ≤ key then homeOf (key - 2 ^ 61) / 64
  else if 2 ^ 60 ≤ key then (key - 2 ^ 60) / 0x40000 / 64 % 4
  else if key < 2 ^ 52 then (bits key 8 3 ^^^ bits key 19 3 ^^^ bits key 30 3) / 2
  else if key < 0x00F1000000000000 then dieOfCore ((key - 0x00F0000000000000) / 0x40000) % 4
  else
    match region key with
    | .floe f _ | .event f _ => f / 64
    | .die d _ | .sync d _ => d
    | _ => 4

/-- What a record gives of a granule (R371): the virtual address of a sector, which the finding brings for HBM; the window address of
SRAM; the offset of a tile. -/
def granuleAddr (s : State) (key : Nat) : Nat :=
  if 2 ^ 61 ≤ key then key - 2 ^ 61
  else if 2 ^ 60 ≤ key then key % 0x4000
  else if key < 2 ^ 52 then s.input.addr
  else if key < 0x00F1000000000000 then 0x00F0000000000000 + key % 0x40000
  else key

/-- Poisons a granule (R367). -/
def poisonAt (s : State) (g : Nat) : State := s.onMem fun m => { m with poison := addPoison m.poison g }

/-- Poisons a core's copies of a sector in its L1D or its L1I (R367). -/
def poison1 (s : State) (core a : Nat) (inst : Bool) : State :=
  s.onMem fun m =>
    if inst then { m with l1i := m.l1i.map fun c => if c.core = core && c.sector = a / 128 then { c with bad := true } else c }
    else { m with l1 := m.l1.map fun c => if c.core = core && c.sector = a / 128 then { c with bad := true } else c }

/-! ### Objects and records -/

/-- Poisons an object (R369): the waiters of a barrier or counter and the queue of a mutex are released with BROKEN. -/
def poisonObj (s : State) (h : Nat) : State :=
  match s.obj h with
  | none => s
  | some o =>
    if o.poison then s
    else
      let s := logError (s.setObj h { o with poison := true }) (if inSync h then dieOfHandle h else 4) 4
        (if o.sram then 5 else 6) 0xFFFF 1 h 0
      match o.kind with
      | .bar b => barRelease s h (fun _ => true) true b.pts
      | .cnt _ p =>
        releaseRings (s.release (fun t => t.wait.obj = some h) 2 p (some .pkg)) fun w => w.handle = h
      | .mtx m => s.release (fun t => t.wait.obj = some h) 2 m.pts (some .pkg)
      | .rime _ => s

/-- A record is discarded, its thread killed (R370). -/
def dropRecord (s : State) (r : Rec) : State :=
  let s : State := { s with
    floes := s.floes.map fun f => (f.1, { f.2 with pool := f.2.pool.erase r })
    sync := { s.sync with
      dies := s.sync.dies.map (fun d => { d with pool := d.pool.erase r })
      parked := s.sync.parked.filter fun p => p.cont ≠ r } }
  let s := s.onLaunch r.lid fun l => if l.cause = 0 then { l with cause := 0x0D } else l
  threadGone (logError s (dieOfCore r.core) 6 10 r.core 1 0 0) r.tid r.core r.lid 0

/-- The record of a thread that holds no slot. -/
def recOf (s : State) (tid : Nat) : Option Rec :=
  ((s.floes.flatMap fun f => f.2.pool) ++ (s.sync.dies.toList.flatMap fun d => d.pool) ++ s.sync.parked.map (·.cont)).find?
    fun r => r.tid = tid

/-- Kills a thread for a register-file error (R368), whatever its handler. -/
def killParity (s : State) (t : Thread) : State :=
  killThread (logError s (dieOfCore t.core) 3 7 t.core 1 0 t.corr.toNat) t .poison

/-- The statistics of a record that a die has lost (R370). -/
def losePartial (s : State) (die h : Nat) : State :=
  let s := s.onDie die fun d => { d with partials := d.partials.filter fun p => p.1 ≠ h }
  match s.rime h with
  | some r => logError (s.setKind h (.rime { r with lost := true })) die 5 5 0xFFFF 1 h 0
  | none => s

/-- SCRUB (R366 to R371, R380): what Chirnaore's scrub or an access finds. -/
def execScrub (s : State) : Host.Outcome State Fault Refusal :=
  done (match s.input.found with
    | .corrected unit key core corr n => logError s (dieOfKey key) 1 unit core n (granuleAddr s key) corr
    | .poisoned unit key core corr =>
      let g := key / granule key * granule key
      logError (poisonAt s g) (dieOfKey key) 2 unit core 1 (granuleAddr s g) corr
    | .l1 core a inst corr =>
      logError (poison1 s core a inst) (dieOfCore core) 2 0 core 1 (a / 128 * 128) corr
    | .tile f tile off =>
      let k := tileKey f (tile % 16) (off % 0x4000 / 8 * 8)
      logError (poisonAt s k) (f / 64) 2 8 0xFFFF 1 (off % 0x4000) 0
    | .slice l off =>
      match s.atLoc l with
      | none => s
      | some t =>
        let o := off / 8 * 8
        if t.gran * 0x4000 ≤ o || t.bad.contains o then s
        else logError (s.onTid t.tid fun t => { t with bad := o :: t.bad }) (dieOfCore t.core) 2 9 t.core 1 o t.corr.toNat
    | .object h => poisonObj s h
    | .record tid =>
      match recOf s tid with
      | some r => dropRecord s r
      | none => s
    | .partialStat die h => losePartial s die h
    | .parity l again =>
      match s.atLoc l with
      | some t =>
        if again then killParity s t else logError s (dieOfCore t.core) 1 7 t.core 1 0 t.corr.toNat
      | none => s
    | .vparity f =>
      (s.threads.filter fun t => floeOfCore t.core = f && 0 < t.gran).foldl killParity s
    | .clean h => { s with sync := { s.sync with retired := s.sync.retired.filter fun x => x ≠ h } }
    | .bank b =>
      if (s.bank b).poison then s
      else logError (s.setBank { s.bank b with poison := true }) 4 4 13 0xFFFF 1 b 0)

/-- ILLEGAL_INSTRUCTION (R165): the current slot's word names no instruction of its encoding version. -/
def execIllegalInstruction (s : State) : Host.Outcome State Fault Refusal :=
  done (if s.th.live then trapIllegal s else s)

/-! ### A slot's counts and messages -/

/-- Updates the thread in the event's slot. -/
def onLoc (s : State) (f : Thread → Thread) : State :=
  match s.atLoc s.input.loc with
  | some t => s.onTid t.tid f
  | none => s

/-- PAUSE_EXPIRE (R42): the last cycle of the pause. -/
def execPauseExpire (s : State) : Host.Outcome State Fault Refusal :=
  done (onLoc s fun t => if t.pause = 1 then { t with pause := 0 } else t)

/-- STALL_COUNT_EXPIRE (R39): the last cycle of W. -/
def execStallCountExpire (s : State) : Host.Outcome State Fault Refusal :=
  done (onLoc s fun t => if t.stall = 1 then { t with stall := 0 } else t)

/-- RESULT_LAND (R139): a fixed-latency result is readable; `off` names its register. -/
def execResultLand (s : State) : Host.Outcome State Fault Refusal :=
  done (onLoc s fun t => { t with pend := t.pend.map fun p => if p.reg = s.input.off then { p with landed := true } else p })

/-- PTS_TICK (R85): the last of 64 cycles, which the passing of the cycle then does not count again. -/
def execPtsTick (s : State) : Host.Outcome State Fault Refusal :=
  done (onLoc s fun t => if t.ptsFrac = 63 then { t with pts := t.pts + 1, ptsFrac := 64 } else t)

/-- Whether a thread's wake-up message is the next of its source to arrive (R100). -/
def wakesNext (s : State) (t : Thread) : Bool :=
  match t.wait with
  | .waking src c q => !(s.threads.any fun u =>
      match u.wait with
      | .waking src' c' q' => src' = src && (c' < c || (c' = c && q' < q))
      | _ => false)
  | _ => false

/-- Whether the debug module of a halted core keeps a slot's messages queued (R337): all but those of a slot that it steps. The
queue never comes to 16, since each of the core's four slots waits for one message at most. -/
def queued (s : State) (t : Thread) : Bool :=
  let d := s.dbg t.core
  d.halted && !(d.armed = some t.slot && d.stepping.isSome)

/-- WAKEUP_MESSAGE (R43, R100, R337). -/
def execWakeupMessage (s : State) : Host.Outcome State Fault Refusal :=
  done (match s.atLoc s.input.loc with
    | some t => if wakesNext s t && !queued s t then s.onTid t.tid fun t => { t with wait := .none } else s
    | none => s)

/-! ### Other packages and power management -/

/-- The new value of an atomic from another package (R98, R186): 0 add, 1 and, 2 or, 3 xor, 4 to 7 the signed and unsigned
minimum and maximum, 8 swap, 9 compare and swap. -/
def peerAmo (op w old expect val : Nat) : Option Nat :=
  match op with
  | 0 => some ((old + val) % 2 ^ w)
  | 1 => some (old &&& val)
  | 2 => some (old ||| val)
  | 3 => some (old ^^^ val)
  | 4 => some (if signed old w < signed val w then old else val)
  | 5 => some (if signed old w < signed val w then val else old)
  | 6 => some (min old val)
  | 7 => some (max old val)
  | 8 => some val
  | 9 => if old = expect then some val else none
  | _ => none

/-- The answer to another package: the bytes, and whether they are poisoned. -/
def answer (s : State) (bs : List Byte) (bad : Bool) : State :=
  { s with host := { s.host with reply := some bs, replyPoison := bad } }

/-- The address in a bound range that a byte of this package's memory has (R77, R128): none where no bound range maps it. -/
def boundAt (s : State) (pa : Nat) : Option Nat :=
  s.sync.binds.findSome? fun b =>
    (List.range (b.len / 0x10000 + 2)).findSome? fun i =>
      let a := max b.base ((b.base / 0x10000 + i) * 0x10000)
      if a < b.base + b.len then
        match walk s.mem a with
        | .leaf p =>
          let va := p.va + (pa - p.pa)
          if p.pa ≤ pa && pa < p.pa + 2 ^ p.lsz && b.base ≤ va && va < b.base + b.len then some va else none
        | _ => none
      else none

/-- Writes bytes of one sector for another package at their home (R98), with the contributions of a bound range (R125, R312). -/
def peerPut (s : State) (pa : Nat) (bs : List Byte) : State :=
  let s' := s.homePut (s.mem.frameKey pa) bs
  match boundAt s pa with
  | some va => contributeWrite s' 2048 va bs.length
  | none => s'

/-- Writes bytes for another package, sector by sector. -/
def peerPutAll (s : State) (pa : Nat) (bs : List Byte) : State :=
  ((sectorPieces bs.length pa bs.length).foldl
    (fun (x : State × List Byte) p => (peerPut x.1 p.1 (x.2.take p.2), x.2.drop p.2)) (s, bs)).1

/-- The bytes that another package reads, and whether any of them is poisoned. -/
def peerBytes (s : State) (pa n : Nat) : List Byte × Bool :=
  let l := sectorPieces n pa n
  (l.flatMap fun p => s.mem.bytes.bytes (s.mem.frameKey p.1) p.2, l.any fun p => poisoned s (s.mem.frameKey p.1) p.2)

/-- The bytes that an access from another package writes: first address and length. -/
def peerWrites : PeerAccess → Nat × Nat
  | .load _ _ => (0, 0)
  | .store pa bs => (pa, bs.length)
  | .amo _ pa n _ _ => (pa, n)
  | .red _ f pa _ => (pa, (f.width + 7) / 8)
  | .writeBack pa l => (pa, l.foldl (fun n e => max n (e.1 + 1)) 0)

/-- PEER_PACKAGE_ACCESS (R66, R98, R190, R367) to this package's memory, at its home; a write of bytes that a collective operation
has still to read waits (R93). -/
def execPeerPackageAccess (s : State) : Host.Outcome State Fault Refusal :=
  let local_ (pa n : Nat) : Bool := pa + n ≤ 2 ^ 39
  let w := peerWrites s.input.access
  done (if leasedPhys s w.1 w.2 then s else match s.input.access with
    | .load pa n => if local_ pa n then answer s (peerBytes s pa n).1 (peerBytes s pa n).2 else s
    | .store pa bs => if local_ pa bs.length then answer (peerPutAll s pa bs) [] false else s
    | .amo op pa n expect val =>
      let key := s.mem.frameKey pa
      if !local_ pa n || pa % n ≠ 0 then s
      else if poisoned s key n then answer s [] true
      else
        let old := s.mem.bytes.read key n
        let w := 8 * n
        match peerAmo op w old (expect % 2 ^ w) (val % 2 ^ w) with
        | some v => answer (peerPut s pa (leBytes n v)) (leBytes n old) false
        | none => answer s (leBytes n old) false
    | .red op f pa val =>
      if local_ pa ((f.width + 7) / 8) then
        let s' := s.onMem fun m => reduce m op f (m.frameKey pa) (val % 2 ^ f.width)
        answer (match boundAt s pa with
          | some va => contributeValue s' va (f.val (val % 2 ^ f.width))
          | none => s') [] false
      else s
    | .writeBack pa l =>
      (runs (l.map (·.1))).foldl (fun s r =>
        if local_ (pa + r.1) r.2 then
          peerPutAll s (pa + r.1) ((List.range r.2).map fun i => (look l (r.1 + i)).getD 0)
        else s) s)

/-- ISLAND_POWER_GATING (R83): a gated island's cores have empty PLBs. -/
def execIslandPowerGating (s : State) : Host.Outcome State Fault Refusal :=
  let i := s.input.island
  let s1 := s.setIsland i { s.island i with gated := s.input.good }
  done (if s.input.good then
      s1.onMem fun m => { m with plb := m.plb.filter fun e => islandOfFloe (floeOfCore e.1) ≠ i }
    else s1)

/-- Slots of a die's overflow area that objects and parked records take (R359). -/
def overflowUsed (s : State) (d : Nat) : Nat :=
  slotsUsed s d false - slotsUsed s d true + (parkedCount s d - 8192)

/-- OBJECT_MIGRATION (R360) of an object: into SRAM or into the overflow area, where there is room; a rime record stays. -/
def execObjectMigration (s : State) : Host.Outcome State Fault Refusal :=
  let h := s.input.handle
  done (match s.obj h with
    | none => s
    | some o =>
      let d := dieOfHandle h
      if !inSync h || o.kind.is .rime then s
      else if o.sram then
        (if overflowUsed s d < sharedSlots (s.die d) then s.setObj h { o with sram := false } else s)
      else if slotsUsed s d true < 65536 then s.setObj h { o with sram := true } else s)

end Sys2Proof.Machine
end

