-- ==== Sys2Proof/Machine/Float.lean ====
section
/-! DEFINITION. Scalar floating point (R174 to R176). -/

namespace Sys2Proof.Machine

set_option linter.unusedVariables false

/-- `FPValue` of an x register (R169). -/
def fpv (t : FT) (v : Word) : Val := t.fmt.val (v.toNat % 2 ^ t.fmt.width)

/-- `fadd` (R174). -/
def execFadd (d a b : Reg) (r : RM) (t : FT) (s : State) : Host.Outcome State Fault Refusal :=
  done (fpArith s r t [xr a, xr b] (fun rdn => addV rdn (fpv t (s.opX 0 a)) (fpv t (s.opX 1 b)))
    fun s v => retXFix s 4 d v)

/-- `fsub` (R174). -/
def execFsub (d a b : Reg) (r : RM) (t : FT) (s : State) : Host.Outcome State Fault Refusal :=
  done (fpArith s r t [xr a, xr b] (fun rdn => addV rdn (fpv t (s.opX 0 a)) (fpv t (s.opX 1 b)).negate)
    fun s v => retXFix s 4 d v)

/-- `fmul` (R174). -/
def execFmul (d a b : Reg) (r : RM) (t : FT) (s : State) : Host.Outcome State Fault Refusal :=
  done (fpArith s r t [xr a, xr b] (fun _ => mulE (fpv t (s.opX 0 a)) (fpv t (s.opX 1 b)))
    fun s v => retXFix s 4 d v)

/-- `fdiv` (R174), interlocked. -/
def execFdiv (d a b : Reg) (r : RM) (t : FT) (s : State) : Host.Outcome State Fault Refusal :=
  done (fpArith s r t [xr a, xr b] (fun _ => divE (fpv t (s.opX 0 a)) (fpv t (s.opX 1 b)))
    fun s v => retX s d v)

/-- `fsqrt` (R174), interlocked. -/
def execFsqrt (d a : Reg) (r : RM) (t : FT) (s : State) : Host.Outcome State Fault Refusal :=
  done (fpArith s r t [xr a] (fun _ => sqrtE (fpv t (s.opX 0 a))) fun s v => retX s d v)

/-- `fma` (R174): xd is both a source and the destination. -/
def execFma (d a b : Reg) (r : RM) (t : FT) (s : State) : Host.Outcome State Fault Refusal :=
  done (fpArith s r t [xr a, xr b, xr d]
    (fun rdn => fmaE rdn (fpv t (s.opX 0 a)) (fpv t (s.opX 1 b)) (fpv t (s.opX 2 d)))
    fun s v => retXFix s 4 d v)

/-- `fmin` (R175). -/
def execFmin (d a b : Reg) (t : FT) (s : State) : Host.Outcome State Fault Refusal :=
  done (fpPlain s [xr a, xr b] (minMax t.fmt false (s.opX 0 a).toNat (s.opX 1 b).toNat) fun s v => retXFix s 4 d v)

/-- `fmax` (R175). -/
def execFmax (d a b : Reg) (t : FT) (s : State) : Host.Outcome State Fault Refusal :=
  done (fpPlain s [xr a, xr b] (minMax t.fmt true (s.opX 0 a).toNat (s.opX 1 b).toNat) fun s v => retXFix s 4 d v)

/-- A compare as a result of 1 or 0 (R175). -/
def cmpRnd (f : Fmt) (op x y : Nat) : Rnd := let c := cmpFp f op x y; ⟨c.1.toNat, c.2⟩

/-- `feq` (R175). -/
def execFeq (d a b : Reg) (t : FT) (s : State) : Host.Outcome State Fault Refusal :=
  done (fpPlain s [xr a, xr b] (cmpRnd t.fmt 0 (s.opX 0 a).toNat (s.opX 1 b).toNat) fun s v => retXFix s 4 d v)

/-- `flt` (R175). -/
def execFlt (d a b : Reg) (t : FT) (s : State) : Host.Outcome State Fault Refusal :=
  done (fpPlain s [xr a, xr b] (cmpRnd t.fmt 1 (s.opX 0 a).toNat (s.opX 1 b).toNat) fun s v => retXFix s 4 d v)

/-- `fle` (R175). -/
def execFle (d a b : Reg) (t : FT) (s : State) : Host.Outcome State Fault Refusal :=
  done (fpPlain s [xr a, xr b] (cmpRnd t.fmt 2 (s.opX 0 a).toNat (s.opX 1 b).toNat) fun s v => retXFix s 4 d v)

/-- The value that a conversion reads (R176). -/
def cvtSrc (u : NumT) (v : Word) : Val :=
  match u with
  | .f64 => fpv .f64 v
  | .f32 => fpv .f32 v
  | .f16 => fpv .f16 v
  | .bf16 => fpv .bf16 v
  | .i64 => .ofInt v.toInt
  | .n64 => .ofInt v.toNat
  | .i32 => .ofInt (signed v.toNat 32)
  | .n32 => .ofInt ((v.toNat % 2 ^ 32 : Nat) : Int)

/-- The result of a conversion (R176): an `.i32` result is sign-extended. -/
def cvtDst (t : NumT) (md : Mode) (x : Ex) : Rnd :=
  match t with
  | .f64 => round .fp64 md false x
  | .f32 => round .fp32 md false x
  | .f16 => round .fp16 md false x
  | .bf16 => round .bf16 md false x
  | .i64 => roundInt 64 true md x
  | .n64 => roundInt 64 false md x
  | .n32 => roundInt 32 false md x
  | .i32 => let r := roundInt 32 true md x; { r with bits := unsigned (signed r.bits 32) 64 }

/-- `fcvt` (R176). -/
def execFcvt (d a : Reg) (u : NumT) (r : RM) (t : NumT) (s : State) : Host.Outcome State Fault Refusal :=
  done (fpRound s r [xr a] (fun md => cvtDst t md (cvtSrc u (s.opX 0 a)).ex) fun s v => retXFix s 4 d v)

end Sys2Proof.Machine
end

