-- ==== Sys2Proof/Machine/Integer.lean ====
section
/-! DEFINITION. Integer instructions (R171 to R173). -/

namespace Sys2Proof.Machine

set_option linter.unusedVariables false

/-- 1 or 0. -/
def boolW (b : Bool) : Word := if b then 1 else 0

/-- Leading zeros, 0 to 64 (R171). -/
def clz64 (v : Word) : Word := if v = 0 then 64 else BitVec.ofNat 64 (63 - Nat.log2 v.toNat)

/-- Trailing zeros, 0 to 64 (R171). -/
def ctz64 (v : Word) : Word := BitVec.ofNat 64 (((List.range 64).find? fun i => v.getLsbD i).getD 64)

/-- The number of one bits (R171). -/
def popc64 (v : Word) : Word := BitVec.ofNat 64 ((List.range 64).countP fun i => v.getLsbD i)

/-- A shift of the low 32 bits, sign-extended (R171). -/
def shiftW (f : BitVec 32 → Nat → BitVec 32) (a b : Word) : Word := (f (a.setWidth 32) (b.toNat % 32)).signExtend 64

/-- Bits [127:64] of a product of integers (R172). -/
def high (p : Int) : Word := BitVec.ofInt 64 (p / (2 ^ 64 : Nat))

/-- Truncating division and remainder with the edge cases of R172, at any width. -/
def divS {w : Nat} (a b : BitVec w) : BitVec w := if b = 0 then BitVec.allOnes w else a.sdiv b
def divU {w : Nat} (a b : BitVec w) : BitVec w := if b = 0 then BitVec.allOnes w else a / b
def remS {w : Nat} (a b : BitVec w) : BitVec w := if b = 0 then a else a.srem b
def remU {w : Nat} (a b : BitVec w) : BitVec w := if b = 0 then a else a % b

/-- A 32-bit operation on the low halves, sign-extended (R172). -/
def wordOp (f : BitVec 32 → BitVec 32 → BitVec 32) (a b : Word) : Word :=
  (f (a.setWidth 32) (b.setWidth 32)).signExtend 64

/-- The constant of `lui` and `auipc` (R173). -/
def upper (i : BitVec 19) : Word := ((i.setWidth 32) <<< 13).signExtend 64

/-- `add` (R171). -/
def execAdd (d a b : Reg) (s : State) : Host.Outcome State Fault Refusal :=
  done (opXX s d a b fun a b => a + b)

/-- `sub` (R171). -/
def execSub (d a b : Reg) (s : State) : Host.Outcome State Fault Refusal :=
  done (opXX s d a b fun a b => a - b)

/-- `and` (R171). -/
def execAnd (d a b : Reg) (s : State) : Host.Outcome State Fault Refusal :=
  done (opXX s d a b fun a b => a &&& b)

/-- `or` (R171). -/
def execOr (d a b : Reg) (s : State) : Host.Outcome State Fault Refusal :=
  done (opXX s d a b fun a b => a ||| b)

/-- `xor` (R171). -/
def execXor (d a b : Reg) (s : State) : Host.Outcome State Fault Refusal :=
  done (opXX s d a b fun a b => a ^^^ b)

/-- `sll` (R171). -/
def execSll (d a b : Reg) (s : State) : Host.Outcome State Fault Refusal :=
  done (opXX s d a b fun a b => a <<< (b.toNat % 64))

/-- `srl` (R171). -/
def execSrl (d a b : Reg) (s : State) : Host.Outcome State Fault Refusal :=
  done (opXX s d a b fun a b => a >>> (b.toNat % 64))

/-- `sra` (R171). -/
def execSra (d a b : Reg) (s : State) : Host.Outcome State Fault Refusal :=
  done (opXX s d a b fun a b => a.sshiftRight (b.toNat % 64))

/-- `slt` (R171). -/
def execSlt (d a b : Reg) (s : State) : Host.Outcome State Fault Refusal :=
  done (opXX s d a b fun a b => boolW (a.slt b))

/-- `sltu` (R171). -/
def execSltu (d a b : Reg) (s : State) : Host.Outcome State Fault Refusal :=
  done (opXX s d a b fun a b => boolW (a.ult b))

/-- `min` (R171). -/
def execMin (d a b : Reg) (s : State) : Host.Outcome State Fault Refusal :=
  done (opXX s d a b fun a b => if a.slt b then a else b)

/-- `max` (R171). -/
def execMax (d a b : Reg) (s : State) : Host.Outcome State Fault Refusal :=
  done (opXX s d a b fun a b => if a.slt b then b else a)

/-- `minu` (R171). -/
def execMinu (d a b : Reg) (s : State) : Host.Outcome State Fault Refusal :=
  done (opXX s d a b fun a b => if a.ult b then a else b)

/-- `maxu` (R171). -/
def execMaxu (d a b : Reg) (s : State) : Host.Outcome State Fault Refusal :=
  done (opXX s d a b fun a b => if a.ult b then b else a)

/-- `addw` (R171). -/
def execAddw (d a b : Reg) (s : State) : Host.Outcome State Fault Refusal :=
  done (opXX s d a b fun a b => sx32 (a + b))

/-- `subw` (R171). -/
def execSubw (d a b : Reg) (s : State) : Host.Outcome State Fault Refusal :=
  done (opXX s d a b fun a b => sx32 (a - b))

/-- `sllw` (R171). -/
def execSllw (d a b : Reg) (s : State) : Host.Outcome State Fault Refusal :=
  done (opXX s d a b fun a b => shiftW (fun x n => x <<< n) a b)

/-- `srlw` (R171). -/
def execSrlw (d a b : Reg) (s : State) : Host.Outcome State Fault Refusal :=
  done (opXX s d a b fun a b => shiftW (fun x n => x >>> n) a b)

/-- `sraw` (R171). -/
def execSraw (d a b : Reg) (s : State) : Host.Outcome State Fault Refusal :=
  done (opXX s d a b fun a b => shiftW (fun x n => x.sshiftRight n) a b)

/-- `clz` (R171). -/
def execClz (d a : Reg) (s : State) : Host.Outcome State Fault Refusal := done (opX1 s d a clz64)

/-- `ctz` (R171). -/
def execCtz (d a : Reg) (s : State) : Host.Outcome State Fault Refusal := done (opX1 s d a ctz64)

/-- `popc` (R171). -/
def execPopc (d a : Reg) (s : State) : Host.Outcome State Fault Refusal := done (opX1 s d a popc64)

/-- `mul` (R172): readable after 3 cycles. -/
def execMul (d a b : Reg) (s : State) : Host.Outcome State Fault Refusal :=
  done (opXXFix s 3 d a b fun a b => a * b)

/-- `mulh` (R172): readable after 3 cycles. -/
def execMulh (d a b : Reg) (s : State) : Host.Outcome State Fault Refusal :=
  done (opXXFix s 3 d a b fun a b => high (a.toInt * b.toInt))

/-- `mulhu` (R172): readable after 3 cycles. -/
def execMulhu (d a b : Reg) (s : State) : Host.Outcome State Fault Refusal :=
  done (opXXFix s 3 d a b fun a b => high ((a.toNat : Int) * b.toNat))

/-- `mulhsu` (R172): readable after 3 cycles. -/
def execMulhsu (d a b : Reg) (s : State) : Host.Outcome State Fault Refusal :=
  done (opXXFix s 3 d a b fun a b => high (a.toInt * b.toNat))

/-- `mulw` (R172): readable after 3 cycles. -/
def execMulw (d a b : Reg) (s : State) : Host.Outcome State Fault Refusal :=
  done (opXXFix s 3 d a b fun a b => sx32 (a * b))

/-- `div` (R172). -/
def execDiv (d a b : Reg) (s : State) : Host.Outcome State Fault Refusal :=
  done (opXX s d a b fun a b => divS a b)

/-- `divu` (R172). -/
def execDivu (d a b : Reg) (s : State) : Host.Outcome State Fault Refusal :=
  done (opXX s d a b fun a b => divU a b)

/-- `rem` (R172). -/
def execRem (d a b : Reg) (s : State) : Host.Outcome State Fault Refusal :=
  done (opXX s d a b fun a b => remS a b)

/-- `remu` (R172). -/
def execRemu (d a b : Reg) (s : State) : Host.Outcome State Fault Refusal :=
  done (opXX s d a b fun a b => remU a b)

/-- `divw` (R172). -/
def execDivw (d a b : Reg) (s : State) : Host.Outcome State Fault Refusal :=
  done (opXX s d a b fun a b => wordOp divS a b)

/-- `divuw` (R172). -/
def execDivuw (d a b : Reg) (s : State) : Host.Outcome State Fault Refusal :=
  done (opXX s d a b fun a b => wordOp divU a b)

/-- `remw` (R172). -/
def execRemw (d a b : Reg) (s : State) : Host.Outcome State Fault Refusal :=
  done (opXX s d a b fun a b => wordOp remS a b)

/-- `remuw` (R172). -/
def execRemuw (d a b : Reg) (s : State) : Host.Outcome State Fault Refusal :=
  done (opXX s d a b fun a b => wordOp remU a b)

/-- `addi` (R173). -/
def execAddi (d a : Reg) (i : BitVec 14) (s : State) : Host.Outcome State Fault Refusal :=
  done (opX1 s d a fun v => v + i.signExtend 64)

/-- `andi` (R173). -/
def execAndi (d a : Reg) (i : BitVec 14) (s : State) : Host.Outcome State Fault Refusal :=
  done (opX1 s d a fun v => v &&& i.signExtend 64)

/-- `ori` (R173). -/
def execOri (d a : Reg) (i : BitVec 14) (s : State) : Host.Outcome State Fault Refusal :=
  done (opX1 s d a fun v => v ||| i.signExtend 64)

/-- `xori` (R173). -/
def execXori (d a : Reg) (i : BitVec 14) (s : State) : Host.Outcome State Fault Refusal :=
  done (opX1 s d a fun v => v ^^^ i.signExtend 64)

/-- `slti` (R173). -/
def execSlti (d a : Reg) (i : BitVec 14) (s : State) : Host.Outcome State Fault Refusal :=
  done (opX1 s d a fun v => boolW (v.slt (i.signExtend 64)))

/-- `slli` (R173). -/
def execSlli (d a : Reg) (n : BitVec 6) (s : State) : Host.Outcome State Fault Refusal :=
  done (opX1 s d a fun v => v <<< n.toNat)

/-- `srli` (R173). -/
def execSrli (d a : Reg) (n : BitVec 6) (s : State) : Host.Outcome State Fault Refusal :=
  done (opX1 s d a fun v => v >>> n.toNat)

/-- `srai` (R173). -/
def execSrai (d a : Reg) (n : BitVec 6) (s : State) : Host.Outcome State Fault Refusal :=
  done (opX1 s d a fun v => v.sshiftRight n.toNat)

/-- `lui` (R173). -/
def execLui (d : Reg) (i : BitVec 19) (s : State) : Host.Outcome State Fault Refusal := done (retX s d (upper i))

/-- `auipc` (R173). -/
def execAuipc (d : Reg) (i : BitVec 19) (s : State) : Host.Outcome State Fault Refusal :=
  done (retX s d (s.th.pc + upper i))

end Sys2Proof.Machine
end

