-- ==== Sys2Proof/Machine/Memory.lean ====
section
/-! DEFINITION. Scalar memory instructions: loads, stores, prefetch, acquire and release, atomics, reduction stores, cache
maintenance and fences (R183 to R193). -/

namespace Sys2Proof.Machine

set_option linter.unusedVariables false

/-- The size in bytes and the signedness of a load kind (R149). -/
def ldSize : LdK → Nat
  | .i8 | .n8 => 1 | .i16 | .n16 => 2 | .i32 | .n32 => 4 | .i64 => 8
def ldExt (k : LdK) (v : Nat) : Word :=
  match k with
  | .i8 => sxN v 8 | .i16 => sxN v 16 | .i32 => sxN v 32
  | _ => BitVec.ofNat 64 v

def stSize : StK → Nat
  | .i8 => 1 | .i16 => 2 | .i32 => 4 | .i64 => 8

/-- The effective address (R183). -/
def ea (v : Word) (o : BitVec 9) (size : Nat) : Nat := (v + BitVec.ofInt 64 (o.toInt * size)).toNat

/-- `ld` (R183). -/
def execLd (d a : Reg) (k : LdK) (h : Hint) (o : BitVec 9) (s : State) : Host.Outcome State Fault Refusal :=
  let n := ldSize k
  let e := ea (s.opX 0 a) o n
  done (attempt s false [xr a] false
    (access s .rd e n fun key cls => let r := loadAt s e key n cls h false; retX r.2 d (ldExt k r.1)))

/-- `st` (R183). -/
def execSt (x a : Reg) (k : StK) (h : Hint) (o : BitVec 9) (s : State) : Host.Outcome State Fault Refusal :=
  let n := stSize k
  let e := ea (s.opX 0 a) o n
  done (attempt s false [xr a, xr x] false
    (access s .wr e n fun key cls => retire (storeAt s e key n (s.opX 1 x).toNat cls h)))

/-- The fill that a prefetch asks for (R184): into L2, and into L1 unless it bypasses it. It has no place in the order. -/
def prefetch (s : State) (a : Nat) (h : Hint) : State :=
  match resolveE s s.th.core s.tenant .rd a with
  | .ok key cls =>
    if cls = .bank || poisoned s (key - a % 128) 128 then s
    else
      let phys := s.mem.physKey key
      let s := (bringIn s a h true).touch2 a h
      let key := s.mem.homeKey a phys
      if h = .hb then s
      else
        match cls with
        | .hc =>
          let l := s.line (a / 256)
          if l.owner = some s.th.core then s
          else
            let rts := max l.rts (s.th.pts + s.th.lease - 1)
            keepCopy (s.setLine { l with owner := none, rts := rts }) (newCopy s a key true l.wts rts h)
        | .swc | .peer =>
          match s.copyOf s.th.core a false with
          | some c => keepCopy s (touch c h)
          | none => keepCopy s (newCopy s a key false 0 0 h)
        | .prv => keepCopy s (touch (newCopy s a key true 0 0 (((s.copyOf s.th.core a true).map (·.hint)).getD h)) h)
        | .bank => s
  | _ => s

/-- `pf` (R184). -/
def execPf (a : Reg) (h : Hint) (o : BitVec 9) (s : State) : Host.Outcome State Fault Refusal :=
  let e := ea (s.opX 0 a) o 128
  done (attempt s false [xr a] false
    (if 2 ^ 57 ≤ e then trap s .prot e 0 else retire (prefetch s e h)))

/-- `ld.acq` (R185): the load, renewed at the home on HC memory (R94), then an acquire (R96); on an SRAM window a plain
load. -/
def execLdAcq (d a : Reg) (h : Hint) (z : AqZ) (sc : Scope) (s : State) : Host.Outcome State Fault Refusal :=
  let n := match z with | .i64 => 8 | _ => 4
  let e := (s.opX 0 a).toNat
  let ext (v : Nat) : Word := match z with | .i32 => sxN v 32 | _ => BitVec.ofNat 64 v
  done (attempt s false [xr a] false
    (access s .rd e n (fun key cls =>
      let r := loadAt s e key n cls h true
      retX (if cls = .bank then r.2 else fenceAcq r.2 sc) d (ext r.1)) fun c => c = .hc))

/-- `st.rel` (R185): a release (R97), then the store; on an SRAM window a plain store. -/
def execStRel (a b : Reg) (h : Hint) (z : AmZ) (sc : Scope) (s : State) : Host.Outcome State Fault Refusal :=
  let n := match z with | .i64 => 8 | .i32 => 4
  let e := (s.opX 0 a).toNat
  done (attempt s false [xr a, xr b] false
    (access s .wr e n fun key cls =>
      retire (storeAt (if cls = .bank then s else fenceRel s sc) e key n (s.opX 1 b).toNat cls h)))

/-! ### Atomics -/

def amSize : AmZ → Nat
  | .i32 => 4 | .i64 => 8

/-- An atomic to another package's memory whose ticket or acknowledgement is lost traps (R375), performed there or not; `t` is
the state once it has been performed. -/
def ticket (s t : State) (e : Nat) (cls : Cls) (k : State) : State :=
  match s.lossy, cls with
  | some true, .peer => trap { t with th := s.th } .prot e 4
  | some false, .peer => trap s .prot e 4
  | _, _ => k

/-- An integer atomic (R186): `f` gives the new value from the old one, none for a failed `amocas`. -/
def atomic (s : State) (d a : Reg) (srcs : List Nat) (z : AmZ) (h : Hint) (f : Nat → Option Nat) : State :=
  let n := amSize z
  let e := (s.opX 0 a).toNat
  attempt s false (xr a :: srcs) false
    (accessRW s e n fun key cls =>
      let k := atomicKey s key cls
      let s1 := atomicTake s e key n cls
      let old := s1.mem.bytes.read k n
      let s2 := match f old with
        | some v => atomicPut s1 e k n v cls h
        | none => atomicRead s e key n cls h
      ticket s s2 e cls (retX s2 d (sxN old (8 * n))))

/-- An atomic of two values at its size (R186). -/
def amo (s : State) (d a b : Reg) (z : AmZ) (h : Hint) (f : Nat → Nat → Nat → Nat) : State :=
  atomic s d a [xr b] z h fun old =>
    let w := 8 * amSize z
    some (f w old ((s.opX 1 b).toNat % 2 ^ w) % 2 ^ w)

/-- `amoadd` (R186). -/
def execAmoadd (d a b : Reg) (h : Hint) (z : AmZ) (s : State) : Host.Outcome State Fault Refusal :=
  done (amo s d a b z h fun _ x y => x + y)

/-- `amoand` (R186). -/
def execAmoand (d a b : Reg) (h : Hint) (z : AmZ) (s : State) : Host.Outcome State Fault Refusal :=
  done (amo s d a b z h fun _ x y => x &&& y)

/-- `amoor` (R186). -/
def execAmoor (d a b : Reg) (h : Hint) (z : AmZ) (s : State) : Host.Outcome State Fault Refusal :=
  done (amo s d a b z h fun _ x y => x ||| y)

/-- `amoxor` (R186). -/
def execAmoxor (d a b : Reg) (h : Hint) (z : AmZ) (s : State) : Host.Outcome State Fault Refusal :=
  done (amo s d a b z h fun _ x y => x ^^^ y)

/-- `amomin` (R186). -/
def execAmomin (d a b : Reg) (h : Hint) (z : AmZ) (s : State) : Host.Outcome State Fault Refusal :=
  done (amo s d a b z h fun w x y => if signed x w < signed y w then x else y)

/-- `amomax` (R186). -/
def execAmomax (d a b : Reg) (h : Hint) (z : AmZ) (s : State) : Host.Outcome State Fault Refusal :=
  done (amo s d a b z h fun w x y => if signed x w < signed y w then y else x)

/-- `amominu` (R186). -/
def execAmominu (d a b : Reg) (h : Hint) (z : AmZ) (s : State) : Host.Outcome State Fault Refusal :=
  done (amo s d a b z h fun _ x y => min x y)

/-- `amomaxu` (R186). -/
def execAmomaxu (d a b : Reg) (h : Hint) (z : AmZ) (s : State) : Host.Outcome State Fault Refusal :=
  done (amo s d a b z h fun _ x y => max x y)

/-- `amoswap` (R186). -/
def execAmoswap (d a b : Reg) (h : Hint) (z : AmZ) (s : State) : Host.Outcome State Fault Refusal :=
  done (amo s d a b z h fun _ _ y => y)

/-- `amocas` (R186): compares with the old xd at the size. -/
def execAmocas (d a b : Reg) (h : Hint) (z : AmZ) (s : State) : Host.Outcome State Fault Refusal :=
  let w := 8 * amSize z
  done (atomic s d a [xr b, xr d] z h fun old =>
    if old = (s.opX 2 d).toNat % 2 ^ w then some ((s.opX 1 b).toNat % 2 ^ w) else none)

/-- The format of `famoadd` (R150). -/
def faFmt : FaZ → Fmt
  | .f32 => .fp32 | .f64 => .fp64 | .f16 => .fp16 | .bf16 => .bf16

/-- Whether an address is one that `famoadd` accepts (R187). -/
def famoRegion (a : Nat) : Bool :=
  match region a with
  | .scratch _ | .floe _ _ => true
  | _ => false

/-- `famoadd` (R187, R119). -/
def execFamoadd (d a b : Reg) (h : Hint) (z : FaZ) (s : State) : Host.Outcome State Fault Refusal :=
  let f := faFmt z
  let n := f.width / 8
  let e := (s.opX 0 a).toNat
  done (attempt s false [xr a, xr b] false
    (if e % n ≠ 0 then trap s .misalign e 0
     else if !famoRegion e then trap s .prot e 3
     else accessRW s e n fun key cls =>
       let s1 := atomicTake s e key n cls
       let old := s1.mem.bytes.read key n
       let r := round f .rne false (addV false (f.val old) (f.val ((s.opX 1 b).toNat % 2 ^ f.width)))
       retX ((atomicPut s1 e key n r.bits cls h).flags r.flags) d (BitVec.ofNat 64 old)))

/-! ### Reduction stores -/

/-- A reduction store (R189 to R191): at the home, as a write, with its rime contribution (R126), or at the owner of another
package's memory (R190). The issuing core's own dirty bytes of the sector go there first and its copy is dropped, so that its
later loads see the result (R95). -/
def redStore (s : State) (a b : Reg) (op : Nat) (f : Fmt) (h : Hint) : State :=
  let n := f.width / 8
  let e := (s.opX 0 a).toNat
  let v := (s.opX 1 b).toNat % 2 ^ f.width
  attempt s false [xr a, xr b] false
    (access s .wr e n (fun key cls =>
      let k := atomicKey s key cls
      if cls = .bank then trap s .prot e 0
      else if cls = .peer && s.lostAt k then trap s .prot e 4
      else
        let s := noteOwn s e
        let s1 := match cls with
          | .hc => (hcTake s e false).touch2 e h
          | .prv => s.touch2 e h
          | .peer => handOver (cleanCopy s s.th.core e false) e cls
          | _ => (cleanCopy s s.th.core e false).touch2 e h
        let s2 := s1.onMem fun m => reduce m op f k v
        retire (if cls = .peer then s2 else contributeValue s2 e (f.val v))) fun _ => true)

/-- `red.add` (R189). -/
def execRedAdd (a b : Reg) (h : Hint) (f : Fmt) (s : State) : Host.Outcome State Fault Refusal :=
  done (redStore s a b 0 f h)

/-- `red.min` (R189). -/
def execRedMin (a b : Reg) (h : Hint) (f : Fmt) (s : State) : Host.Outcome State Fault Refusal :=
  done (redStore s a b 1 f h)

/-- `red.max` (R189). -/
def execRedMax (a b : Reg) (h : Hint) (f : Fmt) (s : State) : Host.Outcome State Fault Refusal :=
  done (redStore s a b 2 f h)

/-! ### Cache maintenance and fences -/

/-- Whether a sector's page is mapped as software coherent: others are left alone (R192). -/
def swcPage (s : State) (a : Nat) : Bool :=
  match walk s.mem a with
  | .leaf p => p.cls = .swc || p.cls = .peer
  | _ => false

/-- A cache-maintenance form (R192): `f` on the issuing core's SWC copies that meet a byte range and, at scope `.sys`, `g` on the
sectors of other packages' memory that meet it in L2. An address above the implemented bits traps PROT (R57). -/
def cacheRange (s : State) (a b : Reg) (sc : Scope) (f : State → Copy1 → State) (g : State → Copy2 → State) : State :=
  let e := (s.opX 0 a).toNat
  let n := (s.opX 1 b).toNat
  let hit (sector : Nat) : Bool := sector * 128 < e + n && e < sector * 128 + 128
  attempt s false [xr a, xr b] false
    (if n = 0 then retire s
     else if 2 ^ 57 ≤ e then trap s .prot e 0
     else if 2 ^ 57 < e + n then trap s .prot (2 ^ 57) 0
     else
       let s := (s.mem.l1.filter fun c =>
         c.core = s.th.core && !c.hc && hit c.sector && swcPage s (c.sector * 128)).foldl f s
       retire (if sc = .sys then
           (s.mem.l2.filter fun c => 2 ^ 40 ≤ c.key && hit c.sector && swcPage s (c.sector * 128)).foldl g s
         else s))

/-- `cwb` (R192). -/
def execCwb (a b : Reg) (sc : Scope) (s : State) : Host.Outcome State Fault Refusal :=
  done (cacheRange s a b sc (fun s c => cleanCopy s c.core (c.sector * 128) true) State.clean2)

/-- `cinv` (R192). -/
def execCinv (a b : Reg) (sc : Scope) (s : State) : Host.Outcome State Fault Refusal :=
  done (cacheRange s a b sc (fun s c => loseCopy s c.core (c.sector * 128)) fun s c => s.onMem fun m => forget2 m c)

/-- `cwbinv` (R192). -/
def execCwbinv (a b : Reg) (sc : Scope) (s : State) : Host.Outcome State Fault Refusal :=
  done (cacheRange s a b sc (fun s c => cleanCopy s c.core (c.sector * 128) false) State.drop2)

/-- `fence.acq.core` (R97, R193): an acquire at the scope. -/
def execFenceAcqCore (s : State) : Host.Outcome State Fault Refusal := done (retire (fenceAcq s .core))

/-- `fence.acq.floe` (R97, R193): an acquire at the scope. -/
def execFenceAcqFloe (s : State) : Host.Outcome State Fault Refusal := done (retire (fenceAcq s .floe))

/-- `fence.acq.die` (R97, R193): an acquire at the scope. -/
def execFenceAcqDie (s : State) : Host.Outcome State Fault Refusal := done (retire (fenceAcq s .die))

/-- `fence.acq.pkg` (R97, R193): an acquire at the scope. -/
def execFenceAcqPkg (s : State) : Host.Outcome State Fault Refusal := done (retire (fenceAcq s .pkg))

/-- `fence.acq.sys` (R97, R193): an acquire at the scope. -/
def execFenceAcqSys (s : State) : Host.Outcome State Fault Refusal := done (retire (fenceAcq s .sys))

/-- `fence.rel.core` (R97, R193): a release at the scope. -/
def execFenceRelCore (s : State) : Host.Outcome State Fault Refusal := done (retire (fenceRel s .core))

/-- `fence.rel.floe` (R97, R193): a release at the scope. -/
def execFenceRelFloe (s : State) : Host.Outcome State Fault Refusal := done (retire (fenceRel s .floe))

/-- `fence.rel.die` (R97, R193): a release at the scope. -/
def execFenceRelDie (s : State) : Host.Outcome State Fault Refusal := done (retire (fenceRel s .die))

/-- `fence.rel.pkg` (R97, R193): a release at the scope. -/
def execFenceRelPkg (s : State) : Host.Outcome State Fault Refusal := done (retire (fenceRel s .pkg))

/-- `fence.rel.sys` (R97, R193): a release at the scope. -/
def execFenceRelSys (s : State) : Host.Outcome State Fault Refusal := done (retire (fenceRel s .sys))

/-- `fence.sc.core` (R97, R193): a release and an acquire at the scope. -/
def execFenceScCore (s : State) : Host.Outcome State Fault Refusal := done (retire (fenceAcq (fenceRel s .core) .core))

/-- `fence.sc.floe` (R97, R193): a release and an acquire at the scope. -/
def execFenceScFloe (s : State) : Host.Outcome State Fault Refusal := done (retire (fenceAcq (fenceRel s .floe) .floe))

/-- `fence.sc.die` (R97, R193): a release and an acquire at the scope. -/
def execFenceScDie (s : State) : Host.Outcome State Fault Refusal := done (retire (fenceAcq (fenceRel s .die) .die))

/-- `fence.sc.pkg` (R97, R193): a release and an acquire at the scope. -/
def execFenceScPkg (s : State) : Host.Outcome State Fault Refusal := done (retire (fenceAcq (fenceRel s .pkg) .pkg))

/-- `fence.sc.sys` (R97, R193): a release and an acquire at the scope. -/
def execFenceScSys (s : State) : Host.Outcome State Fault Refusal := done (retire (fenceAcq (fenceRel s .sys) .sys))

end Sys2Proof.Machine
end

