-- ==== Sys2Proof/Machine/Pick.lean ====
section
/-! DEFINITION. The steps of other agents that are enabled, from which the machine takes one when no turn is given (R6): a
choice of this model among those that the spec leaves to timing. Steps whose outcome the outside world decides are not among
them. -/

namespace Sys2Proof.Machine

set_option linter.unusedVariables false

/-- An event with its input. -/
abbrev Event := Instr × Input

/-- An event when a condition holds. -/
def ev (c : Bool) (i : Instr) (x : Input) : List Event := if c then [(i, x)] else []

/-- What a slot waits for from another agent (R43, R82, R351), and its stream ports (R218). -/
def slotEvents (s : State) (t : Thread) : List Event :=
  let l : Loc := ⟨t.core, t.slot⟩
  (match t.wait with
    | .waking _ _ _ => ev (wakesNext s t && !queued s t) .wakeupMessage { loc := l }
    | .walk _ _ => [(.walkComplete, { loc := l })]
    | _ => []) ++
  t.ports.flatMap fun e =>
    let p := e.2
    ev (p.write && p.queue ≠ []) .streamPushWrite { loc := l, port := e.1 } ++
      ev (!p.write && p.ahead.length < 8 && p.done + p.ahead.length < p.count && !(p.ahead.any fun f => f.fail.isSome))
        .streamFetch { loc := l, port := e.1 }

/-- A floe's copy engine (R247, R248). -/
def copyEvents (f : Nat) (x : Floe) : List Event :=
  match x.copies with
  | [] => []
  | c :: _ =>
    let r := x.ring c.view.ring
    if c.status.isSome then [(.copyComplete, { floe := f })]
    else if !c.run then [(.copyStart, { floe := f })]
    else ev ((r.tail + 65536 - r.head) % 65536 ≠ r.cap) .copyRingTile { floe := f }

/-- A floe's pool (R48). -/
def poolEvents (s : State) (f : Nat) (x : Floe) : List Event :=
  match x.pool with
  | [] => []
  | r :: _ => ev (r.since + 4096 ≤ s.host.cycle && (s.die (f / 64)).pool.length < dieCap (s.die (f / 64)))
      .floePoolMigration { floe := f }

/-- Partials of rime records that a die may fold (R131). -/
def foldEvents (s : State) : List Event :=
  (List.range 4).flatMap fun d => (s.die d).partials.flatMap fun p =>
    ev (p.2.1 + 256 ≤ s.host.cycle) .rimeFold { die := d, handle := p.1 }

/-- Idle slots that may take up a record (R49). -/
def takeUpEvents (s : State) : List Event :=
  if (s.floes.all fun f => f.2.pool = []) && s.sync.dies.toList.all fun d => d.pool = [] then []
  else
    ((s.lp.launches.filter fun l => l.state = .running).flatMap Launch.cores).flatMap fun c =>
      match freeSlots s c with
      | [] => []
      | k :: _ => ev ((chooseRec s c).isSome && !slotHeld s c && !(s.island (islandOfFloe (floeOfCore c))).gated)
          .recordTakeUp { loc := ⟨c, k⟩ }

/-- The launch processor's steps (R32 to R35, R52 to R56). -/
def launchEvents (s : State) : List Event :=
  (s.lp.rings.flatMap fun r => ev (r.2.pend.isSome && s.lp.launches.length < 256 && !pendBefore s r.1) .launchAccept { ring := r.1 }) ++
  s.lp.launches.flatMap fun l =>
    match l.state with
    | .accepted =>
      ev (startsNow s l) .launchStart { lid := l.lid } ++
        (match victim s l with
          | some v => ev (!heldByDebug s v) .preemption { lid := v.lid }
          | none => [])
    | .running =>
      ev (!(s.threads.any fun t => t.lid = l.lid) && !pooled s l.lid && !engineWork s l.lid) .launchComplete { lid := l.lid } ++
        ev (s.lp.stopped && !heldByDebug s l) .preemption { lid := l.lid }
    | .stopping => ev (!(l.floes.any fun f => floeGoes (s.floe f) l.lid) &&
        !s.threads.any fun t => t.lid = l.lid && mustFinish t) .preemptionSave { lid := l.lid }
    | .ending => ev (!s.threads.any fun t => t.lid = l.lid) .launchComplete { lid := l.lid }
    | .out => ev (l.logBad ≠ 0 || comesBack s l) .restore { lid := l.lid }

/-- The event that reads a packet of a kind. -/
def packetEvent (k : Nat) : Instr :=
  match k with
  | 1 => .waitOnObject
  | 2 => .signalArrival
  | 3 => .signalCntAdd
  | 4 => .routerConfigSet
  | 5 => .routerConfigGet
  | 6 => .routerConfigClear
  | 7 => .timeStep
  | 8 => .timeSlew
  | 9 => .changeAttribute
  | 10 => .compress
  | 11 => .shootDown
  | _ => .launch

/-- The packets of rings in device memory, and those of other rings that have been read over the link (R31). -/
def ringEvents (s : State) : List Event :=
  s.lp.rings.flatMap fun r =>
    if r.1 < 64 && (r.2.loc || r.2.seen ≠ []) && ringDue s r.1 && !outranked s r.1 then
      match readHead s r.2 with
      | .packet bs => [(packetEvent (packetKind bs), { ring := r.1, src := .ring r.1 })]
      | _ => [(.launch, { ring := r.1 })]
    else []

/-- Memory-management requests (R329). -/
def mmEvents (s : State) : List Event :=
  s.lp.tenants.flatMap fun t =>
    (match postedReq s t.id with
      | some q => [(packetEvent (9 + if 2 < q.action then 0 else q.action), { src := .tenant t.id })]
      | none => []) ++
    match s.lp.mm.find? fun r => r.tenant = t.id with
    | some r =>
      [(if r.stage = 2 then .shootdownComplete else .mmRequestComplete, { tenant := t.id })]
    | none => []

/-- Whether a stream of this package can go on, or has come to its end (R302, R307). -/
def flowGoes (s : State) (p : Plan) (f : Flow) : Bool :=
  !p.isDry f && (p.starved s f || (p.pos f < p.ready_ s f && hasUnit s p f))

/-- The steps of a plan of which all is held (R302 to R304, R281), or that still reserves (R306). -/
def planEvents (s : State) (p : Plan) : List Event :=
  let x : Input := { group := p.group }
  if !p.ready then [(.planReservation, x)]
  else
    ((p.ownFlows s).filter (flowGoes s p)).map (fun f =>
      match f with
      | .cast _ => (if p.alg = 3 then .reductionWindowComplete else .collectiveStep, { x with flow := f })
      | _ => (.collectiveStep, { x with flow := f })) ++
    if p.own = [] && p.elems ≤ p.pos (.cast 0) then
      ((p.mcTargets s).filter fun t => !p.written.contains t.1).map fun t => (.chunkDelivery, { x with rank := t.1 })
    else []

/-- The expander's steps for one operation (R302 to R304, R274, R378). -/
def opEvents (s : State) (o : FabOp) : List Event :=
  let x : Input := { addr := o.addr, seq := o.mc.toNat, tenant := o.by_.tenant }
  if o.stage = .issued then ev (mayForward s o) .blockForward { x with fwd := .own o.addr, group := o.group }
  else if o.status.isSome then
    ev (o.mc || cutOff s o || match planOf s o.id with
      | some p => (statusesOf s o p).isSome
      | none => !inMatched s o) .collectiveDecided x
  else
    match planOf s o.id with
    | none => []
    | some p =>
      if !p.ready then []
      else if o.mc then
        ((p.mcTargets s).filter fun t => !p.written.contains t.1 && p.elems ≤ p.pos (.cast 0)).map fun t =>
          (.chunkDelivery, { x with rank := t.1 })
      else (List.range o.chunkCount).flatMap fun q =>
        ev (!o.chunks.contains q && o.chunkFinal q) .chunkDelivery { x with chunk := q }

/-- The expander's steps (R300 to R308). -/
def fabEvents (s : State) : List Event :=
  s.fab.ops.flatMap (opEvents s) ++
  (s.fab.coords.flatMap fun c =>
    ev (c.order ≠ [] && !(s.fab.plans.any fun p => p.group = c.id)) .blockAdmit { group := c.id }) ++
  s.fab.plans.flatMap (planEvents s)

/-- The router's steps (R283 to R319). -/
def runEvents (s : State) : List Event :=
  s.fab.runs.flatMap fun r =>
    let x : Input := { addr := r.addr, tenant := r.by_.tenant }
    if r.failed then [(.routerRunEnd, x)]
    else if !r.begun then ev (firstOnBank s r) .runBegin x
    else if r.left = [] then [(.routerRunEnd, x)]
    else if r.rounds < r.view.lim then [(.biddingRound, x)]
    else [(.routerCompletion, x)]

/-- Debug steps, the time unit, attestation and replay (R334, R337, R340, R384). -/
def hostEvents (s : State) : List Event :=
  (s.host.dbg.flatMap fun d =>
    match d.armed, d.stepping with
    | some _, some (_, tid, since) => ev (stepOver s d.core tid && !asyncWork s tid since) .debugStepDone { core := d.core }
    | _, _ => []) ++
  (match s.host.time.frozen with
    | some f => ev (s.host.time.ns ≤ f) .negativeStepAbsorbed {}
    | none => []) ++
  ev (s.host.attState = 1) .attestationReport {} ++
  ev (s.host.replayState = 1 && (s.host.replayLid = noLid || (s.launch s.host.replayLid).isNone)) .replayPassEnd {}

/-- Every enabled step of another agent. -/
def events (s : State) : List Event :=
  s.threads.flatMap (slotEvents s) ++ (s.mem.expand.map fun va => (.expansionComplete, { addr := va })) ++
  (s.floes.flatMap fun f => copyEvents f.1 f.2 ++ poolEvents s f.1 f.2) ++ foldEvents s ++ takeUpEvents s ++ launchEvents s ++ ringEvents s ++ mmEvents s ++ fabEvents s ++
  runEvents s ++ hostEvents s

/-- One of them, each in its turn by the cycle count. -/
def pickEvent (s : State) : Option Event :=
  let l := events s
  l[s.host.cycle / 2 % max 1 l.length]?

end Sys2Proof.Machine
end

