-- ==== Sys2Proof/Machine/Schedule.lean ====
section
/-! DEFINITION. What the next step is: which slot issues (R38 to R41), which other agent acts, the passing of a cycle
(R33, R39, R42, R85, R205), the debug comparators (R336, R338) and the fetch (R136, R165, R179). -/

namespace Sys2Proof.Machine

set_option linter.unusedVariables false

/-! ### The passing of a cycle -/

/-- A thread's counts after one cycle (R39, R42, R85). A count of 64 has been raised by `ptsTick` in this cycle. -/
def Thread.tick (t : Thread) : Thread :=
  { t with
    stall := t.stall - 1
    pause := t.pause - 1
    pts := if t.ptsFrac = 63 then t.pts + 1 else t.pts
    ptsFrac := if 63 ≤ t.ptsFrac then 0 else t.ptsFrac + 1 }

/-- The time unit after one cycle of two thirds of a nanosecond (R33, R384): a slew adds or takes 1 ns in every µs. -/
def TimeUnit.tick (u : TimeUnit) : TimeUnit :=
  let k := (u.third + 2) / 3
  let u := { u with third := (u.third + 2) % 3, hold := if u.state = 2 then u.hold + k else u.hold }
  match u.frozen with
  | some f => { u with frozen := some (f + k) }
  | none =>
    let frac := u.slewFrac + k
    if u.slew ≠ 0 && 1000 ≤ frac then
      if 0 < u.slew then { u with ns := (u.ns + k + 1) % 2 ^ 64, slew := u.slew - 1, slewFrac := frac - 1000 }
      else { u with ns := (u.ns + k - 1) % 2 ^ 64, slew := u.slew + 1, slewFrac := frac - 1000 }
    else { u with ns := (u.ns + k) % 2 ^ 64, slewFrac := if u.slew = 0 then 0 else frac }

/-- Whether a wait gates its slot's clock (R43, R266, R275). -/
def Wait.gated : Wait → Bool
  | .bar _ _ _ _ | .line _ _ | .mtx _ _ _ | .cnt _ _ _ _ | .gbar _ _ _ | .take _ _ | .fab _ _ _ => true
  | _ => false

/-- What one cycle adds to a performance counter (R205), given the slot of the core that issues in it. -/
def pmuCycles (ts : List Thread) (issued : Option Nat) (ev : Nat) (sel : Option Nat) : Nat :=
  let hit (t : Thread) : Bool := match sel with | some k => t.slot = k | none => true
  match ev with
  | 0x01 => 1
  | 0x03 => if issued.isSome && (sel = none || sel = issued) then 0 else 1
  | 0x09 => (ts.filter fun t => hit t && (match t.wait with | .trans _ => true | _ => false)).length
  | 0x0A => (ts.filter fun t => hit t && t.wait.gated).length
  | 0x0C => (ts.filter fun t => hit t && 0 < t.stall).length
  | _ => 0

/-- A core's counters after a cycle. -/
def Pmu.cycle (p : Pmu) (ts : List Thread) (issued : Option Nat) : Pmu :=
  iterate 4 (fun i p =>
    let k : Fin 4 := Fin.ofNat 4 i
    let c := p.sel[k].toNat
    let sel := if bits c 12 1 = 1 then none else some (bits c 10 2)
    if bits c 8 1 = 1 then
      let v := p.cnt[k].toNat + pmuCycles ts issued (bits c 0 8) sel
      { p with
        cnt := p.cnt.set k (BitVec.ofNat 64 v)
        sel := if 2 ^ 64 ≤ v then p.sel.set k (p.sel[k] ||| 0x8000) else p.sel }
    else p) p

/-- One island cycle passes; `l` is the slot that issues in it. -/
def tick (s : State) (l : Option Loc) : State :=
  let ts := s.threads
  let s := noteDropped s
  { s with
    fab := { s.fab with ports := s.fab.ports.map FabPort.tick }
    th := s.th.tick
    slots := s.slots.map Thread.tick
    host := { s.host with
      cycle := s.host.cycle + 1
      time := s.host.time.tick
      pmu := s.host.pmu.map fun p => p.cycle (ts.filter fun t => t.core = p.core)
        (match l with | some l => if l.core = p.core then some l.slot else none | none => none) }
    fresh := s.fresh + 16 }

/-! ### Which slot issues -/

/-- Whether a thread may run as far as its launch goes: one that stops for pre-emption lets its slots come to an instruction boundary
(R53, R287). -/
def launchRuns (s : State) (t : Thread) : Bool :=
  match s.launch t.lid with
  | some l => l.state = .running || l.state = .accepted || (l.state = .stopping && mustFinish t) || l.state = .ending
  | none => true

/-- Whether a wait is over at the next try: nothing is awaited, the instruction is to be executed again, the page at an address is no
longer in transition (R354), or a killed thread is to end. -/
def Wait.tryable (s : State) : Wait → Bool
  | .none | .retry | .poll | .storage | .dying _ => true
  | .trans a => !inTransition s a
  | _ => false

/-- Whether a slot is in the middle of a vector access (R214). -/
def Thread.partway (t : Thread) : Bool := t.vpart.isSome

/-- Whether the debug module lets a slot issue (R336, R337, R350). -/
def debugRuns (s : State) (t : Thread) : Bool :=
  let d := s.dbg t.core
  let mine := d.armed = some t.slot
  (!d.halted || mine) && !(mine && d.stepping.isSome && t.wait = .none)

/-- Whether a slot is ready (R39). -/
def ready (s : State) (t : Thread) : Bool :=
  t.live && t.wait.tryable s && t.stall = 0 && launchRuns s t && debugRuns s t &&
    !(s.island (islandOfFloe (floeOfCore t.core))).gated

/-- The slots of a core that are ready, non-paused ones first where there is one (R40). -/
def readyOf (s : State) (core : Nat) (p : Thread → Bool) : List Thread :=
  let l := s.threads.filter fun t => t.core = core && p t && ready s t
  let np := l.filter fun t => t.pause = 0
  if np = [] then l else np

/-- The first ready slot counting upward from the one after the last issuer (R40). DESIGN CHOICE (log 111): before a core's first
issue its last issuer is taken to be slot 3. -/
def pickSlot (s : State) (core : Nat) (p : Thread → Bool) : Option Loc :=
  let l := readyOf s core p
  let last := (look s.host.last core).getD 3
  (List.range 4).findSome? fun i =>
    (l.find? fun t => t.slot = (last + 1 + i) % 4).map fun t => ⟨t.core, t.slot⟩

/-- The cores that hold threads, rising from the one after the current core. -/
def coresAfter (s : State) : List Nat :=
  let cs := s.threads.foldl (fun l t => addOff l t.core) []
  (cs.filter fun c => s.th.core < c) ++ cs.filter fun c => c ≤ s.th.core

/-- A ready slot: cores take turns, and in a core R40 chooses. -/
def pickIssue (s : State) (p : Thread → Bool) : Option Loc := (coresAfter s).findSome? fun c => pickSlot s c p

/-! ### What a step does -/

/-- What the next step does with the state: executes an instruction or an event, an instruction perhaps under a comparator that traps
BREAK; is already over; or cannot be made. -/
inductive Todo where
  | run (s : State) (i : Instr) (brk : Option Nat)
  | over (s : State)
  | notEvent

/-- The instruction comparator that matches the current PC: its number and act (R336, R338). -/
def instrMatch (d : Dbg) (pc : Word) : Option (Nat × Nat) :=
  (List.range 4).findSome? fun i =>
    let v := d.ia[Fin.ofNat 4 i].toNat
    if bits v 0 2 ≠ 0 && v / 4 = pc.toNat / 4 then some (i, bits v 0 2) else none

/-- What a word is to execute. -/
def todoOf (s : State) (w : Lane) (brk : Option Nat) : Todo :=
  match decode s.th.enc w.toNat with
  | some x => .run s x.instr brk
  | none => .run s .illegalInstruction brk

/-- The fetch, the decoding and the counting of an instruction (R165, R179, R205); one that is executed again has been counted. -/
def fetchNext (s : State) (brk : Option Nat) (again : Bool) : Todo :=
  match fetch s with
  | .trap c a v => .over (trap s c a v)
  | .wait w => .over (stallOn s w)
  | .word w =>
    let s := if pinned s then s else fillI s s.th.pc
    let s := { s with th := { s.th with ir := w } }
    todoOf (if again then s
      else ({ s with host := { s.host with last := put s.host.last s.th.core s.th.slot } }).count 0x02) w brk

/-- The current slot issues, after its instruction comparators (R336, R338). -/
def issueHere (s : State) : Todo :=
  let again := s.th.wait ≠ .none
  let s := { s with th := { s.th with wait := .none } }
  let d := s.dbg s.th.core
  match instrMatch d s.th.pc with
  | some (i, act) =>
    if act = 1 && !(d.passed && d.slot = s.th.slot) then .over (haltAt s d 2 i)
    else fetchNext s (if act = 2 then some i else none) again
  | none => fetchNext s none again

/-- The debug module after an instruction (R336, R350): a comparator passed once holds again for the next instruction, and on a
running core a trap leaves an armed step waiting for the instruction after the return. -/
def afterIssue (before after : State) : State :=
  let core := before.th.core
  match after.host.dbg.find? fun d => d.core = core with
  | none => after
  | some d =>
    let t := after.th
    let trapped := t.live && t.inh && !before.th.inh
    let gone := !t.live || t.tid ≠ before.th.tid
    let mine := d.armed = some before.th.slot
    let passed := d.passed && ((d.halted && d.armed.isNone) || d.slot ≠ before.th.slot || (!gone && t.wait.incomplete))
    let stepping := if mine && (trapped || gone) && !d.halted then none else d.stepping
    let inside :=
      if !mine || d.halted then d.inside
      else if gone then false
      else if trapped then true
      else d.inside && t.inh
    after.setDbg { d with passed := passed, stepping := stepping, inside := inside }

/-- Whether a slot only looks again whether its wait is over (R258, R361). -/
def Thread.polls (t : Thread) : Bool := t.wait = .poll || t.wait = .storage

/-- Whether a slot may issue now (R39, R40): it is the one that the core chooses, or it only looks again, goes on with a vector access,
or ends. -/
def mayIssue (s : State) (l : Loc) : Bool :=
  pickSlot s l.core (fun t => !t.polls) = some l || pickSlot s l.core (fun _ => true) = some l ||
    (s.atLoc l).any fun t => ready s t && (t.polls || t.partway || (match t.wait with | .dying _ => true | _ => false))

/-- The current slot's turn, in a cycle that has been counted. -/
def issueReady (s : State) : Todo :=
  match s.th.wait with
  | .dying c => .over (killThread s s.th c)
  | _ =>
    if s.th.partway then todoOf { s with th := { s.th with wait := .none } } s.th.ir none
    else
      let d := s.dbg s.th.core
      let s := if d.armed = some s.th.slot && d.stepping.isNone && !d.inside then
          s.setDbg { d with stepping := some (s.th.pc, s.th.tid, s.host.cycle) }
        else s
      match issueHere s with
      | .over t => .over (afterIssue s t)
      | todo => todo

/-- A slot's turn: a slot that cannot issue lets the cycle pass. -/
def issueAt (s : State) (l : Loc) : Todo :=
  if mayIssue s l then issueReady (tick (selectSlot s l) (some l)) else .over (tick (selectSlot s l) none)

/-- An event's turn. -/
def happen (s : State) (ev : Instr) (inp : Input) : Todo :=
  if ev.isWord then .notEvent else .run { s with input := inp } ev none

/-- The slot that would issue now: in one cycle of 16 a slot that polls goes before the others. -/
def slotTurn (s : State) : Option Loc :=
  let first := if s.host.cycle % 16 = 0 then pickIssue s Thread.polls else none
  first <|> pickIssue s fun t => !t.polls

/-- The next step with no turn given: a ready slot and the other agents by turns of the cycle count, a slot that polls after
them, and otherwise only time passes. -/
def choose (s : State) : Todo :=
  let slot := slotTurn s
  let ev := pickEvent s
  match slot, ev, decide (s.host.cycle % 2 = 0) with
  | some l, none, _ => issueAt s l
  | some l, some _, true => issueAt s l
  | _, some e, _ => happen s e.1 e.2
  | none, none, _ =>
    match pickIssue s fun _ => true with
    | some l => issueAt s l
    | none => .over (tick s none)

/-- Another package writes its own memory (R98). -/
def writeElsewhere (s : State) (pa : Nat) (bs : List Byte) : State :=
  if pa < 2 ^ 40 || 2 ^ 52 < pa + bs.length then s else s.onMem fun m => { m with bytes := m.bytes.put pa bs }

/-- What the next step is. -/
def next (s : State) : Todo :=
  let s := { s with took := none }
  match s.turns with
  | .issue l :: rest => issueAt { s with turns := rest } l
  | .part l n :: rest => issueAt { s with turns := rest, limit := n } l
  | .lose l p :: rest => issueAt { s with turns := rest, lossy := some p } l
  | .happen ev inp :: rest => happen { s with turns := rest } ev inp
  | .elsewhere pa bs :: rest => .over (tick (writeElsewhere { s with turns := rest } pa bs) none)
  | [] => choose s

/-- What closes every step: the matrix engines' cycle (R289 to R298), and what overfull PLBs and caches lose (R67, R80). -/
def closeStep (s : State) : State := { cacheEvict (plbEvict (matrixCycle s)) with limit := 0, lossy := none }

/-- A comparator's BREAK takes the place of an instruction that is not ILLEGAL (R165, R336). -/
def underBreak (before after : State) (brk : Option Nat) : State :=
  match brk with
  | some i => if after.took = some .illegal then after else trap before .brk before.th.pc.toNat (0x100 + i)
  | none => after

/-- The end of a step: an instruction's outcome with what the debug module does after it, an event's once its cycle has passed. -/
def conclude (before : State) (i : Instr) (brk : Option Nat) (r : Host.Outcome State Fault Refusal) :
    Host.Outcome State Fault Refusal :=
  match r with
  | .next t =>
    .next (closeStep (if i.isWord || i = .illegalInstruction then afterIssue before (underBreak before t brk) else tick t none))
  | r => r

/-! ### Placing a word -/

/-- A tenant that holds every core and may do everything in domain 0. -/
def wholeTenant : TenantCfg := ⟨0, 0, 0, 6, 5, [0], [0], [0], 0, 0x4000000, 0, 64, true, 0, 0⟩

/-- The PC at which a placed word is fetched: the current slot's where an instruction can stand there, else 0x10000. -/
def placePc (pc : Word) : Word := if region pc.toNat = .virt && pc.toNat % 4 = 0 then pc else 0x10000

/-- A state whose next step fetches and runs one word: the current slot holds a running thread with nothing to wait for, and is
its core's next to issue; its code page is in its core's PLB with execute right, its code sector at its L2 home, and the word lies at its PC. -/
def placeWord (s : State) (w : Nat) : State :=
  let pc := placePc s.th.pc
  let va := pc.toNat / 0x10000 * 0x10000
  let pa := 0x100000
  let key := pa + (pc.toNat - va)
  { s with
    th := { s.th with live := true, enc := 3, pc := pc, wait := .none, stall := 0, pause := 0, pin := none, vpart := none }
    lp := { s.lp with
      tenants := wholeTenant :: s.lp.tenants
      mm := []
      launches := s.lp.launches.map fun l => if l.lid = s.th.lid then { l with state := .running } else l }
    mem := { s.mem with
      l1i := s.mem.l1i.filter fun c => !(c.core = s.th.core && c.sector = pc.toNat / 128)
      l2 := ⟨pc.toNat / 128, key / 128 * 128, [], .hd, false⟩ :: s.mem.l2.filter fun c => c.sector ≠ pc.toNat / 128
      plb := (s.th.core, ⟨.k64, pc.toNat / 0x10000, BitVec.ofNat 52 pa, 0, 0, 0⟩) :: s.mem.plb
      poison := s.mem.poison.filter fun g => g ≠ vkey (pc.toNat / 128 * 128)
      bytes := s.mem.bytes.write (vkey pc.toNat) 4 w }
    host := { s.host with
      last := put s.host.last s.th.core ((s.th.slot + 3) % 4)
      dbg := s.host.dbg.filter fun d => d.core ≠ s.th.core
      islands := drop s.host.islands (islandOfFloe (floeOfCore s.th.core)) }
    turns := [.issue ⟨s.th.core, s.th.slot⟩] }

end Sys2Proof.Machine
end

