-- ==== Sys2Proof/Machine/VFloat.lean ====
section
/-! DEFINITION. Vector floating point: arithmetic (R223), the op-7 group (R224) and the functions (R225). -/

namespace Sys2Proof.Machine

set_option linter.unusedVariables false

/-- Element `i` of a source as a value. -/
def vval (t : FT) (v : BitVec 2048) (i : Nat) : Val := t.fmt.val (elem v t.fmt.width i)

/-- An arithmetic form of two sources (R223). -/
def vfp2 (s : State) (r : RM) (lat : Option Nat) (t : FT) (d a b : Reg) (m : Mask) (f : Bool → Val → Val → Ex) : State :=
  let va := s.vsrc 0 a
  let vb := s.vsrc 1 b
  vround s r lat d [a, b] [] m t.fmt.width fun md i =>
    round t.fmt md false (f (md = .rdn) (vval t va i) (vval t vb i))

/-- A fused form, which reads the old vd (R223). -/
def vfp3 (s : State) (r : RM) (t : FT) (d a b : Reg) (m : Mask) (f : Bool → Val → Val → Val → Ex) : State :=
  let va := s.vsrc 0 a
  let vb := s.vsrc 1 b
  let vd := s.vsrc 2 d
  vround s r (some 4) d [a, b, d] [] m t.fmt.width fun md i =>
    round t.fmt md false (f (md = .rdn) (vval t va i) (vval t vb i) (vval t vd i))

/-- `vfadd` (R223). -/
def execVfadd (t : FT) (d a b : Reg) (m : Mask) (r : RM) (s : State) : Host.Outcome State Fault Refusal :=
  done (vfp2 s r (some 4) t d a b m fun rdn x y => addV rdn x y)

/-- `vfsub` (R223). -/
def execVfsub (t : FT) (d a b : Reg) (m : Mask) (r : RM) (s : State) : Host.Outcome State Fault Refusal :=
  done (vfp2 s r (some 4) t d a b m fun rdn x y => addV rdn x y.negate)

/-- `vfmul` (R223). -/
def execVfmul (t : FT) (d a b : Reg) (m : Mask) (r : RM) (s : State) : Host.Outcome State Fault Refusal :=
  done (vfp2 s r (some 4) t d a b m fun _ x y => mulE x y)

/-- `vfdiv` (R223). -/
def execVfdiv (t : FT) (d a b : Reg) (m : Mask) (r : RM) (s : State) : Host.Outcome State Fault Refusal :=
  done (vfp2 s r none t d a b m fun _ x y => divE x y)

/-- `vfma` (R223). -/
def execVfma (t : FT) (d a b : Reg) (m : Mask) (r : RM) (s : State) : Host.Outcome State Fault Refusal :=
  done (vfp3 s r t d a b m fun rdn x y z => fmaE rdn x y z)

/-- `vfms` (R223). -/
def execVfms (t : FT) (d a b : Reg) (m : Mask) (r : RM) (s : State) : Host.Outcome State Fault Refusal :=
  done (vfp3 s r t d a b m fun rdn x y z => fmaE rdn x y z.negate)

/-- `vfnma` (R223). -/
def execVfnma (t : FT) (d a b : Reg) (m : Mask) (r : RM) (s : State) : Host.Outcome State Fault Refusal :=
  done (vfp3 s r t d a b m fun rdn x y z => fmaE rdn x.negate y z)

/-- `vfmin` (R224). -/
def execVfmin (t : FT) (d a b : Reg) (m : Mask) (s : State) : Host.Outcome State Fault Refusal :=
  done (vmap2 s (some 4) d a b m t.fmt.width fun x y => minMax t.fmt false x y)

/-- `vfmax` (R224). -/
def execVfmax (t : FT) (d a b : Reg) (m : Mask) (s : State) : Host.Outcome State Fault Refusal :=
  done (vmap2 s (some 4) d a b m t.fmt.width fun x y => minMax t.fmt true x y)

/-- `vfeq` (R224). -/
def execVfeq (t : FT) (d a b : Reg) (m : Mask) (s : State) : Host.Outcome State Fault Refusal :=
  done (vcmp2 s 4 d a b m t.fmt.width fun x y => cmpFp t.fmt 0 x y)

/-- `vflt` (R224). -/
def execVflt (t : FT) (d a b : Reg) (m : Mask) (s : State) : Host.Outcome State Fault Refusal :=
  done (vcmp2 s 4 d a b m t.fmt.width fun x y => cmpFp t.fmt 1 x y)

/-- `vfle` (R224). -/
def execVfle (t : FT) (d a b : Reg) (m : Mask) (s : State) : Host.Outcome State Fault Refusal :=
  done (vcmp2 s 4 d a b m t.fmt.width fun x y => cmpFp t.fmt 2 x y)

/-- `vfun` (R224). -/
def execVfun (t : FT) (d a b : Reg) (m : Mask) (s : State) : Host.Outcome State Fault Refusal :=
  done (vcmp2 s 4 d a b m t.fmt.width fun x y => cmpFp t.fmt 3 x y)

/-- A sign operation on an element's bits (R224): a NaN gives the canonical one. -/
def signOp (f : Fmt) (neg : Bool) (x : Nat) : Rnd :=
  let v := f.val x
  if v.isNan then ⟨f.canon, flagIf v.isSig fNV⟩
  else
    let top := 2 ^ (f.width - 1)
    ⟨if neg then (x + top) % 2 ^ f.width else x % top, 0⟩

/-- `vfabs` (R224). -/
def execVfabs (t : FT) (d a : Reg) (m : Mask) (s : State) : Host.Outcome State Fault Refusal :=
  done (vmap2 s (some 4) d a a m t.fmt.width fun x _ => signOp t.fmt false x)

/-- `vfneg` (R224). -/
def execVfneg (t : FT) (d a : Reg) (m : Mask) (s : State) : Host.Outcome State Fault Refusal :=
  done (vmap2 s (some 4) d a a m t.fmt.width fun x _ => signOp t.fmt true x)

/-- A vector function (R225): the exact value rounded once. -/
def vfn (s : State) (fn : Fn) (d a : Reg) (m : Mask) (r : RM) (t : FT) : State :=
  let va := s.vsrc 0 a
  vround s r none d [a] [] m t.fmt.width fun md i => fnRound fn t.fmt md (vval t va i)

/-- `vfsqrt` (R225). -/
def execVfsqrt (d a : Reg) (m : Mask) (r : RM) (t : FT) (s : State) : Host.Outcome State Fault Refusal :=
  done (vfn s .sqrt d a m r t)

/-- `vfrcp` (R225). -/
def execVfrcp (d a : Reg) (m : Mask) (r : RM) (t : FT) (s : State) : Host.Outcome State Fault Refusal :=
  done (vfn s .rcp d a m r t)

/-- `vfrsqrt` (R225). -/
def execVfrsqrt (d a : Reg) (m : Mask) (r : RM) (t : FT) (s : State) : Host.Outcome State Fault Refusal :=
  done (vfn s .rsqrt d a m r t)

/-- `vfexp2` (R225). -/
def execVfexp2 (d a : Reg) (m : Mask) (r : RM) (t : FT) (s : State) : Host.Outcome State Fault Refusal :=
  done (vfn s .exp2 d a m r t)

/-- `vflog2` (R225). -/
def execVflog2 (d a : Reg) (m : Mask) (r : RM) (t : FT) (s : State) : Host.Outcome State Fault Refusal :=
  done (vfn s .log2 d a m r t)

/-- `vfexp` (R225). -/
def execVfexp (d a : Reg) (m : Mask) (r : RM) (t : FT) (s : State) : Host.Outcome State Fault Refusal :=
  done (vfn s .exp d a m r t)

/-- `vflog` (R225). -/
def execVflog (d a : Reg) (m : Mask) (r : RM) (t : FT) (s : State) : Host.Outcome State Fault Refusal :=
  done (vfn s .log d a m r t)

/-- `vftanh` (R225). -/
def execVftanh (d a : Reg) (m : Mask) (r : RM) (t : FT) (s : State) : Host.Outcome State Fault Refusal :=
  done (vfn s .tanh d a m r t)

/-- `vfsigm` (R225). -/
def execVfsigm (d a : Reg) (m : Mask) (r : RM) (t : FT) (s : State) : Host.Outcome State Fault Refusal :=
  done (vfn s .sigm d a m r t)

/-- `vfsin` (R225). -/
def execVfsin (d a : Reg) (m : Mask) (r : RM) (t : FT) (s : State) : Host.Outcome State Fault Refusal :=
  done (vfn s .sin d a m r t)

/-- `vfcos` (R225). -/
def execVfcos (d a : Reg) (m : Mask) (r : RM) (t : FT) (s : State) : Host.Outcome State Fault Refusal :=
  done (vfn s .cos d a m r t)

end Sys2Proof.Machine
end

