-- ==== Sys2Proof/Machine/VInt.lean ====
section
/-! DEFINITION. Vector integer arithmetic and compares (R221, R222). -/

namespace Sys2Proof.Machine

set_option linter.unusedVariables false

/-- An integer form (R221): `f` takes the elements as integers of the type and gives an integer, wrapped to the width. -/
def vint (s : State) (lat : Option Nat) (d a b : Reg) (m : Mask) (t : IT) (f : Int → Int → Int) : State :=
  vmap2 s lat d a b m t.bits fun x y => ⟨unsigned (f (t.int x) (t.int y)) t.bits, 0⟩

/-- A saturating form (R221): `sat` when clamped. -/
def vsat (s : State) (d a b : Reg) (m : Mask) (t : IT) (f : Int → Int → Int) : State :=
  vmap2 s (some 2) d a b m t.bits fun x y =>
    let v := f (t.int x) (t.int y)
    let c := max t.lo (min t.hi v)
    ⟨unsigned c t.bits, flagIf (c ≠ v) fSAT⟩

/-- A form on the bits of the elements. -/
def vbits (s : State) (d a b : Reg) (m : Mask) (t : IT) (f : Nat → Nat → Nat) : State :=
  vmap2 s (some 2) d a b m t.bits fun x y => ⟨f x y % 2 ^ t.bits, 0⟩

/-- Truncating quotient and remainder with the edge cases of R172. -/
def quot (t : IT) (x y : Int) : Int := if y = 0 then (if t.signed then -1 else t.hi) else x.tdiv y
def remn (x y : Int) : Int := if y = 0 then x else x.tmod y

/-- `vadd` (R221). -/
def execVadd (d a b : Reg) (m : Mask) (t : IT) (s : State) : Host.Outcome State Fault Refusal :=
  done (vint s (some 2) d a b m t fun x y => x + y)

/-- `vsub` (R221). -/
def execVsub (d a b : Reg) (m : Mask) (t : IT) (s : State) : Host.Outcome State Fault Refusal :=
  done (vint s (some 2) d a b m t fun x y => x - y)

/-- `vmul` (R221). -/
def execVmul (d a b : Reg) (m : Mask) (t : IT) (s : State) : Host.Outcome State Fault Refusal :=
  done (vint s (some 2) d a b m t fun x y => x * y)

/-- `vmulh` (R221). -/
def execVmulh (d a b : Reg) (m : Mask) (t : IT) (s : State) : Host.Outcome State Fault Refusal :=
  done (vint s (some 2) d a b m t fun x y => x * y / (2 ^ t.bits : Nat))

/-- `vmin` (R221). -/
def execVmin (d a b : Reg) (m : Mask) (t : IT) (s : State) : Host.Outcome State Fault Refusal :=
  done (vint s (some 2) d a b m t fun x y => min x y)

/-- `vmax` (R221). -/
def execVmax (d a b : Reg) (m : Mask) (t : IT) (s : State) : Host.Outcome State Fault Refusal :=
  done (vint s (some 2) d a b m t fun x y => max x y)

/-- `vadds` (R221). -/
def execVadds (d a b : Reg) (m : Mask) (t : IT) (s : State) : Host.Outcome State Fault Refusal :=
  done (vsat s d a b m t fun x y => x + y)

/-- `vsubs` (R221). -/
def execVsubs (d a b : Reg) (m : Mask) (t : IT) (s : State) : Host.Outcome State Fault Refusal :=
  done (vsat s d a b m t fun x y => x - y)

/-- `vand` (R221). -/
def execVand (d a b : Reg) (m : Mask) (t : IT) (s : State) : Host.Outcome State Fault Refusal :=
  done (vbits s d a b m t fun x y => x &&& y)

/-- `vor` (R221). -/
def execVor (d a b : Reg) (m : Mask) (t : IT) (s : State) : Host.Outcome State Fault Refusal :=
  done (vbits s d a b m t fun x y => x ||| y)

/-- `vxor` (R221). -/
def execVxor (d a b : Reg) (m : Mask) (t : IT) (s : State) : Host.Outcome State Fault Refusal :=
  done (vbits s d a b m t fun x y => x ^^^ y)

/-- `vsll` (R221). -/
def execVsll (d a b : Reg) (m : Mask) (t : IT) (s : State) : Host.Outcome State Fault Refusal :=
  done (vbits s d a b m t fun x y => x * 2 ^ (y % t.bits))

/-- `vsr` (R221). -/
def execVsr (d a b : Reg) (m : Mask) (t : IT) (s : State) : Host.Outcome State Fault Refusal :=
  done (vmap2 s (some 2) d a b m t.bits fun x y => ⟨unsigned (t.int x / (2 ^ (y % t.bits) : Nat)) t.bits, 0⟩)

/-- `vdiv` (R221). -/
def execVdiv (d a b : Reg) (m : Mask) (t : IT) (s : State) : Host.Outcome State Fault Refusal :=
  done (vint s none d a b m t (quot t))

/-- `vrem` (R221). -/
def execVrem (d a b : Reg) (m : Mask) (t : IT) (s : State) : Host.Outcome State Fault Refusal :=
  done (vint s none d a b m t remn)

/-- `vceq` (R222). -/
def execVceq (d a b : Reg) (m : Mask) (t : IT) (s : State) : Host.Outcome State Fault Refusal :=
  done (vcmp2 s 2 d a b m t.bits fun x y => (decide (t.int x = t.int y), 0))

/-- `vcne` (R222). -/
def execVcne (d a b : Reg) (m : Mask) (t : IT) (s : State) : Host.Outcome State Fault Refusal :=
  done (vcmp2 s 2 d a b m t.bits fun x y => (decide (t.int x ≠ t.int y), 0))

/-- `vclt` (R222). -/
def execVclt (d a b : Reg) (m : Mask) (t : IT) (s : State) : Host.Outcome State Fault Refusal :=
  done (vcmp2 s 2 d a b m t.bits fun x y => (decide (t.int x < t.int y), 0))

/-- `vcge` (R222). -/
def execVcge (d a b : Reg) (m : Mask) (t : IT) (s : State) : Host.Outcome State Fault Refusal :=
  done (vcmp2 s 2 d a b m t.bits fun x y => (decide (t.int y ≤ t.int x), 0))

/-- `vcle` (R222). -/
def execVcle (d a b : Reg) (m : Mask) (t : IT) (s : State) : Host.Outcome State Fault Refusal :=
  done (vcmp2 s 2 d a b m t.bits fun x y => (decide (t.int x ≤ t.int y), 0))

/-- `vcgt` (R222). -/
def execVcgt (d a b : Reg) (m : Mask) (t : IT) (s : State) : Host.Outcome State Fault Refusal :=
  done (vcmp2 s 2 d a b m t.bits fun x y => (decide (t.int y < t.int x), 0))

end Sys2Proof.Machine
end

