-- ==== Sys2Proof/Machine/VPermute.lean ====
section
/-! DEFINITION. Permutes and moves (R228): readable after 3 cycles (R209). -/

namespace Sys2Proof.Machine

set_option linter.unusedVariables false

/-- A form that writes the active elements of a destination (R228): `f` gives element `i` from the old vd. -/
def vperm1 (s : State) (d : Reg) (vs : List Reg) (xs : List Nat) (m : Mask) (z : EW) (f : BitVec 2048 → Nat → Nat) : State :=
  let w := z.bits
  let n := s.th.n w
  let mask := s.maskOf m
  vop s false vs (some d) xs m
    (vret s vs (some 3) d fun old => pack w (blend w n mask old (f old)))

/-- `vperm` (R228). -/
def execVperm (d a b : Reg) (m : Mask) (z : EW) (s : State) : Host.Outcome State Fault Refusal :=
  let n := s.th.n z.bits
  let va := s.vsrc 0 a
  let vb := s.vsrc 1 b
  done (vperm1 s d [a, b] [] m z fun _ i => let k := elem vb z.bits i; if n ≤ k then 0 else elem va z.bits k)

/-- `vslideup` (R228): it reads the old vd. -/
def execVslideup (d a b : Reg) (m : Mask) (z : EW) (s : State) : Host.Outcome State Fault Refusal :=
  let va := s.vsrc 0 a
  let vd := s.vsrc 2 d
  let k := (s.opX 1 b).toNat
  done (vperm1 s d [a, d] [xr b] m z fun _ i => if k ≤ i then elem va z.bits (i - k) else elem vd z.bits i)

/-- `vslidedn` (R228). -/
def execVslidedn (d a b : Reg) (m : Mask) (z : EW) (s : State) : Host.Outcome State Fault Refusal :=
  let n := s.th.n z.bits
  let va := s.vsrc 0 a
  let k := (s.opX 1 b).toNat
  done (vperm1 s d [a] [xr b] m z fun _ i => if i + k < n then elem va z.bits (i + k) else 0)

/-- `vbcast` (R228). -/
def execVbcast (d a : Reg) (m : Mask) (z : EW) (s : State) : Host.Outcome State Fault Refusal :=
  let v := (s.opX 0 a).toNat
  done (vperm1 s d [] [xr a] m z fun _ _ => v % 2 ^ z.bits)

/-- `vid` (R228). -/
def execVid (d : Reg) (m : Mask) (z : EW) (s : State) : Host.Outcome State Fault Refusal :=
  done (vperm1 s d [] [] m z fun _ i => i % 2 ^ z.bits)

/-- `vsel` (R228): every element is written. -/
def execVsel (d a b : Reg) (m : Mask) (z : EW) (s : State) : Host.Outcome State Fault Refusal :=
  let w := z.bits
  let n := s.th.n w
  let mask := s.maskOf m
  let va := s.vsrc 0 a
  let vb := s.vsrc 1 b
  done (vop s false [a, b] (some d) [] m
    (vret s [a, b] (some 3) d fun _ => pack w ((List.range n).map fun i =>
      if active mask (lane w i) then elem va w i else elem vb w i)))

/-- `vmvxv` (R228). -/
def execVmvxv (d a b : Reg) (z : EW) (s : State) : Host.Outcome State Fault Refusal :=
  let w := z.bits
  let k := (s.opX 1 b).toNat
  let v := s.vsrc 0 a
  done (vop s false [a] none [xr b] 0
    (vretX s [a] (some 3) d (if s.th.n w ≤ k then 0 else (sxN (elem v w k) w).toNat)))

/-- `vmvvx` (R228): it reads the old vd; no write past the last element. -/
def execVmvvx (d a b : Reg) (z : EW) (s : State) : Host.Outcome State Fault Refusal :=
  let w := z.bits
  let n := s.th.n w
  let k := (s.opX 1 b).toNat
  let v := (s.opX 0 a).toNat % 2 ^ w
  let o := s.vsrc 2 d
  done (vop s false [d] (some d) [xr a, xr b] 0
    (if n ≤ k then retire (consumeAll s [d])
     else vret s [d] (some 3) d fun _ => pack w ((List.range n).map fun i => if i = k then v else elem o w i)))

end Sys2Proof.Machine
end

