-- ==== Sys2Proof/Machine/VReduce.lean ====
section
/-! DEFINITION. Exact reductions, scans and lane groups (R226, R227). -/

namespace Sys2Proof.Machine

set_option linter.unusedVariables false

/-- The width of a reduction type (R156). -/
def rtBits : RT → Nat
  | .f64 | .i64 | .n64 => 64
  | .f32 | .i32 | .n32 => 32
  | .f16 | .bf16 => 16

/-- The format of a floating-point reduction type. -/
def rtFmt : RT → Fmt
  | .f64 => .fp64 | .f16 => .fp16 | .bf16 => .bf16 | _ => .fp32

def rtSigned : RT → Bool
  | .i32 | .i64 => true
  | _ => false

/-- An element of an integer reduction type. -/
def rtInt (t : RT) (v : Nat) : Int :=
  if rtSigned t then signed v (rtBits t) else ((v % 2 ^ rtBits t : Nat) : Int)

/-- What a reduction combines by. -/
inductive Comb where
  | sum | max | min
  deriving DecidableEq, Repr

/-- The result over no element of a maximum or minimum (R226). -/
def emptyMm (t : RT) (isMax : Bool) : Nat :=
  if t.isFp then withSign (rtFmt t) isMax ((2 ^ (rtFmt t).expo - 1) * 2 ^ (rtFmt t).mant)
  else
    let w := rtBits t
    if rtSigned t then (if isMax then 2 ^ (w - 1) else 2 ^ (w - 1) - 1) else (if isMax then 0 else 2 ^ w - 1)

/-- The reduction of a list of elements (R113, R114, R226). -/
def reduceList (t : RT) (c : Comb) (md : Mode) (l : List Nat) : Rnd :=
  match c with
  | .sum =>
    if t.isFp then
      (l.foldl (fun (a : Acc) v => a.add ((rtFmt t).val v)) (Acc.empty (t = .f64))).read (rtFmt t) md
    else ⟨unsigned (l.foldl (fun a v => a + rtInt t v) 0) (rtBits t), 0⟩
  | c =>
    let isMax := decide (c = .max)
    l.foldl (fun (r : Rnd) v =>
      if t.isFp then
        let x := minMax (rtFmt t) isMax r.bits v
        ⟨x.bits, r.flags ||| x.flags⟩
      else
        let a := rtInt t r.bits
        let b := rtInt t v
        ⟨unsigned (if isMax then max a b else min a b) (rtBits t), r.flags⟩) ⟨emptyMm t isMax, 0⟩

/-- The active elements of a source among given indices. -/
def activeElems (v : BitVec 2048) (w mask : Nat) (is : List Nat) : List Nat :=
  (is.filter fun i => active mask (lane w i)).map fun i => elem v w i

/-- A form whose rounding, when it has one, takes a mode: integer forms and forms that only compare take none. -/
def maybeRound (s : State) (r : RM) (rounds : Bool) (k : RM → State) : State :=
  if rounds then
    match rmEff r s.th.frm with
    | none => trapIllegal s
    | some m => k m
  else k .rne

/-- A reduction into element 0 (R226). -/
def vredForm (s : State) (c : Comb) (d a : Reg) (r : RM) (m : Mask) (t : RT) : State :=
  maybeRound s r (c = .sum && t.isFp) fun rm =>
    let w := rtBits t
    let n := s.th.n w
    let res := reduceList t c (s.th.mode rm 0 1 0) (activeElems (s.vsrc 0 a) w (s.maskOf m) (List.range n))
    vop s false [a] (some d) [] m
      (vret ((s.drawn rm).flags res.flags) [a] none d fun _ => pack w [res.bits])

/-- `vredsum` (R226). -/
def execVredsum (d a : Reg) (r : RM) (m : Mask) (t : RT) (s : State) : Host.Outcome State Fault Refusal :=
  done (vredForm s .sum d a r m t)

/-- `vredmax` (R226). -/
def execVredmax (d a : Reg) (m : Mask) (t : RT) (s : State) : Host.Outcome State Fault Refusal :=
  done (vredForm s .max d a .rne m t)

/-- `vredmin` (R226). -/
def execVredmin (d a : Reg) (m : Mask) (t : RT) (s : State) : Host.Outcome State Fault Refusal :=
  done (vredForm s .min d a .rne m t)

/-- A scan (R226): element `i` reduces the active elements before it, and itself when `incl`. With a mask it reads the old
vd (R218). -/
def vscanForm (s : State) (incl : Bool) (d a : Reg) (r : RM) (m : Mask) (t : RT) : State :=
  maybeRound s r t.isFp fun rm =>
    let w := rtBits t
    let n := s.th.n w
    let mask := s.maskOf m
    let v := s.vsrc 0 a
    let vs := if m = 0 then [a] else [a, d]
    let res (i : Nat) : Rnd :=
      reduceList t .sum (s.th.modeAt rm w i) (activeElems v w mask (List.range (if incl then i + 1 else i)))
    let fl := anyFlags (((List.range n).filter fun i => active mask (lane w i)).map res)
    vop s false vs (some d) [] m
      (vret ((s.drawn rm).flags fl) vs none d fun old => pack w (blend w n mask old fun i => (res i).bits))

/-- `vscan` (R226). -/
def execVscan (d a : Reg) (r : RM) (m : Mask) (t : RT) (s : State) : Host.Outcome State Fault Refusal :=
  done (vscanForm s true d a r m t)

/-- `vscanx` (R226). -/
def execVscanx (d a : Reg) (r : RM) (m : Mask) (t : RT) (s : State) : Host.Outcome State Fault Refusal :=
  done (vscanForm s false d a r m t)

/-! ### Lane groups -/

/-- The lane groups of a lengths word (R227): first element and elements in range of each. -/
def groups (lens n : Nat) : List (Nat × Nat) :=
  ((List.range 8).foldl (fun (acc : List (Nat × Nat) × Nat) g =>
    let l := bits lens (8 * g) 8
    (acc.1 ++ [(acc.2, min l (n - acc.2))], acc.2 + l)) ([], 0)).1

/-- The group of an element, with its number. -/
def groupOf (gs : List (Nat × Nat)) (i : Nat) : Option (Nat × Nat × Nat) :=
  (List.range 8).findSome? fun g =>
    let p := gs.getD g (0, 0)
    if p.1 ≤ i && i < p.1 + p.2 then some (g, p.1, p.2) else none

/-- The elements of a group. -/
def groupElems (p : Nat × Nat) : List Nat := (List.range p.2).map fun j => p.1 + j

/-- A group reduction (R227): element `g` gets the result of group `g`, every other element zero. -/
def vsgForm (s : State) (c : Comb) (d a b : Reg) (m : Mask) (t : RT) : State :=
  maybeRound s .dyn (c = .sum && t.isFp) fun rm =>
    let w := rtBits t
    let n := s.th.n w
    let mask := s.maskOf m
    let v := s.vsrc 0 a
    let gs := groups (s.opX 1 b).toNat n
    let res := (List.range 8).map fun g =>
      reduceList t c (s.th.modeAt rm w g) (activeElems v w mask (groupElems (gs.getD g (0, 0))))
    vop s false [a] (some d) [xr b] m
      (vret ((s.drawn rm).flags (anyFlags res)) [a] none d fun _ => pack w (res.map fun r => r.bits))

/-- `vsgsum` (R227). -/
def execVsgsum (d a b : Reg) (m : Mask) (t : RT) (s : State) : Host.Outcome State Fault Refusal :=
  done (vsgForm s .sum d a b m t)

/-- `vsgmax` (R227). -/
def execVsgmax (d a b : Reg) (m : Mask) (t : RT) (s : State) : Host.Outcome State Fault Refusal :=
  done (vsgForm s .max d a b m t)

/-- `vsgmin` (R227). -/
def execVsgmin (d a b : Reg) (m : Mask) (t : RT) (s : State) : Host.Outcome State Fault Refusal :=
  done (vsgForm s .min d a b m t)

/-- A form that writes the active elements of groups (R227). -/
def vsgWrite (s : State) (rm : RM) (d a b : Reg) (m : Mask) (t : RT)
    (f : List (Nat × Nat) → Nat → Nat × Nat × Nat → Rnd) : State :=
  let w := rtBits t
  let n := s.th.n w
  let mask := s.maskOf m
  let gs := groups (s.opX 1 b).toNat n
  let res (i : Nat) : Option Rnd := (groupOf gs i).map fun g => f gs i g
  let fl := anyFlags (((List.range n).filter fun i => active mask (lane w i)).filterMap res)
  vop s false [a] (some d) [xr b] m
    (vret ((s.drawn rm).flags fl) [a] none d fun old =>
      pack w (blend w n mask old fun i =>
        match res i with
        | some r => r.bits
        | none => elem old w i))

/-- The elements of groups that share an element's lane, which share its random bits (R118). -/
def laneMates (gs : List (Nat × Nat)) (w n i : Nat) : List Nat :=
  (List.range n).filter fun j => lane w j = lane w i && (groupOf gs j).isSome

/-- `vsgscan` (R227). -/
def execVsgscan (d a b : Reg) (m : Mask) (t : RT) (s : State) : Host.Outcome State Fault Refusal :=
  let v := s.vsrc 0 a
  let w := rtBits t
  let mask := s.maskOf m
  done (maybeRound s .dyn t.isFp fun rm =>
    vsgWrite s rm d a b m t fun gs i g =>
      let mates := laneMates gs w (s.th.n w) i
      reduceList t .sum (s.th.mode rm (lane w i) mates.length (mates.filter (· < i)).length)
        (activeElems v w mask ((List.range (i + 1 - g.2.1)).map fun j => g.2.1 + j)))

/-- `vsgbcast` (R227). -/
def execVsgbcast (d a b : Reg) (m : Mask) (t : RT) (s : State) : Host.Outcome State Fault Refusal :=
  let v := s.vsrc 0 a
  done (vsgWrite s .rne d a b m t fun _ _ g => ⟨elem v (rtBits t) g.1, 0⟩)

/-- `vsgrefill` (R227): each group moves down by one element and takes its new last one. -/
def execVsgrefill (d a b : Reg) (t : RT) (s : State) : Host.Outcome State Fault Refusal :=
  let w := rtBits t
  let n := s.th.n w
  let v := s.vsrc 0 a
  let o := s.vsrc 2 d
  let gs := groups (s.opX 1 b).toNat n
  let f (i : Nat) : Nat :=
    match groupOf gs i with
    | some (g, st, len) => if i + 1 < st + len then elem o w (i + 1) else elem v w g
    | none => elem o w i
  done (vop s false [a, d] (some d) [xr b] 0
    (vret s [a, d] none d fun _ => pack w ((List.range n).map f)))

end Sys2Proof.Machine
end

