-- ==== Sys2Proof/Machine/Dispatch.lean ====
section
/-! DEFINITION. The meaning of every instruction and event, one arm each. -/

namespace Sys2Proof.Machine

open Sys2Proof

/-- The meaning of an instruction or event. -/
def exec (i : Instr) (s : State) : Host.Outcome State Fault Refusal :=
  match i with
  | .susp a b => Sys2Proof.Machine.execSusp a b s
  | .spawn d a => Sys2Proof.Machine.execSpawn d a s
  | .pause n => Sys2Proof.Machine.execPause n s
  | .sys n => Sys2Proof.Machine.execSys n s
  | .csrrw d a c => Sys2Proof.Machine.execCsrrw d a c s
  | .csrrs d a c => Sys2Proof.Machine.execCsrrs d a c s
  | .csrrc d a c => Sys2Proof.Machine.execCsrrc d a c s
  | .j o => Sys2Proof.Machine.execJ o s
  | .jal o => Sys2Proof.Machine.execJal o s
  | .jalr d a n => Sys2Proof.Machine.execJalr d a n s
  | .beq a b o => Sys2Proof.Machine.execBeq a b o s
  | .bne a b o => Sys2Proof.Machine.execBne a b o s
  | .blt a b o => Sys2Proof.Machine.execBlt a b o s
  | .bge a b o => Sys2Proof.Machine.execBge a b o s
  | .bltu a b o => Sys2Proof.Machine.execBltu a b o s
  | .bgeu a b o => Sys2Proof.Machine.execBgeu a b o s
  | .bbs a n o => Sys2Proof.Machine.execBbs a n o s
  | .bbc a n o => Sys2Proof.Machine.execBbc a n o s
  | .rep a n => Sys2Proof.Machine.execRep a n s
  | .lpin n => Sys2Proof.Machine.execLpin n s
  | .add d a b => Sys2Proof.Machine.execAdd d a b s
  | .sub d a b => Sys2Proof.Machine.execSub d a b s
  | .and d a b => Sys2Proof.Machine.execAnd d a b s
  | .or d a b => Sys2Proof.Machine.execOr d a b s
  | .xor d a b => Sys2Proof.Machine.execXor d a b s
  | .sll d a b => Sys2Proof.Machine.execSll d a b s
  | .srl d a b => Sys2Proof.Machine.execSrl d a b s
  | .sra d a b => Sys2Proof.Machine.execSra d a b s
  | .slt d a b => Sys2Proof.Machine.execSlt d a b s
  | .sltu d a b => Sys2Proof.Machine.execSltu d a b s
  | .min d a b => Sys2Proof.Machine.execMin d a b s
  | .max d a b => Sys2Proof.Machine.execMax d a b s
  | .minu d a b => Sys2Proof.Machine.execMinu d a b s
  | .maxu d a b => Sys2Proof.Machine.execMaxu d a b s
  | .addw d a b => Sys2Proof.Machine.execAddw d a b s
  | .subw d a b => Sys2Proof.Machine.execSubw d a b s
  | .sllw d a b => Sys2Proof.Machine.execSllw d a b s
  | .srlw d a b => Sys2Proof.Machine.execSrlw d a b s
  | .sraw d a b => Sys2Proof.Machine.execSraw d a b s
  | .clz d a => Sys2Proof.Machine.execClz d a s
  | .ctz d a => Sys2Proof.Machine.execCtz d a s
  | .popc d a => Sys2Proof.Machine.execPopc d a s
  | .mul d a b => Sys2Proof.Machine.execMul d a b s
  | .mulh d a b => Sys2Proof.Machine.execMulh d a b s
  | .mulhu d a b => Sys2Proof.Machine.execMulhu d a b s
  | .mulhsu d a b => Sys2Proof.Machine.execMulhsu d a b s
  | .div d a b => Sys2Proof.Machine.execDiv d a b s
  | .divu d a b => Sys2Proof.Machine.execDivu d a b s
  | .rem d a b => Sys2Proof.Machine.execRem d a b s
  | .remu d a b => Sys2Proof.Machine.execRemu d a b s
  | .mulw d a b => Sys2Proof.Machine.execMulw d a b s
  | .divw d a b => Sys2Proof.Machine.execDivw d a b s
  | .divuw d a b => Sys2Proof.Machine.execDivuw d a b s
  | .remw d a b => Sys2Proof.Machine.execRemw d a b s
  | .remuw d a b => Sys2Proof.Machine.execRemuw d a b s
  | .addi d a n => Sys2Proof.Machine.execAddi d a n s
  | .andi d a n => Sys2Proof.Machine.execAndi d a n s
  | .ori d a n => Sys2Proof.Machine.execOri d a n s
  | .xori d a n => Sys2Proof.Machine.execXori d a n s
  | .slti d a n => Sys2Proof.Machine.execSlti d a n s
  | .slli d a n => Sys2Proof.Machine.execSlli d a n s
  | .srli d a n => Sys2Proof.Machine.execSrli d a n s
  | .srai d a n => Sys2Proof.Machine.execSrai d a n s
  | .lui d n => Sys2Proof.Machine.execLui d n s
  | .auipc d n => Sys2Proof.Machine.execAuipc d n s
  | .fadd d a b r t => Sys2Proof.Machine.execFadd d a b r t s
  | .fsub d a b r t => Sys2Proof.Machine.execFsub d a b r t s
  | .fmul d a b r t => Sys2Proof.Machine.execFmul d a b r t s
  | .fdiv d a b r t => Sys2Proof.Machine.execFdiv d a b r t s
  | .fsqrt d a r t => Sys2Proof.Machine.execFsqrt d a r t s
  | .fma d a b r t => Sys2Proof.Machine.execFma d a b r t s
  | .fmin d a b t => Sys2Proof.Machine.execFmin d a b t s
  | .fmax d a b t => Sys2Proof.Machine.execFmax d a b t s
  | .feq d a b t => Sys2Proof.Machine.execFeq d a b t s
  | .flt d a b t => Sys2Proof.Machine.execFlt d a b t s
  | .fle d a b t => Sys2Proof.Machine.execFle d a b t s
  | .fcvt d a u r t => Sys2Proof.Machine.execFcvt d a u r t s
  | .ld d a k h o => Sys2Proof.Machine.execLd d a k h o s
  | .pf a h o => Sys2Proof.Machine.execPf a h o s
  | .st q a k h o => Sys2Proof.Machine.execSt q a k h o s
  | .ldAcq d a h z q => Sys2Proof.Machine.execLdAcq d a h z q s
  | .stRel a b h z q => Sys2Proof.Machine.execStRel a b h z q s
  | .amoadd d a b h z => Sys2Proof.Machine.execAmoadd d a b h z s
  | .amoand d a b h z => Sys2Proof.Machine.execAmoand d a b h z s
  | .amoor d a b h z => Sys2Proof.Machine.execAmoor d a b h z s
  | .amoxor d a b h z => Sys2Proof.Machine.execAmoxor d a b h z s
  | .amomin d a b h z => Sys2Proof.Machine.execAmomin d a b h z s
  | .amomax d a b h z => Sys2Proof.Machine.execAmomax d a b h z s
  | .amominu d a b h z => Sys2Proof.Machine.execAmominu d a b h z s
  | .amomaxu d a b h z => Sys2Proof.Machine.execAmomaxu d a b h z s
  | .amoswap d a b h z => Sys2Proof.Machine.execAmoswap d a b h z s
  | .amocas d a b h z => Sys2Proof.Machine.execAmocas d a b h z s
  | .famoadd d a b h z => Sys2Proof.Machine.execFamoadd d a b h z s
  | .redAdd a b h f => Sys2Proof.Machine.execRedAdd a b h f s
  | .redMin a b h f => Sys2Proof.Machine.execRedMin a b h f s
  | .redMax a b h f => Sys2Proof.Machine.execRedMax a b h f s
  | .cwb a b q => Sys2Proof.Machine.execCwb a b q s
  | .cinv a b q => Sys2Proof.Machine.execCinv a b q s
  | .cwbinv a b q => Sys2Proof.Machine.execCwbinv a b q s
  | .vld d a m h z => Sys2Proof.Machine.execVld d a m h z s
  | .vlds d a b m h z => Sys2Proof.Machine.execVlds d a b m h z s
  | .vldx d a b m h z => Sys2Proof.Machine.execVldx d a b m h z s
  | .vldl d a m h z => Sys2Proof.Machine.execVldl d a m h z s
  | .vst d a m h z => Sys2Proof.Machine.execVst d a m h z s
  | .vsts d a b m h z => Sys2Proof.Machine.execVsts d a b m h z s
  | .vstx d a b m h z => Sys2Proof.Machine.execVstx d a b m h z s
  | .vstl d a m h z => Sys2Proof.Machine.execVstl d a m h z s
  | .vadd d a b m t => Sys2Proof.Machine.execVadd d a b m t s
  | .vsub d a b m t => Sys2Proof.Machine.execVsub d a b m t s
  | .vmul d a b m t => Sys2Proof.Machine.execVmul d a b m t s
  | .vmulh d a b m t => Sys2Proof.Machine.execVmulh d a b m t s
  | .vmin d a b m t => Sys2Proof.Machine.execVmin d a b m t s
  | .vmax d a b m t => Sys2Proof.Machine.execVmax d a b m t s
  | .vadds d a b m t => Sys2Proof.Machine.execVadds d a b m t s
  | .vsubs d a b m t => Sys2Proof.Machine.execVsubs d a b m t s
  | .vand d a b m t => Sys2Proof.Machine.execVand d a b m t s
  | .vor d a b m t => Sys2Proof.Machine.execVor d a b m t s
  | .vxor d a b m t => Sys2Proof.Machine.execVxor d a b m t s
  | .vsll d a b m t => Sys2Proof.Machine.execVsll d a b m t s
  | .vsr d a b m t => Sys2Proof.Machine.execVsr d a b m t s
  | .vdiv d a b m t => Sys2Proof.Machine.execVdiv d a b m t s
  | .vrem d a b m t => Sys2Proof.Machine.execVrem d a b m t s
  | .vceq d a b m t => Sys2Proof.Machine.execVceq d a b m t s
  | .vcne d a b m t => Sys2Proof.Machine.execVcne d a b m t s
  | .vclt d a b m t => Sys2Proof.Machine.execVclt d a b m t s
  | .vcge d a b m t => Sys2Proof.Machine.execVcge d a b m t s
  | .vcle d a b m t => Sys2Proof.Machine.execVcle d a b m t s
  | .vcgt d a b m t => Sys2Proof.Machine.execVcgt d a b m t s
  | .vfadd t d a b m r => Sys2Proof.Machine.execVfadd t d a b m r s
  | .vfsub t d a b m r => Sys2Proof.Machine.execVfsub t d a b m r s
  | .vfmul t d a b m r => Sys2Proof.Machine.execVfmul t d a b m r s
  | .vfdiv t d a b m r => Sys2Proof.Machine.execVfdiv t d a b m r s
  | .vfma t d a b m r => Sys2Proof.Machine.execVfma t d a b m r s
  | .vfms t d a b m r => Sys2Proof.Machine.execVfms t d a b m r s
  | .vfnma t d a b m r => Sys2Proof.Machine.execVfnma t d a b m r s
  | .vfmin t d a b m => Sys2Proof.Machine.execVfmin t d a b m s
  | .vfmax t d a b m => Sys2Proof.Machine.execVfmax t d a b m s
  | .vfeq t d a b m => Sys2Proof.Machine.execVfeq t d a b m s
  | .vflt t d a b m => Sys2Proof.Machine.execVflt t d a b m s
  | .vfle t d a b m => Sys2Proof.Machine.execVfle t d a b m s
  | .vfun t d a b m => Sys2Proof.Machine.execVfun t d a b m s
  | .vfabs t d a m => Sys2Proof.Machine.execVfabs t d a m s
  | .vfneg t d a m => Sys2Proof.Machine.execVfneg t d a m s
  | .vfsqrt d a m r t => Sys2Proof.Machine.execVfsqrt d a m r t s
  | .vfrcp d a m r t => Sys2Proof.Machine.execVfrcp d a m r t s
  | .vfrsqrt d a m r t => Sys2Proof.Machine.execVfrsqrt d a m r t s
  | .vfexp2 d a m r t => Sys2Proof.Machine.execVfexp2 d a m r t s
  | .vflog2 d a m r t => Sys2Proof.Machine.execVflog2 d a m r t s
  | .vfexp d a m r t => Sys2Proof.Machine.execVfexp d a m r t s
  | .vflog d a m r t => Sys2Proof.Machine.execVflog d a m r t s
  | .vftanh d a m r t => Sys2Proof.Machine.execVftanh d a m r t s
  | .vfsigm d a m r t => Sys2Proof.Machine.execVfsigm d a m r t s
  | .vfsin d a m r t => Sys2Proof.Machine.execVfsin d a m r t s
  | .vfcos d a m r t => Sys2Proof.Machine.execVfcos d a m r t s
  | .vredsum d a r m t => Sys2Proof.Machine.execVredsum d a r m t s
  | .vredmax d a m t => Sys2Proof.Machine.execVredmax d a m t s
  | .vredmin d a m t => Sys2Proof.Machine.execVredmin d a m t s
  | .vscan d a r m t => Sys2Proof.Machine.execVscan d a r m t s
  | .vscanx d a r m t => Sys2Proof.Machine.execVscanx d a r m t s
  | .vsgsum d a b m t => Sys2Proof.Machine.execVsgsum d a b m t s
  | .vsgmax d a b m t => Sys2Proof.Machine.execVsgmax d a b m t s
  | .vsgmin d a b m t => Sys2Proof.Machine.execVsgmin d a b m t s
  | .vsgscan d a b m t => Sys2Proof.Machine.execVsgscan d a b m t s
  | .vsgbcast d a b m t => Sys2Proof.Machine.execVsgbcast d a b m t s
  | .vsgrefill d a b t => Sys2Proof.Machine.execVsgrefill d a b t s
  | .vperm d a b m z => Sys2Proof.Machine.execVperm d a b m z s
  | .vslideup d a b m z => Sys2Proof.Machine.execVslideup d a b m z s
  | .vslidedn d a b m z => Sys2Proof.Machine.execVslidedn d a b m z s
  | .vbcast d a m z => Sys2Proof.Machine.execVbcast d a m z s
  | .vmvxv d a b z => Sys2Proof.Machine.execVmvxv d a b z s
  | .vmvvx d a b z => Sys2Proof.Machine.execVmvvx d a b z s
  | .vid d m z => Sys2Proof.Machine.execVid d m z s
  | .vsel d a b m z => Sys2Proof.Machine.execVsel d a b m z s
  | .vcvt d a e r m q => Sys2Proof.Machine.execVcvt d a e r m q s
  | .vcvtNsat d a r m q => Sys2Proof.Machine.execVcvtNsat d a r m q s
  | .vmxcvt d a b m f => Sys2Proof.Machine.execVmxcvt d a b m f s
  | .vmxext d a b m f => Sys2Proof.Machine.execVmxext d a b m f s
  | .vqcvt d a b m f => Sys2Proof.Machine.execVqcvt d a b m f s
  | .vqgext d a b m f => Sys2Proof.Machine.execVqgext d a b m f s
  | .vwid4I8I4 d a m => Sys2Proof.Machine.execVwid4I8I4 d a m s
  | .vwid4N8N4 d a m => Sys2Proof.Machine.execVwid4N8N4 d a m s
  | .vnar4I4I8 d a m => Sys2Proof.Machine.execVnar4I4I8 d a m s
  | .vnar4N4N8 d a m => Sys2Proof.Machine.execVnar4N4N8 d a m s
  | .vclaim d a => Sys2Proof.Machine.execVclaim d a s
  | .vsbindRd n a => Sys2Proof.Machine.execVsbindRd n a s
  | .vsbindWr n a => Sys2Proof.Machine.execVsbindWr n a s
  | .vsunbind n => Sys2Proof.Machine.execVsunbind n s
  | .mxCfg a k => Sys2Proof.Machine.execMxCfg a k s
  | .mxTask a b d => Sys2Proof.Machine.execMxTask a b d s
  | .mxWait a d => Sys2Proof.Machine.execMxWait a d s
  | .mxZero a d => Sys2Proof.Machine.execMxZero a d s
  | .ringCfg a n => Sys2Proof.Machine.execRingCfg a n s
  | .ringSt n d => Sys2Proof.Machine.execRingSt n d s
  | .ringReset n d => Sys2Proof.Machine.execRingReset n d s
  | .cpGo a b => Sys2Proof.Machine.execCpGo a b s
  | .cpSet a k => Sys2Proof.Machine.execCpSet a k s
  | .cpGet d k => Sys2Proof.Machine.execCpGet d k s
  | .cpWait d => Sys2Proof.Machine.execCpWait d s
  | .barInit a b d => Sys2Proof.Machine.execBarInit a b d s
  | .barInitF a b d => Sys2Proof.Machine.execBarInitF a b d s
  | .barArr a b d => Sys2Proof.Machine.execBarArr a b d s
  | .barWait a b d => Sys2Proof.Machine.execBarWait a b d s
  | .barArrw a b d => Sys2Proof.Machine.execBarArrw a b d s
  | .barKill a d => Sys2Proof.Machine.execBarKill a d s
  | .barRd a d => Sys2Proof.Machine.execBarRd a d s
  | .evWait a => Sys2Proof.Machine.execEvWait a s
  | .evFire a => Sys2Proof.Machine.execEvFire a s
  | .mtxLock a d => Sys2Proof.Machine.execMtxLock a d s
  | .mtxTry a d => Sys2Proof.Machine.execMtxTry a d s
  | .mtxUnlock a d => Sys2Proof.Machine.execMtxUnlock a d s
  | .cntInit a b d => Sys2Proof.Machine.execCntInit a b d s
  | .cntAdd a b d => Sys2Proof.Machine.execCntAdd a b d s
  | .cntRd a d => Sys2Proof.Machine.execCntRd a d s
  | .cntWait a b d => Sys2Proof.Machine.execCntWait a b d s
  | .gbar a d => Sys2Proof.Machine.execGbar a d s
  | .barAlloc a d => Sys2Proof.Machine.execBarAlloc a d s
  | .cntAlloc a d => Sys2Proof.Machine.execCntAlloc a d s
  | .mtxAlloc d => Sys2Proof.Machine.execMtxAlloc d s
  | .barFree a d => Sys2Proof.Machine.execBarFree a d s
  | .cntFree a d => Sys2Proof.Machine.execCntFree a d s
  | .mtxFree a d => Sys2Proof.Machine.execMtxFree a d s
  | .rimeAlloc a d => Sys2Proof.Machine.execRimeAlloc a d s
  | .rimeFree a d => Sys2Proof.Machine.execRimeFree a d s
  | .rimeBind a b d => Sys2Proof.Machine.execRimeBind a b d s
  | .rimeUnbind a b d => Sys2Proof.Machine.execRimeUnbind a b d s
  | .rimeSync a d => Sys2Proof.Machine.execRimeSync a d s
  | .rimeRd a b d => Sys2Proof.Machine.execRimeRd a b d s
  | .rimeClr a d => Sys2Proof.Machine.execRimeClr a d s
  | .collGo a d => Sys2Proof.Machine.execCollGo a d s
  | .collWait a d => Sys2Proof.Machine.execCollWait a d s
  | .collWaitMc a d => Sys2Proof.Machine.execCollWaitMc a d s
  | .collAbort a d => Sys2Proof.Machine.execCollAbort a d s
  | .collStx a b d => Sys2Proof.Machine.execCollStx a b d s
  | .collReq a d => Sys2Proof.Machine.execCollReq a d s
  | .collTake d => Sys2Proof.Machine.execCollTake d s
  | .grpSet a b d => Sys2Proof.Machine.execGrpSet a b d s
  | .grpClr a d => Sys2Proof.Machine.execGrpClr a d s
  | .mcLdred a d => Sys2Proof.Machine.execMcLdred a d s
  | .aucRun a d => Sys2Proof.Machine.execAucRun a d s
  | .aucWait a d => Sys2Proof.Machine.execAucWait a d s
  | .aucPset a b d => Sys2Proof.Machine.execAucPset a b d s
  | .aucPget a b d => Sys2Proof.Machine.execAucPget a b d s
  | .aucPclr a d => Sys2Proof.Machine.execAucPclr a d s
  | .exit => Sys2Proof.Machine.execExit s
  | .yield => Sys2Proof.Machine.execYield s
  | .brk => Sys2Proof.Machine.execBrk s
  | .fenceAcqCore => Sys2Proof.Machine.execFenceAcqCore s
  | .fenceAcqFloe => Sys2Proof.Machine.execFenceAcqFloe s
  | .fenceAcqDie => Sys2Proof.Machine.execFenceAcqDie s
  | .fenceAcqPkg => Sys2Proof.Machine.execFenceAcqPkg s
  | .fenceAcqSys => Sys2Proof.Machine.execFenceAcqSys s
  | .fenceRelCore => Sys2Proof.Machine.execFenceRelCore s
  | .fenceRelFloe => Sys2Proof.Machine.execFenceRelFloe s
  | .fenceRelDie => Sys2Proof.Machine.execFenceRelDie s
  | .fenceRelPkg => Sys2Proof.Machine.execFenceRelPkg s
  | .fenceRelSys => Sys2Proof.Machine.execFenceRelSys s
  | .fenceScCore => Sys2Proof.Machine.execFenceScCore s
  | .fenceScFloe => Sys2Proof.Machine.execFenceScFloe s
  | .fenceScDie => Sys2Proof.Machine.execFenceScDie s
  | .fenceScPkg => Sys2Proof.Machine.execFenceScPkg s
  | .fenceScSys => Sys2Proof.Machine.execFenceScSys s
  | .lunpin => Sys2Proof.Machine.execLunpin s
  | .vfree => Sys2Proof.Machine.execVfree s
  | .powerOn => Sys2Proof.Machine.execPowerOn s
  | .bootlen => Sys2Proof.Machine.execBootlen s
  | .imageVerification => Sys2Proof.Machine.execImageVerification s
  | .deviceReset => Sys2Proof.Machine.execDeviceReset s
  | .hostLinkDown => Sys2Proof.Machine.execHostLinkDown s
  | .hostLinkUp => Sys2Proof.Machine.execHostLinkUp s
  | .hostWrite => Sys2Proof.Machine.execHostWrite s
  | .hostRead => Sys2Proof.Machine.execHostRead s
  | .ringtail => Sys2Proof.Machine.execRingtail s
  | .ringEnable => Sys2Proof.Machine.execRingEnable s
  | .ringDisable => Sys2Proof.Machine.execRingDisable s
  | .registerWrite => Sys2Proof.Machine.execRegisterWrite s
  | .ckptctlGo => Sys2Proof.Machine.execCkptctlGo s
  | .checkpointComplete => Sys2Proof.Machine.execCheckpointComplete s
  | .replaygo => Sys2Proof.Machine.execReplaygo s
  | .replayPassEnd => Sys2Proof.Machine.execReplayPassEnd s
  | .attgo => Sys2Proof.Machine.execAttgo s
  | .attestationReport => Sys2Proof.Machine.execAttestationReport s
  | .debugHalt => Sys2Proof.Machine.execDebugHalt s
  | .debugResume => Sys2Proof.Machine.execDebugResume s
  | .debugStep => Sys2Proof.Machine.execDebugStep s
  | .debugStepDone => Sys2Proof.Machine.execDebugStepDone s
  | .launch => Sys2Proof.Machine.execLaunch s
  | .waitOnObject => Sys2Proof.Machine.execWaitOnObject s
  | .signalArrival => Sys2Proof.Machine.execSignalArrival s
  | .signalCntAdd => Sys2Proof.Machine.execSignalCntAdd s
  | .routerConfigSet => Sys2Proof.Machine.execRouterConfigSet s
  | .routerConfigGet => Sys2Proof.Machine.execRouterConfigGet s
  | .routerConfigClear => Sys2Proof.Machine.execRouterConfigClear s
  | .timeStep => Sys2Proof.Machine.execTimeStep s
  | .timeSlew => Sys2Proof.Machine.execTimeSlew s
  | .changeAttribute => Sys2Proof.Machine.execChangeAttribute s
  | .compress => Sys2Proof.Machine.execCompress s
  | .shootDown => Sys2Proof.Machine.execShootDown s
  | .mmRequestComplete => Sys2Proof.Machine.execMmRequestComplete s
  | .shootdownComplete => Sys2Proof.Machine.execShootdownComplete s
  | .launchAccept => Sys2Proof.Machine.execLaunchAccept s
  | .launchStart => Sys2Proof.Machine.execLaunchStart s
  | .launchComplete => Sys2Proof.Machine.execLaunchComplete s
  | .preemption => Sys2Proof.Machine.execPreemption s
  | .preemptionSave => Sys2Proof.Machine.execPreemptionSave s
  | .restore => Sys2Proof.Machine.execRestore s
  | .recordTakeUp => Sys2Proof.Machine.execRecordTakeUp s
  | .floePoolMigration => Sys2Proof.Machine.execFloePoolMigration s
  | .pauseExpire => Sys2Proof.Machine.execPauseExpire s
  | .stallCountExpire => Sys2Proof.Machine.execStallCountExpire s
  | .resultLand => Sys2Proof.Machine.execResultLand s
  | .ptsTick => Sys2Proof.Machine.execPtsTick s
  | .wakeupMessage => Sys2Proof.Machine.execWakeupMessage s
  | .xstatGo => Sys2Proof.Machine.execXstatGo s
  | .walkComplete => Sys2Proof.Machine.execWalkComplete s
  | .expansionComplete => Sys2Proof.Machine.execExpansionComplete s
  | .rimeFold => Sys2Proof.Machine.execRimeFold s
  | .copyStart => Sys2Proof.Machine.execCopyStart s
  | .copyRingTile => Sys2Proof.Machine.execCopyRingTile s
  | .copyComplete => Sys2Proof.Machine.execCopyComplete s
  | .streamFetch => Sys2Proof.Machine.execStreamFetch s
  | .streamPushWrite => Sys2Proof.Machine.execStreamPushWrite s
  | .taskDispatch => Sys2Proof.Machine.execTaskDispatch s
  | .limiterStep => Sys2Proof.Machine.execLimiterStep s
  | .taskRetire => Sys2Proof.Machine.execTaskRetire s
  | .drainRetire => Sys2Proof.Machine.execDrainRetire s
  | .zeroTaskRetire => Sys2Proof.Machine.execZeroTaskRetire s
  | .objectMigration => Sys2Proof.Machine.execObjectMigration s
  | .blockForward => Sys2Proof.Machine.execBlockForward s
  | .groupReport => Sys2Proof.Machine.execGroupReport s
  | .blockAdmit => Sys2Proof.Machine.execBlockAdmit s
  | .planReservation => Sys2Proof.Machine.execPlanReservation s
  | .collectiveStep => Sys2Proof.Machine.execCollectiveStep s
  | .slotFreeNotice => Sys2Proof.Machine.execSlotFreeNotice s
  | .reductionWindowComplete => Sys2Proof.Machine.execReductionWindowComplete s
  | .chunkDelivery => Sys2Proof.Machine.execChunkDelivery s
  | .collectiveDecided => Sys2Proof.Machine.execCollectiveDecided s
  | .collectiveTimeout => Sys2Proof.Machine.execCollectiveTimeout s
  | .abortWord => Sys2Proof.Machine.execAbortWord s
  | .memberLossWord => Sys2Proof.Machine.execMemberLossWord s
  | .flitReceive => Sys2Proof.Machine.execFlitReceive s
  | .retryRequest => Sys2Proof.Machine.execRetryRequest s
  | .ackTimeout => Sys2Proof.Machine.execAckTimeout s
  | .linkRetrainDone => Sys2Proof.Machine.execLinkRetrainDone s
  | .nodeLost => Sys2Proof.Machine.execNodeLost s
  | .nodeLeave => Sys2Proof.Machine.execNodeLeave s
  | .nodeReadmit => Sys2Proof.Machine.execNodeReadmit s
  | .runBegin => Sys2Proof.Machine.execRunBegin s
  | .biddingRound => Sys2Proof.Machine.execBiddingRound s
  | .routerCompletion => Sys2Proof.Machine.execRouterCompletion s
  | .routerRunEnd => Sys2Proof.Machine.execRouterRunEnd s
  | .timeReferenceLost => Sys2Proof.Machine.execTimeReferenceLost s
  | .timeRelock => Sys2Proof.Machine.execTimeRelock s
  | .scrub => Sys2Proof.Machine.execScrub s
  | .illegalInstruction => Sys2Proof.Machine.execIllegalInstruction s
  | .peerPackageAccess => Sys2Proof.Machine.execPeerPackageAccess s
  | .tenantReconfiguration => Sys2Proof.Machine.execTenantReconfiguration s
  | .negativeStepAbsorbed => Sys2Proof.Machine.execNegativeStepAbsorbed s
  | .islandPowerGating => Sys2Proof.Machine.execIslandPowerGating s
  | .bootStagingWrite => Sys2Proof.Machine.execBootStagingWrite s

end Sys2Proof.Machine
end

