-- ==== Sys2Proof/Machine/Step.lean ====
section
/-! DEFINITION. One step of the machine, and the placing of one instruction where the next step fetches it. -/

namespace Sys2Proof.Machine

/-- One step (R6): a slot issues one instruction, another agent acts, or a cycle passes. -/
def step (s : State) : Host.Outcome State Fault Refusal :=
  match next s with
  | .run s' i brk => conclude s' i brk (exec i s')
  | .over s' => .next (closeStep s')
  | .notEvent => .fault .notAnEvent

/-- The state with one instruction word where the next step fetches it (R24, R33, R179): a launch's thread in the current
slot, its code page in its core's PLB with execute right, and the word at its PC. -/
def State.withFetchWord (s : State) (nbits w : Nat) : State := placeWord s (w % 2 ^ nbits)

end Sys2Proof.Machine
end

