-- ==== Sys2Proof/Safety.lean ====
section
/-! DEFINITION. The terms in which claims speak of a step: what has settled before it, what it may change, and the state
properties that every step keeps. -/

namespace Sys2Proof.Machine

/-! ### Before an instruction -/

/-- No fixed-latency result of these registers is outstanding (R140): a vector register is 32 + its number. -/
def Settled (t : Thread) (rs : List Nat) : Prop := ∀ r ∈ rs, ∀ p ∈ t.pend, p.reg ≠ r

/-- An access of `n` bytes at an address is aligned and resolves to a storage key and a class, and no data comparator watches the
core (R57 to R62, R80, R170, R183, R336, R351). -/
def Resolves (s : State) (nd : Need) (a n key : Nat) (cls : Cls) : Prop :=
  a % n = 0 ∧ resolve s s.th.core s.tenant nd a n = .ok key cls ∧ ∀ d ∈ s.host.dbg, d.core ≠ s.th.core

/-- The checks before an access pass: it resolves, and nothing that it reads is poisoned, in the core's L1 where that serves it
(R367). -/
def CanAccess (s : State) (nd : Need) (a n key : Nat) (cls : Cls) : Prop :=
  Resolves s nd a n key cls ∧ (nd = .rd → badRead s a key n cls = false)

/-- The checks before an access that is made at its home pass (R94, R186, R190): it resolves, its sector is at its L2 home, and
nothing that it reads there is poisoned. -/
def CanAccessHome (s : State) (nd : Need) (a n key : Nat) (cls : Cls) : Prop :=
  Resolves s nd a n key cls ∧ needsHome s a key cls = false ∧ (nd = .rd → badHome s a key n = false)

/-- Both rights, for an access that reads and writes at its home (R186). -/
def CanAccessRW (s : State) (a n key : Nat) (cls : Cls) : Prop :=
  CanAccess s .wr a n key cls ∧ CanAccessHome s .rd a n key cls

/-- A handle names an object of a kind that the current slot's tenant may use (R57, R235). -/
def CanUse (s : State) (h : Nat) (k : HKind) (o : Obj) : Prop :=
  h % (if k = .rime then 256 else 64) = 0 ∧ h < 2 ^ 57 ∧ inSync h = true ∧ s.obj h = some o ∧ o.kind.is k = true ∧
    o.tenant = s.tenant

/-! ### After an instruction -/

/-- Two threads differ at most in what issuing an instruction and going on changes (R39, R140, R180, R182). -/
def IssueOnly (a b : Thread) : Prop :=
  b = { a with pc := b.pc, rep := b.rep, pin := b.pin, pend := b.pend, stall := b.stall, hold := b.hold }

/-- The slot goes on in sequence: W is waited out, and outside a repetition the PC is 4 more (R39, R136). -/
def GoesOn (s t : State) : Prop :=
  t.th.stall = s.th.ir.toNat / 2 ^ 30 ∧ (s.th.rep = none → t.th.pc = s.th.pc + 4 ∧ t.th.rep = none)

/-- Outside the current thread nothing has changed. -/
def ThreadOnly (s t : State) : Prop := t = { s with th := t.th }

/-- The instruction has completed with `u` as the thread's state, and nothing else has changed anywhere. -/
def Done (s t : State) (u : Thread) : Prop := ThreadOnly s t ∧ IssueOnly u t.th ∧ GoesOn s t

/-- Every byte of storage is as it was. -/
def SameBytes (s t : State) : Prop := ∀ k, t.mem.bytes.get k = s.mem.bytes.get k

/-- Every byte of storage outside a range is as it was. -/
def SameBytesBut (s t : State) (key n : Nat) : Prop :=
  ∀ k, k < key ∨ key + n ≤ k → t.mem.bytes.get k = s.mem.bytes.get k

/-- A wait has begun: the slot is gated with its instruction not completed, and nothing else has changed (R43). -/
def Gated (s t : State) (w : Wait) : Prop := t = { s with th := { s.th with wait := w } }

/-! ### Properties of states -/

/-- Each core's PLB holds at most 128 entries (R80). -/
def PlbFits (s : State) : Prop := ∀ core, (s.mem.plb.countP fun e => decide (e.1 = core)) ≤ 128

end Sys2Proof.Machine
end

