-- ==== Sys2Proof/Certificates/Slice0/Obligations.lean ====
section
/-! DEFINITION. The statements for the provers, and the tables of the spec that they speak of. -/

open Sys2Proof Sys2Proof.Machine

set_option linter.unusedVariables false

/-! ### Integer instructions -/

/-- The table of R171, and R173's shifts and immediates: destination, sources and result of each form, from signed and
unsigned readings of the operands. -/
def intResult (i : Instr) (t : Thread) : Option (Reg × List Reg × Word) :=
  let n (a : Reg) : Nat := (t.getX a).toNat
  let z (a : Reg) : Int := (t.getX a).toInt
  let sx (v : Int) : Word := (BitVec.ofInt 32 v).signExtend 64
  match i with
  | .add d a b => some (d, [a, b], BitVec.ofNat 64 (n a + n b))
  | .sub d a b => some (d, [a, b], BitVec.ofInt 64 (z a - z b))
  | .and d a b => some (d, [a, b], BitVec.ofNat 64 (n a &&& n b))
  | .or d a b => some (d, [a, b], BitVec.ofNat 64 (n a ||| n b))
  | .xor d a b => some (d, [a, b], BitVec.ofNat 64 (n a ^^^ n b))
  | .sll d a b => some (d, [a, b], BitVec.ofNat 64 (n a * 2 ^ (n b % 64)))
  | .srl d a b => some (d, [a, b], BitVec.ofNat 64 (n a / 2 ^ (n b % 64)))
  | .sra d a b => some (d, [a, b], BitVec.ofInt 64 (z a / 2 ^ (n b % 64)))
  | .slt d a b => some (d, [a, b], if z a < z b then 1 else 0)
  | .sltu d a b => some (d, [a, b], if n a < n b then 1 else 0)
  | .min d a b => some (d, [a, b], BitVec.ofInt 64 (min (z a) (z b)))
  | .max d a b => some (d, [a, b], BitVec.ofInt 64 (max (z a) (z b)))
  | .minu d a b => some (d, [a, b], BitVec.ofNat 64 (min (n a) (n b)))
  | .maxu d a b => some (d, [a, b], BitVec.ofNat 64 (max (n a) (n b)))
  | .addw d a b => some (d, [a, b], sx (z a + z b))
  | .subw d a b => some (d, [a, b], sx (z a - z b))
  | .sllw d a b => some (d, [a, b], sx (n a * 2 ^ (n b % 32) : Nat))
  | .srlw d a b => some (d, [a, b], sx (n a % 2 ^ 32 / 2 ^ (n b % 32) : Nat))
  | .sraw d a b => some (d, [a, b], sx (((t.getX a).setWidth 32).toInt / 2 ^ (n b % 32)))
  | .clz d a => some (d, [a], BitVec.ofNat 64 ((List.range 64).takeWhile fun j => !(t.getX a).getLsbD (63 - j)).length)
  | .ctz d a => some (d, [a], BitVec.ofNat 64 ((List.range 64).takeWhile fun j => !(t.getX a).getLsbD j).length)
  | .popc d a => some (d, [a], BitVec.ofNat 64 ((List.range 64).filter fun j => (t.getX a).getLsbD j).length)
  | .addi d a k => some (d, [a], BitVec.ofInt 64 (z a + k.toInt))
  | .andi d a k => some (d, [a], t.getX a &&& BitVec.ofInt 64 k.toInt)
  | .ori d a k => some (d, [a], t.getX a ||| BitVec.ofInt 64 k.toInt)
  | .xori d a k => some (d, [a], t.getX a ^^^ BitVec.ofInt 64 k.toInt)
  | .slti d a k => some (d, [a], if z a < k.toInt then 1 else 0)
  | .slli d a k => some (d, [a], BitVec.ofNat 64 (n a * 2 ^ k.toNat))
  | .srli d a k => some (d, [a], BitVec.ofNat 64 (n a / 2 ^ k.toNat))
  | .srai d a k => some (d, [a], BitVec.ofInt 64 (z a / 2 ^ k.toNat))
  | .lui d k => some (d, [], sx (k.toNat * 2 ^ 13 : Nat))
  | .auipc d k => some (d, [], t.pc + sx (k.toNat * 2 ^ 13 : Nat))
  | _ => none

/-- The tables of R172: truncating division with its edge cases, and the halves of a product. -/
def mulDivResult (i : Instr) (t : Thread) : Option (Reg × List Reg × Word) :=
  let n (a : Reg) : Nat := (t.getX a).toNat
  let z (a : Reg) : Int := (t.getX a).toInt
  let n32 (a : Reg) : Nat := n a % 2 ^ 32
  let z32 (a : Reg) : Int := ((t.getX a).setWidth 32).toInt
  let sx (v : Int) : Word := (BitVec.ofInt 32 v).signExtend 64
  match i with
  | .mul d a b => some (d, [a, b], BitVec.ofNat 64 (n a * n b))
  | .mulh d a b => some (d, [a, b], BitVec.ofInt 64 (z a * z b / 2 ^ 64))
  | .mulhu d a b => some (d, [a, b], BitVec.ofNat 64 (n a * n b / 2 ^ 64))
  | .mulhsu d a b => some (d, [a, b], BitVec.ofInt 64 (z a * n b / 2 ^ 64))
  | .mulw d a b => some (d, [a, b], sx (n a * n b : Nat))
  | .div d a b => some (d, [a, b], if n b = 0 then BitVec.ofInt 64 (-1) else BitVec.ofInt 64 ((z a).tdiv (z b)))
  | .divu d a b => some (d, [a, b], if n b = 0 then BitVec.ofInt 64 (-1) else BitVec.ofNat 64 (n a / n b))
  | .rem d a b => some (d, [a, b], if n b = 0 then t.getX a else BitVec.ofInt 64 ((z a).tmod (z b)))
  | .remu d a b => some (d, [a, b], if n b = 0 then t.getX a else BitVec.ofNat 64 (n a % n b))
  | .divw d a b => some (d, [a, b], if n32 b = 0 then BitVec.ofInt 64 (-1) else sx ((z32 a).tdiv (z32 b)))
  | .divuw d a b => some (d, [a, b], if n32 b = 0 then BitVec.ofInt 64 (-1) else sx (n32 a / n32 b : Nat))
  | .remw d a b => some (d, [a, b], if n32 b = 0 then sx (z32 a) else sx ((z32 a).tmod (z32 b)))
  | .remuw d a b => some (d, [a, b], if n32 b = 0 then sx (n32 a) else sx (n32 a % n32 b : Nat))
  | _ => none

/-- R171, R173: every integer form with settled sources completes with the table's value in its destination; x0 keeps 0, and
nothing else changes in the slot or outside it. -/
def IntegerResults : Prop :=
  ∀ (i : Instr) (s : State) (d : Reg) (rs : List Reg) (v : Word),
    intResult i s.th = some (d, rs, v) → Settled s.th (rs.map xr) →
    ∃ t, exec i s = .next t ∧ Done s t (s.th.setX d v)

/-- R172: every multiply, divide and remainder form with settled sources completes with the table's value. -/
def MultiplyDivideResults : Prop :=
  ∀ (i : Instr) (s : State) (d : Reg) (rs : List Reg) (v : Word),
    mulDivResult i s.th = some (d, rs, v) → Settled s.th (rs.map xr) →
    ∃ t, exec i s = .next t ∧ Done s t (s.th.setX d v)

/-- R171 to R173: the integer forms and the multiply and divide forms. -/
def Obligations.IntegerForms : Prop := IntegerResults ∧ MultiplyDivideResults

/-! ### Scalar floating point -/

/-- The arithmetic forms of R174: destination, sources, rounding field, type, and the exact result (which sign an exact zero
sum takes depends on RDN). -/
def fpExact (i : Instr) (t : Thread) : Option (Reg × List Reg × RM × FT × (Bool → Ex)) :=
  let f (ty : FT) (a : Reg) : Val := ty.fmt.val ((t.getX a).toNat % 2 ^ ty.fmt.width)
  match i with
  | .fadd d a b r ty => some (d, [a, b], r, ty, fun rdn => addV rdn (f ty a) (f ty b))
  | .fsub d a b r ty => some (d, [a, b], r, ty, fun rdn => addV rdn (f ty a) (f ty b).negate)
  | .fmul d a b r ty => some (d, [a, b], r, ty, fun _ => mulE (f ty a) (f ty b))
  | .fdiv d a b r ty => some (d, [a, b], r, ty, fun _ => divE (f ty a) (f ty b))
  | .fsqrt d a r ty => some (d, [a], r, ty, fun _ => sqrtE (f ty a))
  | .fma d a b r ty => some (d, [a, b, d], r, ty, fun rdn => fmaE rdn (f ty a) (f ty b) (f ty d))
  | _ => none

/-- R174: an arithmetic form rounds its exact result once, writes it zero-extended, accumulates its flags and under SR
consumes one draw. -/
def FloatArithmetic : Prop :=
  ∀ (i : Instr) (s : State) (d : Reg) (rs : List Reg) (r m : RM) (ty : FT) (x : Bool → Ex),
    fpExact i s.th = some (d, rs, r, ty, x) → rmEff r s.th.frm = some m → Settled s.th (rs.map xr) →
    let md := s.th.mode m 0 1 0
    let res := round ty.fmt md false (x (md = .rdn))
    ∃ t, exec i s = .next t ∧
      Done s t ({ s.th with
        fflags := s.th.fflags ||| res.flags
        draw := if m = RM.sr then s.th.draw + 1 else s.th.draw }.setX d (BitVec.ofNat 64 res.bits))

/-- The forms of R175 that never round: destination, sources and result with its flags. -/
def fpPlainResult (i : Instr) (t : Thread) : Option (Reg × List Reg × Rnd) :=
  let n (a : Reg) : Nat := (t.getX a).toNat
  let v (ty : FT) (a : Reg) : Val := ty.fmt.val (n a)
  let nan (ty : FT) (a b : Reg) : Bool := (v ty a).isNan || (v ty b).isNan
  let sig (ty : FT) (a b : Reg) : Bool := (v ty a).isSig || (v ty b).isSig
  let sel (ty : FT) (a b : Reg) (first : Bool) : Rnd :=
    if nan ty a b then ⟨ty.fmt.canon, if sig ty a b then fNV else 0⟩
    else ⟨if first then n a % 2 ^ ty.fmt.width else n b % 2 ^ ty.fmt.width, 0⟩
  match i with
  | .fmin d a b ty => some (d, [a, b], sel ty a b (belowV (v ty a) (v ty b)))
  | .fmax d a b ty => some (d, [a, b], sel ty a b (!belowV (v ty a) (v ty b)))
  | .feq d a b ty => some (d, [a, b],
      ⟨if !nan ty a b && eqV (v ty a) (v ty b) then 1 else 0, if sig ty a b then fNV else 0⟩)
  | .flt d a b ty => some (d, [a, b],
      ⟨if !nan ty a b && ltV (v ty a) (v ty b) then 1 else 0, if nan ty a b then fNV else 0⟩)
  | .fle d a b ty => some (d, [a, b],
      ⟨if !nan ty a b && (ltV (v ty a) (v ty b) || eqV (v ty a) (v ty b)) then 1 else 0, if nan ty a b then fNV else 0⟩)
  | _ => none

/-- R175: minimum, maximum and the compares write their result and accumulate NV as the table says; no draw is consumed. -/
def FloatCompares : Prop :=
  ∀ (i : Instr) (s : State) (d : Reg) (rs : List Reg) (res : Rnd),
    fpPlainResult i s.th = some (d, rs, res) → Settled s.th (rs.map xr) →
    ∃ t, exec i s = .next t ∧
      Done s t ({ s.th with fflags := s.th.fflags ||| res.flags }.setX d (BitVec.ofNat 64 res.bits))

/-- The value that a conversion reads (R176). -/
def cvtValue (u : NumT) (v : Word) : Val :=
  match u with
  | .f64 => Fmt.val .fp64 v.toNat
  | .f32 => Fmt.val .fp32 (v.toNat % 2 ^ 32)
  | .f16 => Fmt.val .fp16 (v.toNat % 2 ^ 16)
  | .bf16 => Fmt.val .bf16 (v.toNat % 2 ^ 16)
  | .i64 => .ofInt v.toInt
  | .n64 => .ofInt v.toNat
  | .i32 => .ofInt (v.setWidth 32).toInt
  | .n32 => .ofInt (v.setWidth 32).toNat

/-- What a conversion writes for an exact value in a mode, with its flags (R176): `.i32` is sign-extended. -/
def cvtResult (t : NumT) (md : Mode) (x : Ex) : Word × BitVec 6 :=
  let fp (f : Fmt) := let r := round f md false x; (BitVec.ofNat 64 r.bits, r.flags)
  let int (w : Nat) (sgn : Bool) := let r := roundInt w sgn md x; (BitVec.ofNat 64 r.bits, r.flags)
  match t with
  | .f64 => fp .fp64
  | .f32 => fp .fp32
  | .f16 => fp .fp16
  | .bf16 => fp .bf16
  | .i64 => int 64 true
  | .n64 => int 64 false
  | .n32 => int 32 false
  | .i32 => (((int 32 true).1.setWidth 32).signExtend 64, (int 32 true).2)

/-- R176: a conversion writes the rounded value of the type it reads, accumulates its flags and under SR consumes a draw. -/
def FloatConversion : Prop :=
  ∀ (s : State) (d a : Reg) (u t : NumT) (r m : RM),
    rmEff r s.th.frm = some m → Settled s.th [xr a] →
    let res := cvtResult t (s.th.mode m 0 1 0) (cvtValue u (s.th.getX a)).ex
    ∃ s', exec (.fcvt d a u r t) s = .next s' ∧
      Done s s' ({ s.th with
        fflags := s.th.fflags ||| res.2
        draw := if m = RM.sr then s.th.draw + 1 else s.th.draw }.setX d res.1)

/-- R175, R176: minimum, maximum, compares and conversions. -/
def Obligations.FloatComparesAndConversions : Prop := FloatCompares ∧ FloatConversion

/-- R165, R174: a form with a rounding field that names `frm` while `frm` holds 5 to 7 takes the ILLEGAL trap, with the word
in `xval`. -/
def ReservedRoundingModeTraps : Prop :=
  ∀ (i : Instr) (s : State) (d : Reg) (rs : List Reg) (ty : FT) (x : Bool → Ex),
    fpExact i s.th = some (d, rs, .dyn, ty, x) → 5 ≤ s.th.frm.toNat →
    exec i s = .next (trap s .illegal 0 s.th.ir.toNat)

/-- R107, R110, R174: the scalar arithmetic forms, and ILLEGAL for a reserved `frm`. -/
def Obligations.FloatForms : Prop := FloatArithmetic ∧ ReservedRoundingModeTraps

/-! ### What accesses leave alone -/

/-- What an access of the current slot may change outside its registers: bytes, poison, pending reductions, lines, the caches'
sectors and bank times, the statistics of bound rime records, the count of bytes dropped for a lost node, and the host system. -/
def AccessOnly (s t : State) : Prop :=
  t.slots = s.slots ∧ t.floes = s.floes ∧ t.lp = s.lp ∧ t.fab = { s.fab with dropped := t.fab.dropped } ∧ t.sync.objs = s.sync.objs ∧
    t.sync.parked = s.sync.parked ∧ t.mem.plb = s.mem.plb ∧ t.mem.root = s.mem.root ∧ t.host.cycle = s.host.cycle

/-- Every byte of memory itself, at its physical address, is as it was. -/
def SameMemory (s t : State) : Prop := ∀ k, k < 2 ^ 61 → t.mem.bytes.get k = s.mem.bytes.get k

/-- The state once the issuing core's own bytes of a software-coherent sector have reached its home, and those of another
package's sector its owner, for an access that is made there (R95, R186, R190). -/
def atHome (s : State) (e : Nat) (cls : Cls) : State :=
  match cls with
  | .swc | .peer => handOver (cleanCopy s s.th.core e false) e cls
  | _ => s

/-! ### Control transfer, repetition, pinning -/

/-- Nothing records a control transfer: the core's trace is off or absent, and no replay session runs (R339, R340). -/
def Quiet (s : State) : Prop := (∀ t ∈ s.host.trace, t.core ≠ s.th.core) ∧ s.host.replayState ≠ 1

/-- The slot goes on at an address, and otherwise only `u` and what issuing changes differ. -/
def GoesTo (s t : State) (u : Thread) (target : Word) : Prop :=
  ThreadOnly s t ∧ IssueOnly u t.th ∧ t.th.stall = s.th.ir.toNat / 2 ^ 30 ∧ t.th.pc = target

/-- The jumps of R177: sources, target, and the register that links PC + 4 (x0: none). -/
def jumpTable (i : Instr) (t : Thread) : Option (List Reg × Word × Reg) :=
  match i with
  | .j o => some ([], t.pc + BitVec.ofInt 64 (4 * o.toInt), 0)
  | .jal o => some ([], t.pc + BitVec.ofInt 64 (4 * o.toInt), 1)
  | .jalr d a k => some ([a], t.getX a + BitVec.ofInt 64 k.toInt, d)
  | _ => none

/-- R177: outside a repetition a jump to a word-aligned target goes there and links the address after it. -/
def JumpsGoToTheirTarget : Prop :=
  ∀ (i : Instr) (s : State) (rs : List Reg) (target : Word) (d : Reg),
    jumpTable i s.th = some (rs, target, d) → s.th.rep = none → Quiet s → Settled s.th (rs.map xr) →
    s.th.pc.toNat % 4 = 0 → target.toNat % 4 = 0 →
    ∃ t, exec i s = .next t ∧ GoesTo s t (s.th.setX d (s.th.pc + 4)) target

/-- R177: `jalr` to a target that is not word-aligned traps MISALIGN with the target in `xaddr`, and links nothing. -/
def JalrMisalignedTraps : Prop :=
  ∀ (s : State) (d a : Reg) (k : BitVec 14),
    s.th.rep = none → Settled s.th [xr a] → (s.th.getX a + BitVec.ofInt 64 k.toInt).toNat % 4 ≠ 0 →
    exec (.jalr d a k) s = .next (trap s .misalign (s.th.getX a + BitVec.ofInt 64 k.toInt).toNat 0)

/-- R177: jumps, and MISALIGN for a misaligned `jalr`. -/
def Obligations.Jumps : Prop := JumpsGoToTheirTarget ∧ JalrMisalignedTraps

/-- The branches of R178: sources, condition, byte offset. -/
def branchTable (i : Instr) (t : Thread) : Option (List Reg × Bool × Int) :=
  let n (a : Reg) : Nat := (t.getX a).toNat
  let z (a : Reg) : Int := (t.getX a).toInt
  match i with
  | .beq a b o => some ([a, b], n a = n b, 4 * o.toInt)
  | .bne a b o => some ([a, b], n a ≠ n b, 4 * o.toInt)
  | .blt a b o => some ([a, b], z a < z b, 4 * o.toInt)
  | .bge a b o => some ([a, b], z b ≤ z a, 4 * o.toInt)
  | .bltu a b o => some ([a, b], n a < n b, 4 * o.toInt)
  | .bgeu a b o => some ([a, b], n b ≤ n a, 4 * o.toInt)
  | .bbs a k o => some ([a], n a / 2 ^ k.toNat % 2 = 1, 4 * o.toInt)
  | .bbc a k o => some ([a], n a / 2 ^ k.toNat % 2 = 0, 4 * o.toInt)
  | _ => none

/-- R178: outside a repetition a branch goes to PC plus its offset when its condition holds, else on at PC + 4; it writes no
register. -/
def Obligations.BranchesFollowTheirCondition : Prop :=
  ∀ (i : Instr) (s : State) (rs : List Reg) (c : Bool) (o : Int),
    branchTable i s.th = some (rs, c, o) → s.th.rep = none → Quiet s → Settled s.th (rs.map xr) →
    ∃ t, exec i s = .next t ∧ GoesTo s t s.th (if c then s.th.pc + BitVec.ofInt 64 o else s.th.pc + 4)

/-- The words that R181 keeps out of a `rep` body. -/
def notInRep : Instr → Bool
  | .j _ | .jal _ | .jalr _ _ _ | .beq _ _ _ | .bne _ _ _ | .blt _ _ _ | .bge _ _ _ | .bltu _ _ _ | .bgeu _ _ _ => true
  | .bbs _ _ _ | .bbc _ _ _ | .rep _ _ | .lpin _ | .lunpin | .exit | .yield | .susp _ _ => true
  | _ => false

/-- R181: a jump, branch, `rep`, `lpin`, `lunpin`, `exit`, `yield` or `susp` reached during a repetition traps ILLEGAL, with
its word in `xval`. -/
def RepetitionForbidsControl : Prop :=
  ∀ (i : Instr) (s : State) (r : Machine.Rep), notInRep i = true → s.th.rep = some r →
    exec i s = .next (trap s .illegal 0 s.th.ir.toNat)

/-- R180, R182, R194: `rep` with a count starts a repetition of the next words at PC + 4, and with 0 skips them; `lpin` keeps a
snapshot of words that can all be fetched, whose sectors enter the caches; `lunpin` ends the pin; `pause` sets the pause count.
Each changes nothing else. -/
def Obligations.RepetitionPinAndPause : Prop :=
  (∀ (s : State) (a : Reg) (n : BitVec 12), s.th.rep = none → Settled s.th [xr a] →
    ∃ t, exec (.rep a n) s = .next t ∧ ThreadOnly s t ∧ IssueOnly s.th t.th ∧
      if s.th.getX a = 0 then t.th.rep = none ∧ t.th.pc = s.th.pc + 4 + BitVec.ofNat 64 (4 * n.toNat)
      else t.th.rep = some ⟨s.th.pc + 4, n.toNat, s.th.getX a, 0⟩ ∧ t.th.pc = s.th.pc + 4) ∧
  (∀ (s : State) (n : BitVec 12) (ws : List Lane), s.th.rep = none →
    fetchMany s (s.th.pc + 4) n.toNat [] = .ok ws →
    ∃ t, exec (.lpin n) s = .next t ∧ SameBytes s t ∧ AccessOnly s t ∧ IssueOnly s.th t.th ∧ GoesOn s t ∧
      ∃ p, t.th.pin = some p ∧ p.start = s.th.pc + 4 ∧ p.words = ws) ∧
  (∀ s : State, s.th.rep = none → ∃ t, exec .lunpin s = .next t ∧ Done s t s.th ∧ t.th.pin = none) ∧
  (∀ (s : State) (n : BitVec 14), ∃ t, exec (.pause n) s = .next t ∧ Done s t { s.th with pause := n.toNat })

/-- R180: completing the last word of a body starts it again with one iteration fewer while more than one is left, and leaves
the repetition after the last; completing any other word goes on inside the body. -/
def RepetitionCounts : Prop :=
  ∀ (t : Thread) (r : Machine.Rep), t.rep = some r →
    let last := t.pc + 4 = r.start + BitVec.ofNat 64 (4 * r.len)
    (last → 1 < r.left.toNat →
      t.complete.pc = r.start ∧ ∃ q, t.complete.rep = some q ∧ q.start = r.start ∧ q.len = r.len ∧
        q.left.toNat = r.left.toNat - 1) ∧
    (last → r.left.toNat ≤ 1 → t.complete.pc = t.pc + 4 ∧ t.complete.rep = none) ∧
    (¬ last → t.complete.pc = t.pc + 4 ∧ t.complete.rep = some r)

/-- R180, R181: what a repetition counts, and which words it forbids. -/
def Obligations.RepetitionBodies : Prop := RepetitionForbidsControl ∧ RepetitionCounts

/-! ### Traps -/

/-- R199, R347: with a handler set and none running, a trap writes its cause, address and value and the PC to the trap CSRs,
records an active repetition, ends the pin, lands every fixed-latency result and goes to the handler; the x and vector
registers, every other part of the thread, memory with its order and every other thread stay as they were. -/
def TrapEntry : Prop :=
  ∀ (s : State) (c : Cause) (xaddr xval : Nat), s.th.xvec ≠ 0 → s.th.inh = false → Quiet s →
    let t := trap s c xaddr xval
    t = { s with th := t.th, host := { s.host with pmu := t.host.pmu }, took := some c } ∧
    t.th.xcause = BitVec.ofNat 8 c.code ∧ t.th.xpc = s.th.pc ∧ t.th.xaddr = BitVec.ofNat 64 xaddr ∧
    t.th.xval = BitVec.ofNat 64 xval ∧ t.th.inh = true ∧ t.th.pc = s.th.xvec ∧
    t.th.pin = none ∧ t.th.pend = [] ∧ t.th.rep = none ∧ t.th.wait = .none ∧ t.th.stall = 0 ∧ t.th.hold = none ∧
    t.th.vpart = none ∧
    (s.th.rep = none → t.th.xrep = false) ∧
    (∀ r, s.th.rep = some r → t.th.xrep = true ∧ t.th.xrlen = BitVec.ofNat 12 r.len ∧ t.th.xrcnt = r.left ∧
      t.th.xriter = r.iter ∧ t.th.xridx = BitVec.ofNat 12 ((s.th.pc - r.start).toNat / 4)) ∧
    t.th = { s.th with
      xcause := t.th.xcause, xpc := t.th.xpc, xaddr := t.th.xaddr, xval := t.th.xval, inh := true, pc := t.th.pc
      pin := none, pend := [], rep := none, wait := .none, stall := 0, hold := none
      vpart := none
      xrep := t.th.xrep, xrlen := t.th.xrlen, xridx := t.th.xridx, xrcnt := t.th.xrcnt, xriter := t.th.xriter }

/-- R199: a trap with no handler, or inside one, kills the thread, and its slot is free. -/
def TrapWithoutHandlerKills : Prop :=
  ∀ (s : State) (c : Cause) (xaddr xval : Nat), s.th.live = true → s.th.ports = [] →
    (s.th.xvec = 0 ∨ s.th.inh = true) →
    (trap s c xaddr xval).th = Thread.idle s.th.core s.th.slot

/-- R199: a trap enters the handler, or kills the thread. -/
def Obligations.TrapsEnterOrKill : Prop := TrapEntry ∧ TrapWithoutHandlerKills

/-- R198, R165: with a handler set and none running, `sys n` takes the SYS trap with n in `xval`, `brk` the BREAK trap, and a
word that names no instruction the ILLEGAL trap with the word in `xval`; `xpc` holds their own address. -/
def Obligations.SystemCallBreakAndIllegal : Prop :=
  ∀ (s : State) (n : BitVec 14), s.th.xvec ≠ 0 → s.th.inh = false →
    (∃ t, exec (.sys n) s = .next t ∧ t.th.xcause = 0x0F ∧ t.th.xval = BitVec.ofNat 64 n.toNat ∧ t.th.xaddr = 0 ∧
      t.th.xpc = s.th.pc ∧ t.th.inh = true ∧ t.th.pc = s.th.xvec ∧ t.th.x = s.th.x) ∧
    (∃ t, exec .brk s = .next t ∧ t.th.xcause = 0x0A ∧ t.th.xval = 0 ∧ t.th.xaddr = 0 ∧
      t.th.xpc = s.th.pc ∧ t.th.inh = true ∧ t.th.pc = s.th.xvec ∧ t.th.x = s.th.x) ∧
    (∃ t, exec .illegalInstruction s = .next t ∧ t.th.xcause = 0x01 ∧ t.th.xval = BitVec.ofNat 64 s.th.ir.toNat ∧
      t.th.xaddr = 0 ∧ t.th.xpc = s.th.pc ∧ t.th.inh = true ∧ t.th.pc = s.th.xvec ∧ t.th.x = s.th.x)

/-- R200: a return from a handler leaves it, goes to `xpc`, and resumes the recorded repetition; outside a handler it traps
PRIV. A return is what `csrrw` of `xstat` with go does and the event XSTAT_GO. -/
def Obligations.TrapReturn : Prop :=
  (∀ s : State, s.th.live = true → s.th.inh = true →
    ∃ t, exec .xstatGo s = .next t ∧ ThreadOnly s t ∧ IssueOnly { s.th with inh := false } t.th ∧
      t.th.pc = s.th.xpc ∧
      (s.th.xrep = false → t.th.rep = none) ∧
      (s.th.xrep = true → t.th.rep =
        some ⟨s.th.xpc - BitVec.ofNat 64 (4 * s.th.xridx.toNat), s.th.xrlen.toNat, s.th.xrcnt, s.th.xriter⟩)) ∧
  (∀ s : State, s.th.live = true → s.th.inh = false → exec .xstatGo s = .next (trap s .priv 0 0x105)) ∧
  (∀ (s : State) (d a : Reg), s.th.pend = [] → s.th.inh = true → (s.th.getX a).getLsbD 63 = true →
    ∃ t, exec (.csrrw d a 0x105) s = .next t ∧ t.th.inh = false ∧ t.th.pc = s.th.xpc ∧
      t.th.xrep = (s.th.getX a).getLsbD 31)

/-- R141, R170, R208: ILLEGAL is found before STALL, STALL before NOLANES, and with `chk` set an uncovered operand traps STALL
with the register in `xval` (32 and above for a vector register). -/
def Obligations.ChecksInOrder : Prop :=
  ∀ (s k : State) (rs : List Nat) (vec : Bool),
    attempt s true rs vec k = trap s .illegal 0 s.th.ir.toNat ∧
    (∀ r, s.th.chk = true → s.th.uncovered r = true → attempt s false (r :: rs) vec k = trap s .stall 0 r) ∧
    (s.th.chk = false → s.th.gran = 0 → attempt s false rs true k = trap s .nolanes 0 0) ∧
    (s.th.chk = false → s.th.gran ≠ 0 → attempt s false rs vec k = k)

/-- R139, R140: a fixed-latency result of latency `l` in a register other than x0 is outstanding after its instruction with W
cycles exactly when `l` exceeds W + 1, with the difference as its credit; encoding version 1 interlocks it. -/
def Obligations.FixedLatencyCredit : Prop :=
  ∀ (s : State) (l : Nat) (d : Reg) (v : Word), d ≠ 0 → s.th.pend = [] →
    let w := s.th.ir.toNat / 2 ^ 30
    let t := retXFix s l d v
    (s.th.enc ≠ 1 → w + 1 < l → ∃ p, t.th.pend = [p] ∧ p.reg = d.val ∧ p.credit = l - (w + 1) ∧
      p.old = (s.th.getX d).setWidth 2048) ∧
    (s.th.enc = 1 ∨ l ≤ w + 1 → t.th.pend = [])

/-! ### CSRs -/

/-- What R202 to R204 and their field rules say a per-slot CSR reads as after a write of `v`: its number, the stored value,
and the bits that a write ignores taken from before. -/
def csrStores (t : Thread) (c : Nat) (v : Word) : Option Nat :=
  match c with
  | 0x014 => some (v.toNat % 2 ^ 32)
  | 0x020 => some (v.toNat % 2 ^ 3)
  | 0x021 => some (v.toNat % 2 ^ 6)
  | 0x022 => some v.toNat
  | 0x023 => some (t.key.toNat * 2 ^ 48 + v.toNat % 2 ^ 48)
  | 0x030 => some (max 64 (min 4096 v.toNat))
  | 0x031 => some (max 256 (min 65536 v.toNat))
  | 0x040 => some (v.toNat % 2)
  | 0x100 => some (v.toNat % 2 ^ 8)
  | 0x101 => some v.toNat
  | 0x102 => some v.toNat
  | 0x103 => some v.toNat
  | 0x104 => some (v.toNat / 4 * 4)
  | 0x106 => some v.toNat
  | _ => none

/-- What the three forms of R201 write, from the old value and the operand; none where the form writes nothing. -/
def csrForm (i : Instr) (old x : Word) : Option (Reg × Reg × Nat × Option Word) :=
  match i with
  | .csrrw d a c => some (d, a, c.toNat, some x)
  | .csrrs d a c => some (d, a, c.toNat, if a = 0 then none else some (old ||| x))
  | .csrrc d a c => some (d, a, c.toNat, if a = 0 then none else some (old &&& ~~~x))
  | _ => none

/-- R201 to R204: a CSR form on a writable per-slot CSR returns the old value in xd, and the CSR then reads as the stored one;
every register but xd keeps its value, and nothing outside the slot's thread changes. -/
def CsrReadAndWrite : Prop :=
  ∀ (i : Instr) (s : State) (d a : Reg) (c old st : Nat) (v : Word), s.th.pend = [] →
    csrRead s c = some old → csrForm i (BitVec.ofNat 64 old) (s.th.getX a) = some (d, a, c, some v) →
    csrStores s.th c v = some st →
    ∃ t, exec i s = .next t ∧ ThreadOnly s t ∧ csrRead t c = some st ∧
      (∀ e, t.th.getX e = if e = d ∧ d ≠ 0 then BitVec.ofNat 64 old else s.th.getX e) ∧ t.th.v = s.th.v ∧
      GoesOn s t

/-- R201: a form that writes nothing only reads, a write of a read-only CSR traps PRIV, and a number that is not listed traps
ILLEGAL before anything else. -/
def CsrReadOnlyAndUnlisted : Prop :=
  (∀ (i : Instr) (s : State) (d a : Reg) (c old : Nat), s.th.pend = [] → csrRead s c = some old →
    csrForm i (BitVec.ofNat 64 old) (s.th.getX a) = some (d, a, c, none) →
    ∃ t, exec i s = .next t ∧ Done s t (s.th.setX d (BitVec.ofNat 64 old))) ∧
  (∀ (i : Instr) (s : State) (d a : Reg) (c old : Nat) (v : Word), s.th.pend = [] → csrRead s c = some old →
    csrForm i (BitVec.ofNat 64 old) (s.th.getX a) = some (d, a, c, some v) →
    c ∈ [0x010, 0x011, 0x012, 0x013, 0x018, 0x019, 0x024] →
    exec i s = .next (trap s .priv 0 c)) ∧
  (∀ (i : Instr) (s : State) (d a : Reg) (c : Nat) (x : Word) (o : Option Word),
    csrForm i 0 x = some (d, a, c, o) → csrRead s c = none →
    exec i s = .next (trap s .illegal 0 s.th.ir.toNat))

/-- R201 to R204: what the CSR forms read and write, and when they trap. -/
def Obligations.CsrForms : Prop := CsrReadAndWrite ∧ CsrReadOnlyAndUnlisted

/-- R205: a write of `pcselN` keeps the ovf, all, sel and en bits and the event code, a reserved event code as 0, and ignores
the reserved bits; a write of `pcntN` sets the count; both are shared by the core's slots. -/
def Obligations.CounterCsrs : Prop :=
  ∀ (s : State) (d a : Reg) (k : Fin 4) (old : Nat), s.th.pend = [] →
    (csrRead s (0x200 + k.val) = some old →
      ∃ t, exec (.csrrw d a (BitVec.ofNat 12 (0x200 + k.val))) s = .next t ∧
        t.th.getX d = (if d = 0 then 0 else BitVec.ofNat 64 old) ∧
        csrRead t (0x200 + k.val) = some (((s.th.getX a) &&& 0x9D00).toNat +
          if (s.th.getX a).toNat % 256 ≤ 0x0D then (s.th.getX a).toNat % 256 else 0)) ∧
    (csrRead s (0x208 + k.val) = some old →
      ∃ t, exec (.csrrw d a (BitVec.ofNat 12 (0x208 + k.val))) s = .next t ∧
        t.th.getX d = (if d = 0 then 0 else BitVec.ofNat 64 old) ∧
        csrRead t (0x208 + k.val) = some (s.th.getX a).toNat)

/-! ### Loads and stores -/

/-- What a load of the current slot returns (R86, R89, R95): the bytes at the home, or those of the core's own copy of the
sector: any SWC copy, an HC copy while its lease covers the slot's `pts` and the line is not owned here. -/
def sees (s : State) (a key n : Nat) (cls : Cls) : Nat :=
  let home := s.mem.bytes.read key n
  match cls with
  | .bank | .prv => home
  | .swc | .peer =>
    match s.copyOf s.th.core a false with
    | some c => c.data.read (a % 128) n
    | none => home
  | .hc =>
    if (s.line (a / 256)).owner = some s.th.core then home
    else
      match s.copyOf s.th.core a true with
      | some c => if s.th.pts ≤ c.rts ∧ c.rts < s.th.pts + s.th.lease then c.data.read (a % 128) n else home
      | none => home

/-- The size of a load kind and the extension of what it reads (R149, R183). -/
def loadKind (k : LdK) (v : Nat) : Nat × Word :=
  match k with
  | .i8 => (1, (BitVec.ofNat 8 v).signExtend 64)
  | .i16 => (2, (BitVec.ofNat 16 v).signExtend 64)
  | .i32 => (4, (BitVec.ofNat 32 v).signExtend 64)
  | .i64 => (8, BitVec.ofNat 64 v)
  | .n8 => (1, BitVec.ofNat 64 v)
  | .n16 => (2, BitVec.ofNat 64 v)
  | .n32 => (4, BitVec.ofNat 64 v)

/-- The loads of R183 and R185: destination, base, address, size, whether HC memory is renewed, and the value for what is
read. -/
def loadTable (i : Instr) (t : Thread) : Option (Reg × Reg × Nat × Nat × Bool × (Nat → Word)) :=
  match i with
  | .ld d a k _ o =>
    let n : Nat := (loadKind k 0).1
    some (d, a, (t.getX a + BitVec.ofInt 64 (o.toInt * n)).toNat, n, false, fun v => (loadKind k v).2)
  | .ldAcq d a _ z _ =>
    let k : LdK := match z with | .i32 => .i32 | .n32 => .n32 | .i64 => .i64
    some (d, a, (t.getX a).toNat, (loadKind k 0).1, true, fun v => (loadKind k v).2)
  | _ => none

/-- R183, R185: a load whose checks pass returns what the core sees, extended by its kind, in xd; an acquire load of HC memory
is made at the home and returns the bytes there. No byte of memory changes, and none at an L2 home but that an acquire at scope
`.sys` takes other packages' bytes afresh; `pts` never falls, and no other register changes. -/
def Obligations.LoadsReturnWhatTheCoreSees : Prop :=
  ∀ (i : Instr) (s : State) (d a : Reg) (e n key : Nat) (acq : Bool) (ext : Nat → Word) (cls : Cls),
    loadTable i s.th = some (d, a, e, n, acq, ext) → Settled s.th [xr a] →
    (if acq ∧ cls = .hc then CanAccessHome s .rd e n key cls else CanAccess s .rd e n key cls) →
    let v := if acq ∧ cls = .hc then s.mem.bytes.read key n else sees s e key n cls
    ∃ t, exec i s = .next t ∧ SameMemory s t ∧ ((∀ d a h z, i ≠ .ldAcq d a h z .sys) → SameBytes s t) ∧ AccessOnly s t ∧ s.th.pts ≤ t.th.pts ∧ GoesOn s t ∧
      IssueOnly { s.th.setX d (ext v) with pts := t.th.pts } t.th

/-- The stores of R183 and R185: base, source, address and size. -/
def storeTable (i : Instr) (t : Thread) : Option (Reg × Reg × Nat × Nat) :=
  match i with
  | .st x a k _ o =>
    let n : Nat := match k with | .i8 => 1 | .i16 => 2 | .i32 => 4 | .i64 => 8
    some (a, x, (t.getX a + BitVec.ofInt 64 (o.toInt * n)).toNat, n)
  | .stRel a x _ z _ => some (a, x, (t.getX a).toNat, match z with | .i32 => 4 | .i64 => 8)
  | _ => none

/-- R183, R185: a store whose checks pass is seen by the core's next load of those bytes; a plain store changes no byte at a
home outside its own, once a running replay session has kept the page; no register changes and `pts` never falls. The premises say that memory and the core's copies are in
canonical form, which every step of a run keeps. -/
def Obligations.StoresAreSeenByTheirCore : Prop :=
  ∀ (i : Instr) (s : State) (a x : Reg) (e n key : Nat) (cls : Cls),
    storeTable i s.th = some (a, x, e, n) → Settled s.th [xr a, xr x] → CanAccess s .wr e n key cls →
    Memory.wf s.mem.bytes → (∀ c ∈ s.mem.l1, Memory.wf c.data) →
    ∃ t, exec i s = .next t ∧ sees t e key n cls = (s.th.getX x).toNat % 256 ^ n ∧
      (∀ y z k h o, i = .st y z k h o →
        SameBytesBut (noteOwn s e) t key n ∧ (s.host.replayState ≠ 1 → SameBytesBut s t key n)) ∧
      AccessOnly s t ∧ s.th.pts ≤ t.th.pts ∧ GoesOn s t ∧ IssueOnly { s.th with pts := t.th.pts } t.th

/-- R87, R89: a store to HC memory takes the timestamp max(`pts`, `rts` + 1), which becomes the line's `wts` and `rts` and the
slot's `pts`; an SRAM access takes the largest of `pts` and its banks' times, and leaves both there. -/
def Obligations.StoresTakeTimestamps : Prop :=
  ∀ (s : State) (x a : Reg) (h : Hint) (o : BitVec 9) (key : Nat) (cls : Cls),
    let e := (s.th.getX a + BitVec.ofInt 64 (o.toInt * 8)).toNat
    Settled s.th [xr a, xr x] → CanAccess s .wr e 8 key cls →
    ∃ t, exec (.st x a .i64 h o) s = .next t ∧
      (cls = .hc → t.th.pts = max s.th.pts ((s.line (e / 256)).rts + 1) ∧
        (t.line (e / 256)).wts = t.th.pts ∧ (t.line (e / 256)).rts = t.th.pts) ∧
      (cls = .bank → s.th.pts ≤ t.th.pts ∧ ∀ b ∈ banksOf key 8, s.bts b ≤ t.th.pts ∧ t.bts b = t.th.pts)

/-- R170, R183: a load or store at an address that is not a multiple of its size traps MISALIGN with the address, whatever the
address's page or rights. -/
def MisalignedAccessTraps : Prop :=
  (∀ (i : Instr) (s : State) (d a : Reg) (e n : Nat) (acq : Bool) (ext : Nat → Word),
    loadTable i s.th = some (d, a, e, n, acq, ext) → Settled s.th [xr a] → e % n ≠ 0 →
    exec i s = .next (trap s .misalign e 0)) ∧
  (∀ (i : Instr) (s : State) (a x : Reg) (e n : Nat),
    storeTable i s.th = some (a, x, e, n) → Settled s.th [xr a, xr x] → e % n ≠ 0 →
    exec i s = .next (trap s .misalign e 0))

/-- R58, R62, R80, R351: the checks of an aligned access by the current core: an address above the implemented bits traps PROT,
one in a synchronisation or event window SYNCWIN, one in a reserved range PROT, and a page whose domain the tenant lacks PROT;
an access that misses in the PLB, or whose L1 and L2 do not hold its sector, waits for a walk. -/
def AddressAndRightsChecks : Prop :=
  ∀ (s : State) (nd : Need) (a n : Nat) (k : Nat → Cls → State), a % n = 0 →
    (2 ^ 57 ≤ a → access s nd a n k = trap s .prot a 0) ∧
    (a < 2 ^ 57 → (∃ d o, region a = .sync d o ∨ region a = .event d o) → access s nd a n k = trap s .syncwin a 0) ∧
    (a < 2 ^ 57 → region a = .reserved → access s nd a n k = trap s .prot a 0) ∧
    (∀ p, a < 2 ^ 57 → region a = .virt → plbFind s s.th.core a = some p → p.attr ≠ 3 → inTransition s a = false →
      hasRight s s.tenant p.dom nd = false → access s nd a n k = trap s .prot a 0) ∧
    (a < 2 ^ 57 → region a = .virt → plbFind s s.th.core a = none →
      (access s nd a n k).th.wait = .walk a none ∧ (access s nd a n k).th.pc = s.th.pc) ∧
    (∀ p key cls, a < 2 ^ 57 → region a = .virt → plbFind s s.th.core a = some p →
      pageCheck s s.th.core s.tenant nd a p = .ok key cls → l1Serves s s.th.core nd a cls = false →
      s.mem.resident a = false → p.gone s = false →
      (access s nd a n k).th.wait = .walk a none ∧ (access s nd a n k).th.pc = s.th.pc)

/-- R58, R62, R80, R170, R183, R351: the checks of an access. -/
def Obligations.AccessChecks : Prop := MisalignedAccessTraps ∧ AddressAndRightsChecks

/-- R184: a prefetch below the implemented address limit completes; it changes no byte of memory, no register and no `pts`. What
it fills into an L2 home are the bytes of memory, and no other byte at any home changes. -/
def PrefetchChangesNoValue : Prop :=
  ∀ (s : State) (a : Reg) (h : Hint) (o : BitVec 9), Settled s.th [xr a] →
    let e := (s.th.getX a + BitVec.ofInt 64 (o.toInt * 128)).toNat
    (e < 2 ^ 57 → ∃ t, exec (.pf a h o) s = .next t ∧ SameBytesBut s t (vkey (e / 128 * 128)) 128 ∧
      (s.mem.resident e → SameBytes s t) ∧
      (∀ c o, s.mem.resident e = false → t.mem.at2 e = some c → o < 128 →
        t.mem.bytes.get (vkey (e / 128 * 128) + o) = s.mem.bytes.get (c.key + o)) ∧
      AccessOnly s t ∧ IssueOnly s.th t.th ∧ GoesOn s t) ∧
    (2 ^ 57 ≤ e → exec (.pf a h o) s = .next (trap s .prot e 0))

/-! ### Atomics and reduction stores -/

/-- The operations of R186 on the old value and the operand at a width. -/
def amoTable (i : Instr) : Option (Reg × Reg × Reg × AmZ × (Nat → Nat → Nat → Nat)) :=
  let sg (w v : Nat) : Int := if v < 2 ^ (w - 1) then v else (v : Int) - (2 ^ w : Nat)
  match i with
  | .amoadd d a b _ z => some (d, a, b, z, fun w x y => (x + y) % 2 ^ w)
  | .amoand d a b _ z => some (d, a, b, z, fun _ x y => x &&& y)
  | .amoor d a b _ z => some (d, a, b, z, fun _ x y => x ||| y)
  | .amoxor d a b _ z => some (d, a, b, z, fun _ x y => x ^^^ y)
  | .amomin d a b _ z => some (d, a, b, z, fun w x y => if sg w x ≤ sg w y then x else y)
  | .amomax d a b _ z => some (d, a, b, z, fun w x y => if sg w x ≤ sg w y then y else x)
  | .amominu d a b _ z => some (d, a, b, z, fun _ x y => min x y)
  | .amomaxu d a b _ z => some (d, a, b, z, fun _ x y => max x y)
  | .amoswap d a b _ z => some (d, a, b, z, fun _ _ y => y)
  | _ => none

/-- The size of an atomic and its sign extension (R186). -/
def amoSize (z : AmZ) (v : Nat) : Nat × Word :=
  match z with
  | .i32 => (4, (BitVec.ofNat 32 v).signExtend 64)
  | .i64 => (8, BitVec.ofNat 64 v)

/-- R98, R186, R188: an integer atomic whose checks pass returns the old value sign-extended in xd and leaves the operation's
result there, at its home or, in another package's memory, with its owner; no other byte and no other register changes but that
the core's own bytes of the sector reach their home first. One to another package's memory whose acknowledgement is lost traps
PROT 4, performed or not (R375). -/
def AtomicsReadAndWriteOnce : Prop :=
  ∀ (i : Instr) (s : State) (d a b : Reg) (z : AmZ) (f : Nat → Nat → Nat → Nat) (key : Nat) (cls : Cls),
    amoTable i = some (d, a, b, z, f) → Settled s.th [xr a, xr b] →
    let n := (amoSize z 0).1
    let e := (s.th.getX a).toNat
    CanAccessRW s e n key cls → Memory.wf s.mem.bytes →
    let s0 := atHome (noteOwn s e) e cls
    let k := atomicKey s key cls
    let old := s0.mem.bytes.read k n
    let new := f (8 * n) old ((s.th.getX b).toNat % 2 ^ (8 * n))
    (cls ≠ .peer → s.host.replayState ≠ 1 → s.copyOf s.th.core e false = none → SameBytes s s0) ∧
    (s.lossy = none ∨ cls ≠ .peer → ∃ t, exec i s = .next t ∧ t.mem.bytes.read k n = new ∧
      SameBytesBut s0 t k n ∧ AccessOnly s t ∧ s.th.pts ≤ t.th.pts ∧ GoesOn s t ∧
      IssueOnly { s.th.setX d (amoSize z old).2 with pts := t.th.pts } t.th) ∧
    (∀ p, s.lossy = some p → cls = .peer → ∃ u, exec i s = .next (trap u .prot e 4) ∧ u.th = s.th ∧
      (p = false → u = s) ∧ (p = true → u.mem.bytes.read k n = new ∧ SameBytesBut s0 u k n))

/-- R186: `amocas` writes X[b] when the old value equals the old xd at the size and otherwise writes nothing; either way it
returns the old value sign-extended. -/
def CompareAndSwap : Prop :=
  ∀ (s : State) (d a b : Reg) (h : Hint) (z : AmZ) (key : Nat) (cls : Cls),
    Settled s.th [xr a, xr b, xr d] →
    let n := (amoSize z 0).1
    let e := (s.th.getX a).toNat
    CanAccessRW s e n key cls → Memory.wf s.mem.bytes → s.lossy = none ∨ cls ≠ .peer →
    let s0 := atHome (noteOwn s e) e cls
    let k := atomicKey s key cls
    let old := s0.mem.bytes.read k n
    ∃ t, exec (.amocas d a b h z) s = .next t ∧
      (if old = (s.th.getX d).toNat % 2 ^ (8 * n) then
        t.mem.bytes.read k n = (s.th.getX b).toNat % 2 ^ (8 * n) ∧ SameBytesBut s0 t k n
       else SameBytes (atHome s e cls) t) ∧
      AccessOnly s t ∧ s.th.pts ≤ t.th.pts ∧ GoesOn s t ∧
      IssueOnly { s.th.setX d (amoSize z old).2 with pts := t.th.pts } t.th

/-- R186, R188: the integer atomics. -/
def Obligations.IntegerAtomics : Prop := AtomicsReadAndWriteOnce ∧ CompareAndSwap

/-- R187: `famoadd` on an SRAM address that it accepts replaces the element by the rounded sum and returns the old bits; an
aligned address elsewhere traps PROT with 3 in `xval`. -/
def Obligations.FloatAtomicAdd : Prop :=
  ∀ (s : State) (d a b : Reg) (h : Hint) (z : FaZ), Settled s.th [xr a, xr b] →
    let f : Fmt := match z with | .f32 => .fp32 | .f64 => .fp64 | .f16 => .fp16 | .bf16 => .bf16
    let n := f.width / 8
    let e := (s.th.getX a).toNat
    (∀ key, (∃ q o, region e = .scratch q ∨ region e = .floe q o) → CanAccessRW s e n key .bank → Memory.wf s.mem.bytes →
      let old := s.mem.bytes.read key n
      let r := round f .rne false (addV false (f.val old) (f.val ((s.th.getX b).toNat % 2 ^ f.width)))
      ∃ t, exec (.famoadd d a b h z) s = .next t ∧ t.mem.bytes.read key n = r.bits ∧ SameBytesBut s t key n ∧
        AccessOnly s t ∧ GoesOn s t ∧
        IssueOnly { s.th.setX d (BitVec.ofNat 64 old) with
          pts := t.th.pts, fflags := s.th.fflags ||| r.flags } t.th) ∧
    (e % n = 0 → (∀ q o, region e ≠ .scratch q ∧ region e ≠ .floe q o) →
      exec (.famoadd d a b h z) s = .next (trap s .prot e 3))

/-- The reduction stores of R189: base, operand, op (0 add, 1 minimum, 2 maximum) and format. -/
def redTable (i : Instr) : Option (Reg × Reg × Nat × Fmt) :=
  match i with
  | .redAdd a b _ f => some (a, b, 0, f)
  | .redMin a b _ f => some (a, b, 1, f)
  | .redMax a b _ f => some (a, b, 2, f)
  | _ => none

/-- R189: what a reduction store leaves in an element with no pending reductions: for a floating-point add the once rounded
exact sum, for an integer the wrapped sum, minimum or maximum, for a floating-point minimum or maximum the IEEE one. -/
def reduced (op : Nat) (f : Fmt) (old v : Nat) : Nat :=
  if f.isInt then
    let x := signed old f.width
    let y := signed v f.width
    unsigned (if op = 0 then x + y else if op = 1 then min x y else max x y) f.width
  else if op = 0 then (round f .rne false ((((Acc.empty (f = .fp64)).add (f.val old)).add (f.val v)).ex false)).bits
  else (minMax f (op = 2) old v).bits

/-- R189, R190: a reduction store whose checks pass, to translated memory whose element has no pending reductions, leaves the
combination there, at its home or, in another package's memory, with its owner; it writes no register and no flag. The core's own
bytes of the sector reach their home first. One to an SRAM window traps PROT, and one to a lost node PROT 4 (R375). -/
def Obligations.ReductionStores : Prop :=
  ∀ (i : Instr) (s : State) (a b : Reg) (op : Nat) (f : Fmt) (key : Nat) (cls : Cls),
    redTable i = some (a, b, op, f) → f.isRed = true → Settled s.th [xr a, xr b] →
    let n := f.width / 8
    let e := (s.th.getX a).toNat
    CanAccessHome s .wr e n key cls → Memory.wf s.mem.bytes →
    let s0 := atHome (noteOwn s e) e cls
    let k := atomicKey s key cls
    (cls = .bank → exec i s = .next (trap s .prot e 0)) ∧
    (cls = .peer → s.lostAt k = true → exec i s = .next (trap s .prot e 4)) ∧
    (cls ≠ .bank → cls ≠ .peer ∨ s.lostAt k = false → (∀ r ∈ s0.mem.reds, r.key ≠ k) →
      ∃ t, exec i s = .next t ∧
        t.mem.bytes.read k n = reduced op f (s0.mem.bytes.read k n) ((s.th.getX b).toNat % 2 ^ f.width) ∧
        SameBytesBut s0 t k n ∧ AccessOnly s t ∧ s.th.pts ≤ t.th.pts ∧ GoesOn s t ∧
        IssueOnly { s.th with pts := t.th.pts } t.th)

/-! ### Cache maintenance and fences -/

/-- The copies of SWC sectors in the current core's L1 that meet a byte range. -/
def ownCopies (s : State) (e n : Nat) : List Copy1 :=
  s.mem.l1.filter fun c => c.core = s.th.core && !c.hc && decide (c.sector * 128 < e + n) && decide (e < c.sector * 128 + 128)

/-- R192: over a range within the address space, `cinv` drops the core's SWC copies of pages that are mapped so, and writes
nothing, `cwbinv` leaves no such copy, and `cwb` of a range with one such copy writes its dirty bytes to their home and keeps it
clean; at scope `.sys` `cwb` leaves no dirty byte of other packages' sectors in L2. A length of 0 does nothing. No register
changes. -/
def CacheMaintenance : Prop :=
  ∀ (s : State) (a b : Reg) (sc : Scope), Settled s.th [xr a, xr b] →
    let e := (s.th.getX a).toNat
    let n := (s.th.getX b).toNat
    let kept := (ownCopies s e n).filter fun c => !swcPage s (c.sector * 128)
    (0 < n → e + n ≤ 2 ^ 57 →
      (∃ t, exec (.cinv a b sc) s = .next t ∧ SameMemory s t ∧ (sc ≠ .sys → SameBytes s t) ∧ ownCopies t e n = kept ∧
        AccessOnly s t ∧ IssueOnly s.th t.th ∧ GoesOn s t) ∧
      (∃ t, exec (.cwbinv a b sc) s = .next t ∧ ownCopies t e n = kept ∧ AccessOnly s t ∧ IssueOnly s.th t.th ∧ GoesOn s t) ∧
      (∃ t, exec (.cwb a b sc) s = .next t ∧ AccessOnly s t ∧ IssueOnly s.th t.th ∧ GoesOn s t ∧
        (∀ c k, sc ≠ .sys → ownCopies s e n = [c] → swcPage s (c.sector * 128) = true →
          s.copyOf s.th.core (c.sector * 128) false = some c → c.dirty.Pairwise (· < ·) → Memory.wf s.mem.bytes →
          s.lostAt c.key = false → k = s.mem.homeKey (c.sector * 128) c.key →
          (∀ o ∈ c.dirty, t.mem.bytes.get (k + o) = c.data.get o) ∧
          (∀ j, (∀ o ∈ c.dirty, j ≠ k + o) → t.mem.bytes.get j = s.mem.bytes.get j) ∧
          { c with dirty := [] } ∈ t.mem.l1) ∧
        (sc = .sys → ownCopies s e n = [] → ∀ c ∈ t.mem.l2, 2 ^ 40 ≤ c.key → c.sector * 128 < e + n →
          e < c.sector * 128 + 128 → swcPage s (c.sector * 128) = true → c.dirty = []))) ∧
    (n = 0 → ∀ i ∈ [Instr.cwb a b sc, .cinv a b sc, .cwbinv a b sc], ∃ t, exec i s = .next t ∧ Done s t s.th)

/-- R184, R192: prefetch and cache maintenance. -/
def Obligations.PrefetchAndCacheForms : Prop := PrefetchChangesNoValue ∧ CacheMaintenance

/-- The fences of R193: the scope, whether it releases and whether it acquires. -/
def fenceTable (i : Instr) : Option (Scope × Bool × Bool) :=
  match i with
  | .fenceAcqCore => some (.core, false, true)
  | .fenceAcqFloe => some (.floe, false, true)
  | .fenceAcqDie => some (.die, false, true)
  | .fenceAcqPkg => some (.pkg, false, true)
  | .fenceAcqSys => some (.sys, false, true)
  | .fenceRelCore => some (.core, true, false)
  | .fenceRelFloe => some (.floe, true, false)
  | .fenceRelDie => some (.die, true, false)
  | .fenceRelPkg => some (.pkg, true, false)
  | .fenceRelSys => some (.sys, true, false)
  | .fenceScCore => some (.core, true, true)
  | .fenceScFloe => some (.floe, true, true)
  | .fenceScDie => some (.die, true, true)
  | .fenceScPkg => some (.pkg, true, true)
  | .fenceScSys => some (.sys, true, true)
  | _ => none

/-- R94, R97, R193: a fence that acquires leaves no HC copy in its core's L1, one that releases beyond the core leaves no dirty
byte there, one that does not release changes no byte of memory, and none at an L2 home but that an acquire at scope `.sys` takes
other packages' bytes afresh; no register of the slot changes. -/
def Obligations.FencesAcquireAndRelease : Prop :=
  ∀ (i : Instr) (s : State) (sc : Scope) (rel acq : Bool), fenceTable i = some (sc, rel, acq) →
    ∃ t, exec i s = .next t ∧ IssueOnly s.th t.th ∧ GoesOn s t ∧
      (acq = true → ∀ c ∈ t.mem.l1, c.core = s.th.core → c.hc = false) ∧
      (rel = true → sc ≠ .core → ∀ c ∈ t.mem.l1, c.core = s.th.core → c.dirty = []) ∧
      (rel = false ∨ sc = .core → SameMemory s t ∧ (sc ≠ .sys → SameBytes s t))

/-! ### Threads and event lines -/

/-- The record that a thread leaves or spawns (R45): its identity, where it resumes and why, its draw, its launch and its
arguments x10 to x14. -/
def isRecord (r : Rec) (t : Thread) (tid : Nat) (pc : Word) (reason : Nat) : Prop :=
  r.tid = tid ∧ r.pc = pc ∧ r.reason = reason ∧ r.lid = t.lid ∧ r.draw = t.draw ∧ r.key = t.key ∧ r.core = t.core ∧
    r.x10 = t.getX 10 ∧ r.x11 = t.getX 11 ∧ r.x12 = t.getX 12 ∧ r.x13 = t.getX 13 ∧ r.x14 = t.getX 14

/-- R45, R47, R48, R195: `spawn` of a word-aligned target puts a record of a new thread, with reason 0, at the end of the floe's
pool, or of the die's when that is full, returns 0 and moves the draw counter on by 2^24; with both full it returns 7 and
changes nothing else; a target that is not aligned traps MISALIGN. -/
def SpawnQueuesARecord : Prop :=
  ∀ (s : State) (d a : Reg), Settled s.th [xr a, 10, 11, 12, 13, 14] →
    let f := floeOfCore s.th.core
    let target := s.th.getX a
    let room := (s.floe f).pool.length < 256
    let dieRoom := (s.die (f / 64)).pool.length < dieCap (s.die (f / 64))
    (target.toNat % 4 = 0 → room ∨ dieRoom →
      ∃ t r, exec (.spawn d a) s = .next t ∧ isRecord r s.th s.lp.nextTid target 0 ∧ SameBytes s t ∧ GoesOn s t ∧
        IssueOnly ({ s.th with draw := s.th.draw + BitVec.ofNat 48 (2 ^ 24) }.setX d 0) t.th ∧
        t.lp.nextTid = s.lp.nextTid + 1 ∧
        (room → (t.floe f).pool = (s.floe f).pool ++ [r]) ∧
        (¬ room → (t.floe f).pool = (s.floe f).pool ∧ (t.die (f / 64)).pool = (s.die (f / 64)).pool ++ [r])) ∧
    (target.toNat % 4 = 0 → ¬ room → ¬ dieRoom → ∃ t, exec (.spawn d a) s = .next t ∧ Done s t (s.th.setX d 7)) ∧
    (target.toNat % 4 ≠ 0 → exec (.spawn d a) s = .next (trap s .misalign target.toNat 0))

/-- R45, R46, R48, R196: outside a repetition and a handler, and with no stream port bound, `yield` frees the slot and puts the
thread's record, with reason 1 and the next PC, at the end of the floe's pool, and with every pool full does nothing; `susp`
on an event line of the issuing floe parks the record there; `exit` frees the slot. -/
def YieldSuspendAndExit : Prop :=
  ∀ s : State, s.th.live = true → s.th.rep = none → s.th.ports = [] → Quiet s →
    let f := floeOfCore s.th.core
    let free := Thread.idle s.th.core s.th.slot
    (s.th.inh = false → (s.floe f).pool.length < 256 →
      ∃ t r, exec .yield s = .next t ∧ t.th = free ∧ t.slots = s.slots ∧ SameBytes s t ∧
        isRecord r s.th s.th.tid (s.th.pc + 4) 1 ∧ (t.floe f).pool = (s.floe f).pool ++ [r]) ∧
    (s.th.inh = false → poolRoom s f = false → ∃ t, exec .yield s = .next t ∧ Done s t s.th) ∧
    (∀ (a b : Reg), s.th.inh = false → Settled s.th [xr a, xr b] →
      lineAt (s.th.getX a).toNat = some (f, .event) → parkRoom s (f / 64) = true →
      ∃ t p, exec (.susp a b) s = .next t ∧ t.th = free ∧ t.slots = s.slots ∧ SameBytes s t ∧
        t.sync.parked = s.sync.parked ++ [p] ∧ p.handle = (s.th.getX a).toNat ∧
        p.phase = (s.th.getX b).toNat % 65536 ∧ isRecord p.cont s.th s.th.tid (s.th.pc + 4) 0) ∧
    (∃ t, exec .exit s = .next t ∧ t.th = free)

/-- R45 to R48, R195, R196: spawning, yielding, suspending and exiting. -/
def Obligations.ThreadControl : Prop := SpawnQueuesARecord ∧ YieldSuspendAndExit

/-- R197, R254: `ev.wait` on a barrier or event line of the issuing floe gates the slot; `ev.fire` of an event line completes
and wakes every gated slot of that line, whose instruction completes with no register written; a misaligned address
traps MISALIGN, one that no access may name and, for a wait, a line of another floe PROT, and any other address SYNCWIN. -/
def Obligations.EventLines : Prop :=
  ∀ (s : State) (a : Reg), Settled s.th [xr a] →
    let h := (s.th.getX a).toNat
    (∀ k, lineAt h = some (floeOfCore s.th.core, k) → k ≠ .mtx →
      ∃ t q, exec (.evWait a) s = .next t ∧ t.th = { s.th with wait := .line h q } ∧ t.slots = s.slots ∧ t.mem = s.mem) ∧
    (∀ f k, lineAt h = some (f, k) → k ≠ .mtx → f ≠ floeOfCore s.th.core →
      exec (.evWait a) s = .next (trap s .prot h 0)) ∧
    (h % 64 ≠ 0 →
      exec (.evWait a) s = .next (trap s .misalign h 0) ∧ exec (.evFire a) s = .next (trap s .misalign h 0)) ∧
    (h % 64 = 0 → (2 ^ 57 ≤ h ∨ region h = .reserved) →
      exec (.evWait a) s = .next (trap s .prot h 0) ∧ exec (.evFire a) s = .next (trap s .prot h 0)) ∧
    (h % 64 = 0 → h < 2 ^ 57 → region h ≠ .reserved → (lineAt h = none ∨ ∃ f, lineAt h = some (f, .mtx)) →
      exec (.evWait a) s = .next (trap s .syncwin h 0) ∧ exec (.evFire a) s = .next (trap s .syncwin h 0)) ∧
    (∀ f, lineAt h = some (f, .event) → s.reaches s.tenant f = true → s.th.wait = .none →
      ∃ t, exec (.evFire a) s = .next t ∧ IssueOnly s.th t.th ∧ GoesOn s t ∧
        t.slots.length = s.slots.length ∧
        (∀ (k : Nat) (u : Thread) (q : Nat), s.slots[k]? = some u → u.live = true → u.wait = .line h q →
          ∃ v b c, t.slots[k]? = some v ∧ v.wait = .waking h b c ∧ v.pc = u.complete.pc ∧ v.x = u.x ∧ v.pts = max u.pts s.th.pts) ∧
        (∀ p ∈ t.sync.parked, p.handle ≠ h))

/-! ### Vector instructions: elements -/

/-- A vector instruction's operands are ready (R141, R208, R218): lanes are held, its sources are settled, and none of its
vector registers names a bound stream port. -/
def VReady (s : State) (vs : List Reg) (xs : List Nat) (m : Mask) (d : List Reg) : Prop :=
  s.th.gran ≠ 0 ∧ Settled s.th (vs.map vr ++ xs ++ maskSrc m) ∧ ∀ r ∈ vs ++ d, s.th.portOf r = none

/-- Whether the element whose governing lane is `g` is active (R207). -/
def on (t : Thread) (m : Mask) (g : Nat) : Bool := m = 0 || (t.getX (maskReg m)).getLsbD g

/-- How many elements of width `w` an instruction acts on: n(w) (R206), as far as a register of 2,048 bits reaches. -/
def count (t : Thread) (w : Nat) : Nat := min (t.n w) (2048 / w)

/-- The destination `v` of an element-wise form (R207, R209): each active element has its result, each inactive one its old
value. -/
def Written (t : Thread) (m : Mask) (d : Reg) (w : Nat) (f : Nat → Nat) (v : BitVec 2048) : Prop :=
  ∀ k, k < count t w → elem v w k = if on t m (k * w / 32) then f k else elem (t.getV d) w k

/-- The mask that a compare writes (R222): bit L of the lanes held is the condition for an active element of lane L. -/
def MaskWritten (t : Thread) (m : Mask) (w : Nat) (c : Nat → Bool) (v : Word) : Prop :=
  ∀ L, L < 64 → v.getLsbD L = (L < t.vl &&
    (if w = 64 then on t m (L / 2 * 2) && c (L / 2)
     else on t m L && (List.range (32 / w)).any fun j => c (L * (32 / w) + j)))

/-- The flags of the active elements together (R110, R209). -/
def orFlags (t : Thread) (m : Mask) (w : Nat) (f : Nat → BitVec 6) : BitVec 6 :=
  ((List.range (count t w)).filter fun k => on t m (k * w / 32)).foldl (fun x k => x ||| f k) 0

/-- The forms of R221: destination, sources, mask, type, and an element's result with whether it was clamped. -/
def vecInt (i : Instr) : Option (Reg × Reg × Reg × Mask × IT × (Nat → Nat → Nat × Bool)) :=
  let z (t : IT) (x : Nat) : Int := if t.signed then (BitVec.ofNat t.bits x).toInt else x
  let wrap (t : IT) (v : Int) : Nat := (BitVec.ofInt t.bits v).toNat
  let lo (t : IT) : Int := if t.signed then -2 ^ (t.bits - 1) else 0
  let hi (t : IT) : Int := if t.signed then 2 ^ (t.bits - 1) - 1 else 2 ^ t.bits - 1
  let clamp (t : IT) (v : Int) : Nat × Bool :=
    if v < lo t then (wrap t (lo t), true) else if hi t < v then (wrap t (hi t), true) else (wrap t v, false)
  match i with
  | .vadd d a b m t => some (d, a, b, m, t, fun x y => (wrap t (z t x + z t y), false))
  | .vsub d a b m t => some (d, a, b, m, t, fun x y => (wrap t (z t x - z t y), false))
  | .vmul d a b m t => some (d, a, b, m, t, fun x y => (wrap t (z t x * z t y), false))
  | .vmulh d a b m t => some (d, a, b, m, t, fun x y => (wrap t (z t x * z t y / 2 ^ t.bits), false))
  | .vmin d a b m t => some (d, a, b, m, t, fun x y => (if z t x ≤ z t y then x else y, false))
  | .vmax d a b m t => some (d, a, b, m, t, fun x y => (if z t x ≤ z t y then y else x, false))
  | .vadds d a b m t => some (d, a, b, m, t, fun x y => clamp t (z t x + z t y))
  | .vsubs d a b m t => some (d, a, b, m, t, fun x y => clamp t (z t x - z t y))
  | .vand d a b m t => some (d, a, b, m, t, fun x y => (x &&& y, false))
  | .vor d a b m t => some (d, a, b, m, t, fun x y => (x ||| y, false))
  | .vxor d a b m t => some (d, a, b, m, t, fun x y => (x ^^^ y, false))
  | .vsll d a b m t => some (d, a, b, m, t, fun x y => (x * 2 ^ (y % t.bits) % 2 ^ t.bits, false))
  | .vsr d a b m t => some (d, a, b, m, t, fun x y => (wrap t (z t x / 2 ^ (y % t.bits)), false))
  | .vdiv d a b m t => some (d, a, b, m, t, fun x y =>
      (if y = 0 then 2 ^ t.bits - 1 else wrap t ((z t x).tdiv (z t y)), false))
  | .vrem d a b m t => some (d, a, b, m, t, fun x y => (if y = 0 then x else wrap t ((z t x).tmod (z t y)), false))
  | _ => none

/-- R221, R207: a vector integer form writes each active element's result, keeps the inactive ones, and sets `sat` exactly when
an active element was clamped; nothing else changes. -/
def Obligations.VectorIntegerResults : Prop :=
  ∀ (i : Instr) (s : State) (d a b : Reg) (m : Mask) (t : IT) (f : Nat → Nat → Nat × Bool),
    vecInt i = some (d, a, b, m, t, f) → VReady s [a, b] [] m [d] →
    let r (k : Nat) := f (elem (s.th.getV a) t.bits k) (elem (s.th.getV b) t.bits k)
    ∃ s' v, exec i s = .next s' ∧ Written s.th m d t.bits (fun k => (r k).1) v ∧
      Done s s' ({ s.th with
        fflags := s.th.fflags ||| orFlags s.th m t.bits fun k => if (r k).2 then fSAT else 0 }.setV d v)

/-- The compares of R222 and R224: destination, sources, mask, element width, condition and flags. -/
def vecCompare (i : Instr) : Option (Reg × Reg × Reg × Mask × Nat × (Nat → Nat → Bool) × (Nat → Nat → BitVec 6)) :=
  let z (t : IT) (x : Nat) : Int := if t.signed then (BitVec.ofNat t.bits x).toInt else x
  let nv (c : Bool) : BitVec 6 := if c then fNV else 0
  let nan (t : FT) (x y : Nat) : Bool := (t.fmt.val x).isNan || (t.fmt.val y).isNan
  let sig (t : FT) (x y : Nat) : Bool := (t.fmt.val x).isSig || (t.fmt.val y).isSig
  match i with
  | .vceq d a b m t => some (d, a, b, m, t.bits, fun x y => z t x = z t y, fun _ _ => 0)
  | .vcne d a b m t => some (d, a, b, m, t.bits, fun x y => z t x ≠ z t y, fun _ _ => 0)
  | .vclt d a b m t => some (d, a, b, m, t.bits, fun x y => z t x < z t y, fun _ _ => 0)
  | .vcge d a b m t => some (d, a, b, m, t.bits, fun x y => z t y ≤ z t x, fun _ _ => 0)
  | .vcle d a b m t => some (d, a, b, m, t.bits, fun x y => z t x ≤ z t y, fun _ _ => 0)
  | .vcgt d a b m t => some (d, a, b, m, t.bits, fun x y => z t y < z t x, fun _ _ => 0)
  | .vfeq t d a b m => some (d, a, b, m, t.fmt.width,
      fun x y => !nan t x y && eqV (t.fmt.val x) (t.fmt.val y), fun x y => nv (sig t x y))
  | .vflt t d a b m => some (d, a, b, m, t.fmt.width,
      fun x y => !nan t x y && ltV (t.fmt.val x) (t.fmt.val y), fun x y => nv (nan t x y))
  | .vfle t d a b m => some (d, a, b, m, t.fmt.width,
      fun x y => !nan t x y && (ltV (t.fmt.val x) (t.fmt.val y) || eqV (t.fmt.val x) (t.fmt.val y)), fun x y => nv (nan t x y))
  | .vfun t d a b m => some (d, a, b, m, t.fmt.width, fun x y => nan t x y, fun x y => nv (sig t x y))
  | _ => none

/-- R222, R224: a vector compare writes its mask to an x register, with the bits of lanes that are inactive or not held 0; a
floating-point one raises NV as its scalar form does. -/
def VectorCompares : Prop :=
  ∀ (i : Instr) (s : State) (d a b : Reg) (m : Mask) (w : Nat) (c : Nat → Nat → Bool) (g : Nat → Nat → BitVec 6),
    vecCompare i = some (d, a, b, m, w, c, g) → VReady s [a, b] [] m [] →
    ∃ s' v, exec i s = .next s' ∧
      MaskWritten s.th m w (fun k => c (elem (s.th.getV a) w k) (elem (s.th.getV b) w k)) v ∧
      Done s s' ({ s.th with
        fflags := s.th.fflags |||
          orFlags s.th m w fun k => g (elem (s.th.getV a) w k) (elem (s.th.getV b) w k) }.setX d v)

/-- The rounding forms of R223 and R225: destination, sources, mask, rounding field, type, and element `k`'s result in a
mode: the exact value rounded once. -/
def vecRounded (i : Instr) (t : Thread) : Option (Reg × List Reg × Mask × RM × FT × (Nat → Mode → Rnd)) :=
  let e (ty : FT) (a : Reg) (k : Nat) : Val := ty.fmt.val (elem (t.getV a) ty.fmt.width k)
  let arith (ty : FT) (x : Nat → Bool → Ex) : Nat → Mode → Rnd := fun k md => round ty.fmt md false (x k (md = .rdn))
  let fn (f : Fn) (ty : FT) (a : Reg) : Nat → Mode → Rnd := fun k md => fnRound f ty.fmt md (e ty a k)
  match i with
  | .vfadd ty d a b m r => some (d, [a, b], m, r, ty, arith ty fun k rdn => addV rdn (e ty a k) (e ty b k))
  | .vfsub ty d a b m r => some (d, [a, b], m, r, ty, arith ty fun k rdn => addV rdn (e ty a k) (e ty b k).negate)
  | .vfmul ty d a b m r => some (d, [a, b], m, r, ty, arith ty fun k _ => mulE (e ty a k) (e ty b k))
  | .vfdiv ty d a b m r => some (d, [a, b], m, r, ty, arith ty fun k _ => divE (e ty a k) (e ty b k))
  | .vfma ty d a b m r => some (d, [a, b, d], m, r, ty, arith ty fun k rdn => fmaE rdn (e ty a k) (e ty b k) (e ty d k))
  | .vfms ty d a b m r => some (d, [a, b, d], m, r, ty, arith ty fun k rdn => fmaE rdn (e ty a k) (e ty b k) (e ty d k).negate)
  | .vfnma ty d a b m r => some (d, [a, b, d], m, r, ty, arith ty fun k rdn => fmaE rdn (e ty a k).negate (e ty b k) (e ty d k))
  | .vfsqrt d a m r ty => some (d, [a], m, r, ty, fn .sqrt ty a)
  | .vfrcp d a m r ty => some (d, [a], m, r, ty, fn .rcp ty a)
  | .vfrsqrt d a m r ty => some (d, [a], m, r, ty, fn .rsqrt ty a)
  | .vfexp2 d a m r ty => some (d, [a], m, r, ty, fn .exp2 ty a)
  | .vflog2 d a m r ty => some (d, [a], m, r, ty, fn .log2 ty a)
  | .vfexp d a m r ty => some (d, [a], m, r, ty, fn .exp ty a)
  | .vflog d a m r ty => some (d, [a], m, r, ty, fn .log ty a)
  | .vftanh d a m r ty => some (d, [a], m, r, ty, fn .tanh ty a)
  | .vfsigm d a m r ty => some (d, [a], m, r, ty, fn .sigm ty a)
  | .vfsin d a m r ty => some (d, [a], m, r, ty, fn .sin ty a)
  | .vfcos d a m r ty => some (d, [a], m, r, ty, fn .cos ty a)
  | _ => none

/-- R223, R225: a vector floating-point form that rounds writes each active element's once rounded value in the field's mode,
accumulates the flags of the active elements, and under SR consumes one draw; with a reserved `frm` it traps ILLEGAL. -/
def Obligations.VectorFloatResults : Prop :=
  ∀ (i : Instr) (s : State) (d : Reg) (vs : List Reg) (m : Mask) (r : RM) (ty : FT) (f : Nat → Mode → Rnd),
    vecRounded i s.th = some (d, vs, m, r, ty, f) →
    (rmEff r s.th.frm = none → exec i s = .next (trap s .illegal 0 s.th.ir.toNat)) ∧
    (∀ rm, rmEff r s.th.frm = some rm → VReady s vs [] m [d] →
      let w := ty.fmt.width
      let res (k : Nat) := f k (s.th.modeAt rm w k)
      ∃ s' v, exec i s = .next s' ∧ Written s.th m d w (fun k => (res k).bits) v ∧
        Done s s' ({ s.th with
          fflags := s.th.fflags ||| orFlags s.th m w fun k => (res k).flags
          draw := if rm = RM.sr then s.th.draw + 1 else s.th.draw }.setV d v))

/-- R225: the special cases of the functions, as bits and flags of FP32 in any mode: square roots, reciprocals, exponentials,
logarithms, `vftanh`, `vfsigm`, `vfsin` and `vfcos` at zeros, infinities, 1 and negative numbers. -/
def Obligations.FunctionSpecialCases : Prop :=
  ∀ md : Mode,
    let f (fn : Fn) (x : Nat) : Nat × BitVec 6 :=
      ((fnRound fn .fp32 md (Fmt.fp32.val x)).bits, (fnRound fn .fp32 md (Fmt.fp32.val x)).flags)
    let pInf := 0x7F800000
    let nInf := 0xFF800000
    let nan := 0x7FC00000
    let nZero := 0x80000000
    let one := 0x3F800000
    f .sqrt nZero = (nZero, 0) ∧ f .sqrt pInf = (pInf, 0) ∧ f .sqrt 0xBF800000 = (nan, fNV) ∧
    f .rcp 0 = (pInf, fDZ) ∧ f .rcp nZero = (nInf, fDZ) ∧ f .rcp pInf = (0, 0) ∧ f .rcp nInf = (nZero, 0) ∧
    f .rsqrt 0 = (pInf, fDZ) ∧ f .rsqrt nZero = (nInf, fDZ) ∧ f .rsqrt 0xBF800000 = (nan, fNV) ∧ f .rsqrt pInf = (0, 0) ∧
    f .exp2 nInf = (0, 0) ∧ f .exp2 pInf = (pInf, 0) ∧ f .exp nInf = (0, 0) ∧ f .exp pInf = (pInf, 0) ∧
    f .log2 0 = (nInf, fDZ) ∧ f .log2 nZero = (nInf, fDZ) ∧ f .log2 0xBF800000 = (nan, fNV) ∧ f .log2 pInf = (pInf, 0) ∧
    f .log2 one = (0, 0) ∧
    f .log 0 = (nInf, fDZ) ∧ f .log nZero = (nInf, fDZ) ∧ f .log 0xBF800000 = (nan, fNV) ∧ f .log pInf = (pInf, 0) ∧
    f .log one = (0, 0) ∧
    f .tanh pInf = (one, 0) ∧ f .tanh nInf = (0xBF800000, 0) ∧ f .tanh 0 = (0, 0) ∧ f .tanh nZero = (nZero, 0) ∧
    f .sigm nInf = (0, 0) ∧ f .sigm pInf = (one, 0) ∧
    f .sin pInf = (nan, fNV) ∧ f .sin nInf = (nan, fNV) ∧ f .cos pInf = (nan, fNV) ∧ f .cos nInf = (nan, fNV) ∧
    f .sin 0 = (0, 0) ∧ f .sin nZero = (nZero, 0)

/-- The forms of R224 that select or change a sign: destination, sources, mask, type and an element's result. -/
def vecSelect (i : Instr) : Option (Reg × List Reg × Mask × FT × Reg × Reg × (Nat → Nat → Rnd)) :=
  let nan (t : FT) (x y : Nat) : Bool := (t.fmt.val x).isNan || (t.fmt.val y).isNan
  let sig (t : FT) (x y : Nat) : Bool := (t.fmt.val x).isSig || (t.fmt.val y).isSig
  let or (t : FT) (x y : Nat) (v : Nat) : Rnd :=
    if nan t x y then ⟨t.fmt.canon, if sig t x y then fNV else 0⟩ else ⟨v, 0⟩
  let top (t : FT) : Nat := 2 ^ (t.fmt.width - 1)
  match i with
  | .vfmin t d a b m => some (d, [a, b], m, t, a, b, fun x y => or t x y (if belowV (t.fmt.val x) (t.fmt.val y) then x else y))
  | .vfmax t d a b m => some (d, [a, b], m, t, a, b, fun x y => or t x y (if belowV (t.fmt.val x) (t.fmt.val y) then y else x))
  | .vfabs t d a m => some (d, [a], m, t, a, a, fun x _ => or t x x (x % top t))
  | .vfneg t d a m => some (d, [a], m, t, a, a, fun x _ => or t x x (if x < top t then x + top t else x - top t))
  | _ => none

/-- R224: `vfmin`, `vfmax`, `vfabs` and `vfneg` write each active element's selection or sign change, a NaN as the canonical one
with NV for a signalling one, and consume no draw. -/
def VectorSelections : Prop :=
  ∀ (i : Instr) (s : State) (d a b : Reg) (vs : List Reg) (m : Mask) (ty : FT) (f : Nat → Nat → Rnd),
    vecSelect i = some (d, vs, m, ty, a, b, f) → VReady s vs [] m [d] →
    let w := ty.fmt.width
    let res (k : Nat) := f (elem (s.th.getV a) w k) (elem (s.th.getV b) w k)
    ∃ s' v, exec i s = .next s' ∧ Written s.th m d w (fun k => (res k).bits) v ∧
      Done s s' ({ s.th with fflags := s.th.fflags ||| orFlags s.th m w fun k => (res k).flags }.setV d v)

/-- R222, R224: vector compares, minimum, maximum and sign forms. -/
def Obligations.VectorComparesAndSelections : Prop := VectorCompares ∧ VectorSelections

/-! ### Reductions, scans and lane groups -/

/-- The exact combination of a list of elements (R113, R114, R226): a floating-point sum is exact and rounded once, an integer
sum wraps, and a maximum or minimum starts from the type's least or greatest value. -/
def combine (t : RT) (c : Comb) (md : Mode) (l : List Nat) : Rnd :=
  let w := rtBits t
  let z (x : Nat) : Int := if t = .i32 ∨ t = .i64 then (BitVec.ofNat w x).toInt else x
  let wrap (v : Int) : Rnd := ⟨(BitVec.ofInt w v).toNat, 0⟩
  let best (first : Int → Int → Int) (e : Int) : Rnd := wrap ((l.map z).foldl first e)
  let bestFp (isMax : Bool) (e : Nat) : Rnd :=
    l.foldl (fun r x => let q := minMax (rtFmt t) isMax r.bits x; ⟨q.bits, r.flags ||| q.flags⟩) ⟨e, 0⟩
  if t.isFp then
    let inf := (2 ^ (rtFmt t).expo - 1) * 2 ^ (rtFmt t).mant
    match c with
    | .sum => (l.foldl (fun a x => a.add ((rtFmt t).val x)) (Acc.empty (t = .f64))).read (rtFmt t) md
    | .max => bestFp true (2 ^ (w - 1) + inf)
    | .min => bestFp false inf
  else
    let sg : Bool := t = .i32 ∨ t = .i64
    match c with
    | .sum => wrap (l.map z).sum
    | .max => best max (if sg then -2 ^ (w - 1) else 0)
    | .min => best min (if sg then 2 ^ (w - 1) - 1 else 2 ^ w - 1)

/-- The active elements among given indices of a source (R207). -/
def actives (t : Thread) (m : Mask) (v : BitVec 2048) (w : Nat) (is : List Nat) : List Nat :=
  (is.filter fun k => k < count t w ∧ on t m (k * w / 32)).map (elem v w)

/-- The reductions of R226: destination, source, rounding field, mask, type and what they combine by. -/
def vecReduce (i : Instr) : Option (Reg × Reg × RM × Mask × RT × Comb) :=
  match i with
  | .vredsum d a r m t => some (d, a, r, m, t, .sum)
  | .vredmax d a m t => some (d, a, .rne, m, t, .max)
  | .vredmin d a m t => some (d, a, .rne, m, t, .min)
  | _ => none

/-- R226: a reduction writes the combination of the active elements to element 0 and zero to every other element, whatever the
mask; a floating-point sum consumes one draw under SR. -/
def VectorReductions : Prop :=
  ∀ (i : Instr) (s : State) (d a : Reg) (r rm : RM) (m : Mask) (t : RT) (c : Comb),
    vecReduce i = some (d, a, r, m, t, c) → VReady s [a] [] m [d] →
    (c = Comb.sum ∧ t.isFp = true → rmEff r s.th.frm = some rm) →
    let w := rtBits t
    let sr : Prop := c = Comb.sum ∧ t.isFp = true ∧ rm = RM.sr
    let res := combine t c (s.th.mode rm 0 1 0) (actives s.th m (s.th.getV a) w (List.range (s.th.n w)))
    ∃ s' v, exec i s = .next s' ∧ (∀ k, k < count s.th w → elem v w k = if k = 0 then res.bits else 0) ∧
      Done s s' ({ s.th with
        fflags := s.th.fflags ||| res.flags
        draw := if sr then s.th.draw + 1 else s.th.draw }.setV d v)

/-- R114, R189: any number of floating-point add reductions of one element, with nothing between them, leave the same bytes in
whatever order they are performed, since the sum is exact and rounded once. -/
def ReductionOrderDoesNotMatter : Prop :=
  ∀ (m : MemSys) (f : Fmt) (key : Nat) (vs ws : List Nat), f.isWide = true → Memory.wf m.bytes →
    (∀ r ∈ m.reds, r.key ≠ key) → vs.Perm ws →
    let n := f.width / 8
    (vs.foldl (fun m v => reduce m 0 f key v) m).bytes.read key n =
      (ws.foldl (fun m v => reduce m 0 f key v) m).bytes.read key n

/-- R114, R226: a reduction gives the same result in whatever order its elements are combined. -/
def ReductionsIgnoreOrder : Prop :=
  ∀ (t : RT) (c : Comb) (md : Mode) (l k : List Nat), l.Perm k → reduceList t c md l = reduceList t c md k

/-- R114, R189, R226: neither reduction stores nor vector reductions depend on the order of combination. -/
def Obligations.OrderOfReductionsDoesNotMatter : Prop := ReductionOrderDoesNotMatter ∧ ReductionsIgnoreOrder

/-- The scans of R226: destination, source, rounding field, mask, type, and whether an element counts itself. -/
def vecScan (i : Instr) : Option (Reg × Reg × RM × Mask × RT × Bool) :=
  match i with
  | .vscan d a r m t => some (d, a, r, m, t, true)
  | .vscanx d a r m t => some (d, a, r, m, t, false)
  | _ => none

/-- R226: each active element of a scan receives the combination of the active elements up to it, or before it, rounded once
from its own exact prefix. -/
def VectorScans : Prop :=
  ∀ (i : Instr) (s : State) (d a : Reg) (r rm : RM) (m : Mask) (t : RT) (self : Bool),
    vecScan i = some (d, a, r, m, t, self) → VReady s (if m = 0 then [a] else [a, d]) [] m [d] →
    (t.isFp = true → rmEff r s.th.frm = some rm) →
    let w := rtBits t
    let res (k : Nat) := combine t Comb.sum (s.th.modeAt rm w k)
      (actives s.th m (s.th.getV a) w (List.range (if self then k + 1 else k)))
    ∃ s' v, exec i s = .next s' ∧ Written s.th m d w (fun k => (res k).bits) v ∧
      Done s s' ({ s.th with
        fflags := s.th.fflags ||| orFlags s.th m w fun k => (res k).flags
        draw := if t.isFp = true ∧ rm = RM.sr then s.th.draw + 1 else s.th.draw }.setV d v)

/-- R226: reductions and scans. -/
def Obligations.VectorReductionsAndScans : Prop := VectorReductions ∧ VectorScans

/-- Where lane group `g` of a lengths word begins, and how many of its elements are in range (R227). -/
def groupStart (lens : Word) (g : Nat) : Nat := ((List.range g).map fun j => lens.toNat / 2 ^ (8 * j) % 256).sum
def groupLen (lens : Word) (n g : Nat) : Nat := min (lens.toNat / 2 ^ (8 * g) % 256) (n - groupStart lens g)

/-- Whether lane group `g` holds an element (R227). -/
def inGroup (lens : Word) (n g k : Nat) : Bool :=
  g < 8 && decide (groupStart lens g ≤ k) && decide (k < groupStart lens g + groupLen lens n g)

/-- The elements of a lane group from its first one on. -/
def groupUpTo (lens : Word) (g len : Nat) : List Nat := (List.range len).map fun j => groupStart lens g + j

/-- The group reductions of R227: destination, source, lengths, mask, type and what they combine by. -/
def vecGroup (i : Instr) : Option (Reg × Reg × Reg × Mask × RT × Comb) :=
  match i with
  | .vsgsum d a b m t => some (d, a, b, m, t, .sum)
  | .vsgmax d a b m t => some (d, a, b, m, t, .max)
  | .vsgmin d a b m t => some (d, a, b, m, t, .min)
  | _ => none

/-- R227: a group reduction writes the combination of group g's active elements to element g for g = 0 … 7 and zero to every
other element; a floating-point sum rounds in the mode of `frm` and consumes one draw under SR. -/
def LaneGroupReductions : Prop :=
  ∀ (i : Instr) (s : State) (d a b : Reg) (rm : RM) (m : Mask) (t : RT) (c : Comb),
    vecGroup i = some (d, a, b, m, t, c) → VReady s [a] [xr b] m [d] →
    (c = Comb.sum ∧ t.isFp = true → rmEff .dyn s.th.frm = some rm) →
    let w := rtBits t
    let lens := s.th.getX b
    let res (g : Nat) := combine t c (s.th.modeAt rm w g)
      (actives s.th m (s.th.getV a) w (groupUpTo lens g (groupLen lens (s.th.n w) g)))
    ∃ s' v, exec i s = .next s' ∧ (∀ k, k < count s.th w → elem v w k = if k < 8 then (res k).bits else 0) ∧
      Done s s' ({ s.th with
        fflags := s.th.fflags ||| (List.range 8).foldl (fun x g => x ||| (res g).flags) 0
        draw := if c = Comb.sum ∧ t.isFp = true ∧ rm = RM.sr then s.th.draw + 1 else s.th.draw }.setV d v)

/-- R227: `vsgscan` gives each active element of a group the inclusive combination of the group's active elements up to it (in the
mode of `frm`; under SR with one draw),
`vsgbcast` element g of va, `vsgrefill` moves each group down by one element and appends element g of va; an element in no
group is never written. -/
def LaneGroupForms : Prop :=
  ∀ (s : State) (d a b : Reg) (m : Mask) (t : RT),
    let w := rtBits t
    let n := s.th.n w
    let lens := s.th.getX b
    let va := s.th.getV a
    let old := s.th.getV d
    (∀ rm, VReady s [a] [xr b] m [d] → (t.isFp = true → rmEff .dyn s.th.frm = some rm) →
      ∃ s' v f, exec (.vsgscan d a b m t) s = .next s' ∧
        (rm ≠ RM.sr → ∀ k, k < count s.th w → ∀ g, inGroup lens n g k = true → elem v w k =
          if on s.th m (k * w / 32) then
            (combine t Comb.sum (s.th.mode rm 0 1 0) (actives s.th m va w (groupUpTo lens g (k + 1 - groupStart lens g)))).bits
          else elem old w k) ∧
        (∀ k, k < count s.th w → (∀ g, inGroup lens n g k = false) → elem v w k = elem old w k) ∧
        Done s s' ({ s.th with
          fflags := s.th.fflags ||| f
          draw := if t.isFp = true ∧ rm = RM.sr then s.th.draw + 1 else s.th.draw }.setV d v)) ∧
    (VReady s [a] [xr b] m [d] →
      ∃ s' v, exec (.vsgbcast d a b m t) s = .next s' ∧
        (∀ k, k < count s.th w → ∀ g, inGroup lens n g k = true →
          elem v w k = if on s.th m (k * w / 32) then elem va w g else elem old w k) ∧
        (∀ k, k < count s.th w → (∀ g, inGroup lens n g k = false) → elem v w k = elem old w k) ∧
        Done s s' (s.th.setV d v)) ∧
    (VReady s [a, d] [xr b] 0 [d] →
      ∃ s' v, exec (.vsgrefill d a b t) s = .next s' ∧
        (∀ k, k < count s.th w → ∀ g, inGroup lens n g k = true →
          elem v w k = if inGroup lens n g (k + 1) then elem old w (k + 1) else elem va w g) ∧
        (∀ k, k < count s.th w → (∀ g, inGroup lens n g k = false) → elem v w k = elem old w k) ∧
        Done s s' (s.th.setV d v))

/-- R227: the lane-group forms. -/
def Obligations.LaneGroups : Prop := LaneGroupReductions ∧ LaneGroupForms

/-! ### Permutes and conversions -/

/-- The permutes of R228 that write the active elements: destination, sources, x sources, mask, width and element `k`. -/
def vecPermute (i : Instr) (t : Thread) : Option (Reg × List Reg × List Nat × Mask × Nat × (Nat → Nat)) :=
  let e (a : Reg) (z : EW) (k : Nat) : Nat := elem (t.getV a) z.bits k
  match i with
  | .vperm d a b m z => some (d, [a, b], [], m, z.bits, fun k => if e b z k < t.n z.bits then e a z (e b z k) else 0)
  | .vslideup d a b m z => some (d, [a, d], [xr b], m, z.bits, fun k =>
      if (t.getX b).toNat ≤ k then e a z (k - (t.getX b).toNat) else e d z k)
  | .vslidedn d a b m z => some (d, [a], [xr b], m, z.bits, fun k =>
      if k + (t.getX b).toNat < t.n z.bits then e a z (k + (t.getX b).toNat) else 0)
  | .vbcast d a m z => some (d, [], [xr a], m, z.bits, fun _ => (t.getX a).toNat % 2 ^ z.bits)
  | .vid d m z => some (d, [], [], m, z.bits, fun k => k % 2 ^ z.bits)
  | _ => none

/-- R228: the permutes and moves. -/
def Obligations.VectorPermutesAndMoves : Prop :=
  (∀ (i : Instr) (s : State) (d : Reg) (vs : List Reg) (xs : List Nat) (m : Mask) (w : Nat) (f : Nat → Nat),
    vecPermute i s.th = some (d, vs, xs, m, w, f) → VReady s vs xs m [d] →
    ∃ s' v, exec i s = .next s' ∧ Written s.th m d w f v ∧ Done s s' (s.th.setV d v)) ∧
  (∀ (s : State) (d a b : Reg) (m : Mask) (z : EW), VReady s [a, b] [] m [d] →
    ∃ s' v, exec (.vsel d a b m z) s = .next s' ∧ Done s s' (s.th.setV d v) ∧
      ∀ k, k < count s.th z.bits → elem v z.bits k =
        elem (s.th.getV (if on s.th m (k * z.bits / 32) then a else b)) z.bits k) ∧
  (∀ (s : State) (d a b : Reg) (z : EW), VReady s [a] [xr b] 0 [] →
    let k := (s.th.getX b).toNat
    ∃ s', exec (.vmvxv d a b z) s = .next s' ∧
      Done s s' (s.th.setX d (if k < s.th.n z.bits then
        (BitVec.ofNat z.bits (elem (s.th.getV a) z.bits k)).signExtend 64 else 0))) ∧
  (∀ (s : State) (d a b : Reg) (z : EW), VReady s [d] [xr a, xr b] 0 [d] →
    let k := (s.th.getX b).toNat
    (s.th.n z.bits ≤ k → ∃ s', exec (.vmvvx d a b z) s = .next s' ∧ Done s s' s.th) ∧
    (k < s.th.n z.bits → ∃ s' v, exec (.vmvvx d a b z) s = .next s' ∧ Done s s' (s.th.setV d v) ∧
      ∀ j, j < count s.th z.bits → elem v z.bits j =
        if j = k then (s.th.getX a).toNat % 2 ^ z.bits else elem (s.th.getV d) z.bits j))

/-- The destination of a conversion (R207, R229, R231, R233): N elements by the wide width, in cells of width `cd`; those at N
and above are zero. -/
def Converted (t : Thread) (m : Mask) (d : Reg) (wide cd : Nat) (f : Nat → Nat) (v : BitVec 2048) : Prop :=
  (∀ k, k < count t wide → elem v cd k = if on t m (k * wide / 32) then f k else elem (t.getV d) cd k) ∧
  ∀ k, t.n wide ≤ k → elem v cd k = 0

/-- The conversions of R229 to R231 that round: destination, sources, mask, rounding field, wide width, destination cell and
element `k` in a mode. -/
def vecConvert (i : Instr) (t : Thread) : Option (Reg × List Reg × Mask × RM × Nat × Nat × (Nat → Mode → Rnd)) :=
  let e (f : Fmt) (a : Reg) (k : Nat) : Val := f.val (elem (t.getV a) f.cell k)
  let scale (b : Reg) (k : Nat) : Nat := elem (t.getV b) 8 (k / 32)
  match i with
  | .vcvt d a g r m f => some (d, [a], m, r, max f.cell g.cell, g.cell, fun k md => roundTo g md false (e f a k).ex)
  | .vcvtNsat d a r m f => some (d, [a], m, r, max f.cell 8, 8, fun k md => roundTo .e4m3 md true (e f a k).ex)
  | .vmxcvt d a b m f => some (d, [a, b], m, .dyn, 32, f.cell, fun k md =>
      roundTo f md false (if scale b k = 255 then .nan (e .fp32 a k).isSig else shiftE (127 - scale b k) (e .fp32 a k)))
  | .vmxext d a b m f => some (d, [a, b], m, .dyn, 32, 32, fun k md =>
      round .fp32 md false (if scale b k = 255 then .nan (e f a k).isSig else shiftE (scale b k - 127) (e f a k)))
  | _ => none

/-- R229 to R231: a conversion rounds each active element once in its mode, writes zero from element N on, accumulates flags
and consumes one draw under SR; with a reserved `frm` it traps ILLEGAL. -/
def VectorConversions : Prop :=
  ∀ (i : Instr) (s : State) (d : Reg) (vs : List Reg) (m : Mask) (r : RM) (wide cd : Nat) (f : Nat → Mode → Rnd),
    vecConvert i s.th = some (d, vs, m, r, wide, cd, f) → formOk i = true →
    (rmEff r s.th.frm = none → exec i s = .next (trap s .illegal 0 s.th.ir.toNat)) ∧
    (∀ rm, rmEff r s.th.frm = some rm → VReady s vs [] m [d] →
      let res (k : Nat) := f k (s.th.modeAt rm wide k)
      ∃ s' v, exec i s = .next s' ∧ Converted s.th m d wide cd (fun k => (res k).bits) v ∧
        Done s s' ({ s.th with
          fflags := s.th.fflags ||| orFlags s.th m wide fun k => (res k).flags
          draw := if rm = RM.sr then s.th.draw + 1 else s.th.draw }.setV d v))

/-- The conversions of R231 and R233 that do not round: destination, sources, mask, wide width, destination cell and element
`k`. -/
def vecExact (i : Instr) (t : Thread) : Option (Reg × List Reg × Mask × Nat × Nat × (Nat → Rnd)) :=
  let clamp (lo hi x : Int) : Rnd := ⟨(BitVec.ofInt 4 (max lo (min hi x))).toNat, if x < lo ∨ hi < x then fSAT else 0⟩
  match i with
  | .vqgext d a b m f => some (d, [a, b], m, 32, 32, fun k =>
      round .fp32 .rne false (qgValue (elem (t.getV b) 32 (k / 32)) (elem (t.getV a) f.width k)))
  | .vwid4I8I4 d a m => some (d, [a], m, 8, 8, fun k =>
      ⟨((BitVec.ofNat 4 (elem (t.getV a) 4 k)).signExtend 8).toNat, 0⟩)
  | .vwid4N8N4 d a m => some (d, [a], m, 8, 8, fun k => ⟨elem (t.getV a) 4 k, 0⟩)
  | .vnar4I4I8 d a m => some (d, [a], m, 8, 4, fun k => clamp (-8) 7 (BitVec.ofNat 8 (elem (t.getV a) 8 k)).toInt)
  | .vnar4N4N8 d a m => some (d, [a], m, 8, 4, fun k => clamp 0 15 (elem (t.getV a) 8 k))
  | _ => none

/-- R231, R233: `vqgext` gives the scaled code, the widening forms extend 4-bit integers, and the narrowing forms clamp to 4
bits and set `sat` when an active element is clamped; no draw is consumed. -/
def VectorExactConversions : Prop :=
  ∀ (i : Instr) (s : State) (d : Reg) (vs : List Reg) (m : Mask) (wide cd : Nat) (f : Nat → Rnd),
    vecExact i s.th = some (d, vs, m, wide, cd, f) → formOk i = true → VReady s vs [] m [d] →
    ∃ s' v, exec i s = .next s' ∧ Converted s.th m d wide cd (fun k => (f k).bits) v ∧
      Done s s' ({ s.th with fflags := s.th.fflags ||| orFlags s.th m wide fun k => (f k).flags }.setV d v)

/-- R229 to R231, R233: the conversions. -/
def Obligations.VectorConversionForms : Prop := VectorConversions ∧ VectorExactConversions

/-- R134, R135, R232: `vqcvt` scales each active element by 2^k, with k from the record's snapshot and the margin, rounds it or
takes the end value of the format, and writes k to lane VL − 1; with `trap` set, an active element that exceeds the format
traps RESCALE with the handle and the lowest such index. -/
def Obligations.QuantizeByRecord : Prop :=
  ∀ (s : State) (d a b : Reg) (m : Mask) (f : Fmt) (o : Obj) (r : Rime) (rm : RM),
    let h := (s.th.getX b).toNat / 256 * 256
    let k := scaleExp r.snap f ((s.th.getX b).setWidth 8).toInt
    let x (j : Nat) := shiftE k (Fmt.fp32.val (elem (s.th.getV a) 32 j))
    let act (j : Nat) : Prop := j < count s.th 32 ∧ on s.th m j = true
    (f.isNarrow = true ∨ f = .i8) → rmEff .dyn s.th.frm = some rm → VReady s [a] [xr b] m [d] →
    CanUse s h .rime o → o.kind = .rime r → o.poison = false →
    (∀ j, r.trap = true → act j → exceeds f (x j) = true → (∀ q, q < j → act q → exceeds f (x q) = false) →
      exec (.vqcvt d a b m f) s = .next (trap s .rescale h j)) ∧
    ((r.trap = false ∨ ∀ j, act j → exceeds f (x j) = false) →
      let res (j : Nat) := qcvtElem f (s.th.modeAt rm 32 j) (x j)
      ∃ s' v, exec (.vqcvt d a b m f) s = .next s' ∧
        (∀ j, j < count s.th 32 → elem v f.cell j = if on s.th m j then (res j).bits else elem (s.th.getV d) f.cell j) ∧
        (s.th.vl ≤ 64 → elem v 32 (s.th.vl - 1) = (BitVec.ofInt 32 k).toNat) ∧
        Done s s' ({ s.th with
          fflags := s.th.fflags ||| orFlags s.th m 32 fun j => (res j).flags
          draw := if rm = RM.sr then s.th.draw + 1 else s.th.draw }.setV d v))

/-! ### Vector memory, lane slices, claims, stream ports -/

/-- The vector loads and stores of R212: whether it stores, the register of elements, its other vector source, x sources,
mask, width in bits and element addresses. -/
def vecAccess (i : Instr) (t : Thread) : Option (Bool × Reg × List Reg × List Nat × Mask × Nat × (Nat → Nat)) :=
  let unit (a : Reg) (z : EW) (k : Nat) : Nat := (t.getX a + BitVec.ofNat 64 (k * (z.bits / 8))).toNat
  let stride (a b : Reg) (k : Nat) : Nat := (t.getX a + BitVec.ofNat 64 k * t.getX b).toNat
  let index (a b : Reg) (z : EW) (k : Nat) : Nat :=
    (t.getX a + (BitVec.ofNat z.bits (elem (t.getV b) z.bits k)).signExtend 64).toNat
  match i with
  | .vld d a m _ z => some (false, d, [], [xr a], m, z.bits, unit a z)
  | .vlds d a b m _ z => some (false, d, [], [xr a, xr b], m, z.bits, stride a b)
  | .vldx d a b m _ z => some (false, d, [b], [xr a], m, z.bits, index a b z)
  | .vst x a m _ z => some (true, x, [], [xr a], m, z.bits, unit a z)
  | .vsts x a b m _ z => some (true, x, [], [xr a, xr b], m, z.bits, stride a b)
  | .vstx x a b m _ z => some (true, x, [b], [xr a], m, z.bits, index a b z)
  | _ => none

/-- The elements that a vector memory instruction performs (R207). -/
def Performs (t : Thread) (m : Mask) (w k : Nat) : Prop := k < count t w ∧ on t m (k * w / 32) = true

/-- R207, R212 to R214: a vector load whose active elements all pass their checks, and whose step performs them all, writes what the
core sees at each one's address (of HC memory, the bytes at the home or those of the core's own copy), and no byte at any home
changes; a vector store to distinct bytes leaves each active element where its core sees it and no other byte at a home
changed, unless a running replay session keeps pages meanwhile. An inactive element makes no access. -/
def VectorLoadsAndStores : Prop :=
  ∀ (i : Instr) (s : State) (store : Bool) (r : Reg) (vs : List Reg) (xs : List Nat) (m : Mask) (w : Nat) (ea : Nat → Nat)
    (key : Nat → Nat) (cls : Nat → Cls),
    vecAccess i s.th = some (store, r, vs, xs, m, w, ea) → VReady s (if store then r :: vs else vs) xs m [r] →
    (∀ d ∈ s.host.dbg, d.core ≠ s.th.core) → s.th.vpart = none → s.limit = 0 →
    let n := w / 8
    (store = false → (∀ k, Performs s.th m w k → CanAccess s .rd (ea k) n (key k) (cls k)) →
      ∃ t v, exec i s = .next t ∧ SameBytes s t ∧ AccessOnly s t ∧ GoesOn s t ∧ s.th.pts ≤ t.th.pts ∧
        IssueOnly { s.th.setV r v with pts := t.th.pts } t.th ∧
        ∀ k, k < count s.th w →
          if on s.th m (k * w / 32) then
            if cls k = .hc then
              elem v w k = s.mem.bytes.read (key k) n ∨
                ∃ c, s.copyOf s.th.core (ea k) true = some c ∧ elem v w k = c.data.read (ea k % 128) n
            else elem v w k = sees s (ea k) (key k) n (cls k)
          else elem v w k = elem (s.th.getV r) w k) ∧
    (store = true → (∀ k, Performs s.th m w k → CanAccess s .wr (ea k) n (key k) (cls k)) →
      (∀ j k, Performs s.th m w j → Performs s.th m w k → j < k → ea j ≠ ea k ∧ (key j + n ≤ key k ∨ key k + n ≤ key j)) →
      Memory.wf s.mem.bytes → (∀ c ∈ s.mem.l1, Memory.wf c.data) →
      ∃ t, exec i s = .next t ∧ AccessOnly s t ∧ GoesOn s t ∧ s.th.pts ≤ t.th.pts ∧
        IssueOnly { s.th with pts := t.th.pts } t.th ∧
        (s.host.replayState ≠ 1 →
          (∀ k, Performs s.th m w k → sees t (ea k) (key k) n (cls k) = elem (s.th.getV r) w k) ∧
          ∀ q, (∀ k, Performs s.th m w k → q < key k ∨ key k + n ≤ q) → t.mem.bytes.get q = s.mem.bytes.get q))

/-- R214: a vector load or store of whose elements a step performs only some keeps the rest, and the slot, which has not
completed the instruction, stays ready to go on with them. -/
def VectorAccessInParts : Prop :=
  ∀ (i : Instr) (s : State) (store : Bool) (r : Reg) (vs : List Reg) (xs : List Nat) (m : Mask) (w : Nat) (ea : Nat → Nat)
    (key : Nat → Nat) (cls : Nat → Cls),
    vecAccess i s.th = some (store, r, vs, xs, m, w, ea) → VReady s (if store then r :: vs else vs) xs m [r] →
    (∀ d ∈ s.host.dbg, d.core ≠ s.th.core) → s.th.vpart = none →
    (∀ k, Performs s.th m w k → CanAccess s (if store then .wr else .rd) (ea k) (w / 8) (key k) (cls k)) →
    let all := (List.range (count s.th w)).filter fun k => on s.th m (k * w / 32)
    s.limit ≠ 0 → s.limit < all.length →
    ∃ t p, exec i s = .next t ∧ t.th.vpart = some p ∧ t.th.wait = .retry ∧
      p.left.map (fun e => (e.idx, e.a)) = (all.drop s.limit).map (fun k => (k, ea k)) ∧
      t.th = { s.th with pts := t.th.pts, vpart := some p, wait := .retry } ∧ AccessOnly s t

/-- R170, R213: a vector memory instruction with a misaligned active element performs no element and traps MISALIGN with the
address and index of the lowest one. -/
def VectorMisalignment : Prop :=
  ∀ (i : Instr) (s : State) (store : Bool) (r : Reg) (vs : List Reg) (xs : List Nat) (m : Mask) (w : Nat) (ea : Nat → Nat)
    (k : Nat),
    vecAccess i s.th = some (store, r, vs, xs, m, w, ea) → VReady s (if store then r :: vs else vs) xs m [r] →
    s.th.vpart = none →
    Performs s.th m w k → ea k % (w / 8) ≠ 0 → (∀ j, j < k → Performs s.th m w j → ea j % (w / 8) = 0) →
    exec i s = .next (trap s .misalign (ea k) k)

/-- R170, R207, R212 to R214: vector loads and stores, and MISALIGN at the lowest misaligned element. -/
def Obligations.VectorMemory : Prop := VectorLoadsAndStores ∧ VectorAccessInParts ∧ VectorMisalignment

/-- R63, R210, R211, R215: lane-slice forms move 4 bytes per active lane between vd and the lane's own slice at an aligned
offset up to 508, and trap MISALIGN or PROT elsewhere; `vclaim` of X[a] granules takes min(X[a], 2, held + free), keeps what it
keeps and gives zeroed new lanes; `vfree` releases all. -/
def Obligations.LaneSlicesAndClaims : Prop :=
  (∀ (s : State) (d a : Reg) (m : Mask) (h : Hint) (z : EW), VReady s [] [xr a] m [d] →
    let o := (s.th.getX a).toNat
    (o % 4 ≠ 0 → exec (.vldl d a m h z) s = .next (trap s .misalign o 0)) ∧
    (o % 4 = 0 → 508 < o → exec (.vldl d a m h z) s = .next (trap s .prot o 0)) ∧
    (o % 4 = 0 → o ≤ 508 → s.th.bad = [] → ∃ t v, exec (.vldl d a m h z) s = .next t ∧ Done s t (s.th.setV d v) ∧
      ∀ L, L < count s.th 32 → elem v 32 L =
        if on s.th m (if z = .w64 then L / 2 * 2 else L) then s.th.slice.read (512 * L + o) 4 else elem (s.th.getV d) 32 L)) ∧
  (∀ (s : State) (x a : Reg) (m : Mask) (h : Hint) (z : EW), VReady s [x] [xr a] m [] →
    let o := (s.th.getX a).toNat
    (o % 4 ≠ 0 → exec (.vstl x a m h z) s = .next (trap s .misalign o 0)) ∧
    (o % 4 = 0 → 508 < o → exec (.vstl x a m h z) s = .next (trap s .prot o 0)) ∧
    (o % 4 = 0 → o ≤ 508 → Memory.wf s.th.slice →
      ∃ t, exec (.vstl x a m h z) s = .next t ∧ Done s t { s.th with slice := t.th.slice } ∧
        (∀ L, L < count s.th 32 → on s.th m (if z = .w64 then L / 2 * 2 else L) = true →
          t.th.slice.read (512 * L + o) 4 = elem (s.th.getV x) 32 L) ∧
        ∀ q, (∀ L, L < count s.th 32 → on s.th m (if z = .w64 then L / 2 * 2 else L) = true →
          q < 512 * L + o ∨ 512 * L + o + 4 ≤ q) → t.th.slice.get q = s.th.slice.get q)) ∧
  (∀ (s : State) (d a : Reg), Settled s.th [xr a] → s.th.ports = [] →
    let g := min (min (s.th.getX a).toNat 2) (s.th.gran + granulesFree s (floeOfCore s.th.core))
    ∃ t, exec (.vclaim d a) s = .next t ∧ ThreadOnly s t ∧ GoesOn s t ∧ t.th.gran = g ∧
      IssueOnly ({ s.th with gran := g, v := t.th.v, slice := t.th.slice, bad := t.th.bad }.setX d (BitVec.ofNat 64 g)) t.th ∧
      (g = s.th.gran → t.th.v = s.th.v ∧ t.th.slice = s.th.slice ∧ t.th.bad = s.th.bad) ∧
      (g ≠ s.th.gran → ∀ (r : Reg) (j : Nat), j < 2 →
        elem (t.th.getV r) 1024 j = if j < g ∧ j < s.th.gran then elem (s.th.getV r) 1024 j else 0)) ∧
  (∀ s : State, s.th.ports = [] → ∃ t, exec .vfree s = .next t ∧ ThreadOnly s t ∧ GoesOn s t ∧ t.th.gran = 0 ∧
    IssueOnly { s.th with gran := 0, v := t.th.v, slice := t.th.slice, bad := t.th.bad } t.th)

/-- The two forms that bind a stream port, and the direction (R217). -/
def bindTable (i : Instr) : Option (Fin 8 × Reg × Bool) :=
  match i with
  | .vsbindRd n a => some (n, a, false)
  | .vsbindWr n a => some (n, a, true)
  | _ => none

/-- R216, R217: binding an unbound port reads the 32-byte descriptor as a load and binds its base, stride, count and hint; a
base or stride that is not a multiple of 4 traps MISALIGN with that value, and a bit that must be zero PROT; unbinding an
unbound port leaves it so, and unbinding a port whose pushes have all been written ends the binding, or polls while the page of
its descriptor is in transition. -/
def Obligations.StreamPortBindings : Prop :=
  (∀ (i : Instr) (s : State) (n : Fin 8) (a : Reg) (write : Bool) (key : Nat) (cls : Cls),
    bindTable i = some (n, a, write) → s.th.gran ≠ 0 → Settled s.th [xr a] → look s.th.ports n.val = none →
    let e := (s.th.getX a).toNat
    CanAccess s .rd e 32 key cls →
    let v := sees s e key 32 cls
    let base := v % 2 ^ 64
    let stride := v / 2 ^ 64 % 2 ^ 64
    (base % 4 ≠ 0 → exec i s = .next (trap s .misalign base 0)) ∧
    (base % 4 = 0 → stride % 4 ≠ 0 → exec i s = .next (trap s .misalign stride 0)) ∧
    (base % 4 = 0 → stride % 4 = 0 → v / 2 ^ 162 % 2 ^ 30 ≠ 0 → exec i s = .next (trap s .prot e 0)) ∧
    (base % 4 = 0 → stride % 4 = 0 → v / 2 ^ 162 % 2 ^ 30 = 0 →
      ∃ t p, exec i s = .next t ∧ SameBytes s t ∧ GoesOn s t ∧ s.th.pts ≤ t.th.pts ∧
        IssueOnly { s.th with ports := t.th.ports, pts := t.th.pts } t.th ∧ look t.th.ports n.val = some p ∧
        (∀ j, j ≠ n.val → look t.th.ports j = look s.th.ports j) ∧
        p.desc = e ∧ p.write = write ∧ p.base = BitVec.ofNat 64 base ∧ p.stride = BitVec.ofNat 64 stride ∧
        p.count = v / 2 ^ 128 % 2 ^ 32 ∧ p.hint = v / 2 ^ 160 % 4 ∧ p.done = 0 ∧ p.ahead = [] ∧ p.queue = [])) ∧
  (∀ (s : State) (n : Fin 8), look s.th.ports n.val = none → ∃ t, exec (.vsunbind n) s = .next t ∧ Done s t s.th) ∧
  (∀ (s : State) (n : Fin 8) (p : Port), look s.th.ports n.val = some p → p.queue = [] → p.fail = none →
    let fit := spansList (noteRange (settle s p.desc 32) s.th.lid p.desc 32) s.th.core s.tenant .wr [(p.desc + 24, 8)]
    (fit = .wait → exec (.vsunbind n) s = .next (poll s)) ∧
    (fit ≠ .wait → ∃ t, exec (.vsunbind n) s = .next t ∧ GoesOn s t ∧ look t.th.ports n.val = none ∧
      (∀ j, j ≠ n.val → look t.th.ports j = look s.th.ports j) ∧ max s.th.pts p.te ≤ t.th.pts ∧
      IssueOnly { s.th with ports := t.th.ports, pts := t.th.pts, v := t.th.v } t.th ∧
      ∀ r : Reg, r.val ≠ 24 + n.val → t.th.v[r] = s.th.v[r]))

/-- R73, R218: for an integer vector form: a source that names a read-bound port takes its oldest fetched vector, once and
with every such field seeing it; a read past the end gives zero and sets ovf; a destination that names a write-bound port
queues the vector, with inactive elements zero, and writes no register; a port used in the wrong direction traps ILLEGAL. -/
def Obligations.StreamPortOperands : Prop :=
  ∀ (i : Instr) (s : State) (d a b : Reg) (m : Mask) (t : IT) (f : Nat → Nat → Nat × Bool) (n : Fin 8) (p : Port),
    vecInt i = some (d, a, b, m, t, f) → s.th.gran ≠ 0 → Settled s.th ([a, b].map vr ++ maskSrc m) →
    look s.th.ports n.val = some p →
    let port (r : Reg) : Prop := r.val = 24 + n.val
    (port a → port b → s.th.portOf d = none → p.write = false →
      (∀ q rest, p.done < p.count → p.ahead = q :: rest → q.fail = none →
        ∃ s' v, exec i s = .next s' ∧ v = s'.th.getV d ∧
          Written s.th m d t.bits (fun k => (f (elem q.data t.bits k) (elem q.data t.bits k)).1) v ∧
          s'.th.pts = max s.th.pts q.te ∧
          look s'.th.ports n.val = some { p with ahead := rest, done := p.done + 1 }) ∧
      (p.count ≤ p.done → ∃ s' v, exec i s = .next s' ∧ v = s'.th.getV d ∧
        Written s.th m d t.bits (fun k => (f 0 0).1) v ∧ look s'.th.ports n.val = some { p with ovf := true })) ∧
    (port d → s.th.portOf a = none → s.th.portOf b = none → p.write = true → p.fail = none → p.flt = false →
      p.pushed < p.count →
      ∃ s' v, exec i s = .next s' ∧ s'.th.v = s.th.v ∧
        look s'.th.ports n.val = some { p with pushed := p.pushed + 1, queue := p.queue ++ [(v, s.th.pts)] } ∧
        ∀ k, k < count s.th t.bits → elem v t.bits k = if on s.th m (k * t.bits / 32) then
          (f (elem (s.th.getV a) t.bits k) (elem (s.th.getV b) t.bits k)).1 else 0) ∧
    (port a ∧ p.write = true ∨ port d ∧ p.write = false → exec i s = .next (trap s .illegal 0 s.th.ir.toNat))

/-! ### Synchronisation objects -/

/-- An instruction has completed with a value in xd (x0: none): no other register of its thread changes, and `pts` never
falls. -/
def Returns (s t : State) (d : Reg) (v : Word) : Prop :=
  IssueOnly { s.th.setX d v with pts := t.th.pts } t.th ∧ GoesOn s t ∧ s.th.pts ≤ t.th.pts

/-- The current slot waits in its instruction, and its thread is otherwise as it was (R43). -/
def Waits (s t : State) (w : Wait) : Prop := t.th = { s.th with wait := w }

/-- A gated thread is released: its instruction completes with a status in `rd`, and it takes a timestamp (R43, R92). -/
def Woken (u v : Thread) (rd : Nat) (status : Word) (ts : Nat) : Prop :=
  (∃ src c q, v.wait = .waking src c q) ∧ v.x = (u.setX (Fin.ofNat 32 rd) status).x ∧ v.v = u.v ∧ v.pts = max u.pts ts ∧ v.pc = u.complete.pc

/-- The instructions that take the handle of an object, with its kind: sources, and the register of the handle. -/
def handleTable (i : Instr) : Option (List Reg × Reg × HKind) :=
  match i with
  | .barInit a b _ | .barInitF a b _ | .barArr a b _ | .barWait a b _ | .barArrw a b _ => some ([a, b], a, .bar)
  | .barKill a _ | .barRd a _ | .barFree a _ => some ([a], a, .bar)
  | .cntInit a b _ | .cntAdd a b _ | .cntWait a b _ => some ([a, b], a, .cnt)
  | .cntRd a _ | .cntFree a _ => some ([a], a, .cnt)
  | .mtxFree a _ => some ([a], a, .mtx)
  | .rimeBind a b _ | .rimeUnbind a b _ | .rimeRd a b _ => some ([a, b], a, .rime)
  | .rimeSync a _ | .rimeClr a _ | .rimeFree a _ => some ([a], a, .rime)
  | _ => none

/-- R57, R235: an instruction on an object checks its handle first: misaligned to 64 bytes (256 for a record) traps MISALIGN,
above the implemented bits or in a reserved unit's window PROT, elsewhere outside the synchronisation windows or naming no
object of the kind SYNCWIN, and an object of another tenant PROT, each with the handle in `xaddr`. -/
def Obligations.HandleChecks : Prop :=
  ∀ (i : Instr) (s : State) (rs : List Reg) (a : Reg) (k : HKind), handleTable i = some (rs, a, k) →
    Settled s.th (rs.map xr) →
    let h := (s.th.getX a).toNat
    let n := if k = .rime then 256 else 64
    (h % n ≠ 0 → exec i s = .next (trap s .misalign h 0)) ∧
    (h % n = 0 → 2 ^ 57 ≤ h → exec i s = .next (trap s .prot h 0)) ∧
    (h % n = 0 → h < 2 ^ 57 → region h = .reserved → exec i s = .next (trap s .prot h 0)) ∧
    (h % n = 0 → h < 2 ^ 57 → region h ≠ .reserved → inSync h = false → exec i s = .next (trap s .syncwin h 0)) ∧
    (h % n = 0 → h < 2 ^ 57 → inSync h = true → (∀ o, s.obj h = some o → o.kind.is k = false) →
      exec i s = .next (trap s .syncwin h 0)) ∧
    (∀ o, h % n = 0 → h < 2 ^ 57 → inSync h = true → s.obj h = some o → o.kind.is k = true → o.tenant ≠ s.tenant →
      exec i s = .next (trap s .prot h 0))

/-- R234, R249, R250: an allocation on the issuing core's die returns the handle of a slot that was free, now an object of the
tenant in its initial state, a barrier's with the slot's incarnation one more; FULL (7) when no slot is free, and FAULT (8) for
a bad init word. A free of an object with waiters or a holder returns BUSY (1), else the object is gone. -/
def Obligations.AllocationAndFreeing : Prop :=
  (∀ (s : State) (a d : Reg), Settled s.th [xr a] →
    let x := s.th.getX a
    let die := dieOfCore s.th.core
    let inc (h : Nat) := (incOf s h + 1) % 4096
    let made (t : State) (h : Nat) (k : Kind) (i : Nat) : Prop := Returns s t d (BitVec.ofNat 64 h) ∧ slotFree s h = true ∧
      (∃ o, t.obj h = some o ∧ o.tenant = s.tenant ∧ o.poison = false ∧ o.kind = k) ∧ incOf t h = i ∧
      ∀ g, g ≠ h → t.obj g = s.obj g
    (2 ^ 17 ≤ x.toNat ∨ x.toNat % 65536 = 0 → ∃ t, exec (.barAlloc a d) s = .next t ∧ Done s t (s.th.setX d 8)) ∧
    (slotRoom s die = false ∨ findSlot s die false = none →
      (∃ t, exec (.cntAlloc a d) s = .next t ∧ Done s t (s.th.setX d 7)) ∧
      (∃ t, exec (.mtxAlloc d) s = .next t ∧ Done s t (s.th.setX d 7))) ∧
    (slotRoom s die = false ∨ findSlot s die true = none → x.toNat < 2 ^ 17 → x.toNat % 65536 ≠ 0 →
      ∃ t, exec (.barAlloc a d) s = .next t ∧ Done s t (s.th.setX d 7)) ∧
    (∀ h, slotRoom s die = true → findSlot s die false = some h →
      (∃ t, exec (.cntAlloc a d) s = .next t ∧ made t h (.cnt x s.th.pts) (incOf s h)) ∧
      (∃ t, exec (.mtxAlloc d) s = .next t ∧ made t h (.mtx ⟨none, false, 0⟩) (incOf s h))) ∧
    (∀ h, slotRoom s die = true → findSlot s die true = some h → x.toNat < 2 ^ 17 → x.toNat % 65536 ≠ 0 →
      ∃ t, exec (.barAlloc a d) s = .next t ∧
        made t h (.bar ⟨inc h, false, x.getLsbD 16, x.toNat % 65536, 0, 0, [], 0⟩) (inc h))) ∧
  (∀ (i : Instr) (s : State) (a d : Reg) (k : HKind) (o : Obj),
    (i = .barFree a d ∧ k = .bar ∨ i = .cntFree a d ∧ k = .cnt ∨ i = .mtxFree a d ∧ k = .mtx) →
    Settled s.th [xr a] →
    let h := (s.th.getX a).toNat
    CanUse s h k o →
    let held := hasWaiters s h = true ∨ k = .mtx ∧ (s.mtx h).holder ≠ none
    (held → ∃ t, exec i s = .next t ∧ Done s t (s.th.setX d 1)) ∧
    (¬ held → ∃ t, exec i s = .next t ∧ Returns s t d 0 ∧ t.obj h = none ∧ ∀ g, g ≠ h → t.obj g = s.obj g))

/-- R250 to R252: the barrier forms on a barrier of the tenant, from its state and phase t = X[b][15:0]. -/
def Obligations.BarrierForms : Prop :=
  ∀ (s : State) (a b d : Reg) (o : Obj) (r : Bar), Settled s.th [xr a, xr b] → s.th.wait = .none →
    let h := (s.th.getX a).toNat
    let x := s.th.getX b
    let t := x.toNat % 65536
    let ahead := (r.phase + 65536 - t) % 65536
    let inc := (incOf s h + 1) % 4096
    let bad := 2 ^ 17 ≤ x.toNat ∨ x.toNat % 65536 = 0
    let flies := snapshotted s h ((r.inc + 1) % 4096) = true
    CanUse s h .bar o → o.kind = .bar r → o.poison = false →
    -- an arrival at another phase is discarded, and one at a broken barrier is not counted
    (t ≠ r.phase → ∀ i ∈ [Instr.barArr a b d, .barArrw a b d],
      ∃ s', exec i s = .next s' ∧ Returns s s' d 3 ∧ s'.bar h = some r) ∧
    (t = r.phase → r.brk = true → ∀ i ∈ [Instr.barArr a b d, .barArrw a b d],
      ∃ s', exec i s = .next s' ∧ Returns s s' d 2 ∧ s'.bar h = some r) ∧
    -- an arrival that does not complete the phase is counted
    (t = r.phase → r.brk = false → r.arr + 1 ≠ r.exp →
      ∃ s' q, exec (.barArr a b d) s = .next s' ∧ Returns s s' d 0 ∧ s'.bar h = some q ∧ q.arr = r.arr + 1 ∧
        q.phase = r.phase ∧ q.brk = false ∧ (∃ m ∈ q.members, m.tid = s.th.tid ∧ m.last = some t)) ∧
    (t = r.phase → r.brk = false → r.arr + 1 ≠ r.exp →
      ∃ s' q n, exec (.barArrw a b d) s = .next s' ∧ Waits s s' (.bar h t d.val n) ∧ s'.bar h = some q ∧ q.arr = r.arr + 1 ∧
        q.phase = r.phase ∧ (∃ m ∈ q.members, m.tid = s.th.tid ∧ m.last = some t)) ∧
    -- the waits
    (r.brk = true → ∃ s', exec (.barWait a b d) s = .next s' ∧ Returns s s' d 2) ∧
    (r.brk = false → 1 ≤ ahead → ahead ≤ 32767 →
      ∃ s', exec (.barWait a b d) s = .next s' ∧ Returns s s' d 0 ∧ s'.th.pts = max s.th.pts r.pts) ∧
    (r.brk = false → 32768 ≤ ahead → ∃ s', exec (.barWait a b d) s = .next s' ∧ Returns s s' d 3) ∧
    (r.brk = false → ahead = 0 → ∃ s' n, exec (.barWait a b d) s = .next s' ∧ Waits s s' (.bar h t d.val n)) ∧
    -- the initialisations
    (bad → ∀ i ∈ [Instr.barInit a b d, .barInitF a b d],
      ∃ s', exec i s = .next s' ∧ Returns s s' d 8 ∧ s'.bar h = some r) ∧
    (¬ bad → hasWaiters s h = true ∨ flies →
      ∃ s', exec (.barInit a b d) s = .next s' ∧ Returns s s' d 1 ∧ s'.bar h = some r) ∧
    (¬ bad → hasWaiters s h = false → ¬ flies → ∃ s', exec (.barInit a b d) s = .next s' ∧ Returns s s' d 0 ∧
      s'.bar h = some ⟨inc, false, x.getLsbD 16, x.toNat % 65536, 0, 0, [], 0⟩) ∧
    (¬ bad → ¬ flies → ∃ s', exec (.barInitF a b d) s = .next s' ∧ Returns s s' d 0 ∧
      s'.bar h = some ⟨inc, false, x.getLsbD 16, x.toNat % 65536, 0, 0, [], 0⟩ ∧
      ∀ (k : Nat) (u : Thread) (ph rd n : Nat), s.slots[k]? = some u → u.live = true → u.wait = .bar h ph rd n →
        ∃ v, s'.slots[k]? = some v ∧ Woken u v rd 2 r.pts) ∧
    (¬ flies → ∃ s', exec (.barKill a d) s = .next s' ∧ Returns s s' d 0 ∧
      s'.bar h = some { r with inc := inc, phase := (r.phase + 1) % 65536, brk := true, arr := 0 } ∧
      ∀ (k : Nat) (u : Thread) (ph rd n : Nat), s.slots[k]? = some u → u.live = true → u.wait = .bar h ph rd n →
        ∃ v, s'.slots[k]? = some v ∧ Woken u v rd 2 r.pts) ∧
    -- the state word
    (∃ s', exec (.barRd a d) s = .next s' ∧ Done s s' (s.th.setX d (BitVec.ofNat 64
      (r.inc % 4096 * 2 ^ 52 + (if r.brk then 2 ^ 51 else 0) + (if r.drop then 2 ^ 50 else 0) +
        (if hasWaiters s h then 2 ^ 49 else 0) + r.exp % 65536 * 2 ^ 32 + r.arr % 65536 * 2 ^ 16 + r.phase % 65536))))

/-- R251: the arrival that completes phase t releases every slot that waits for t with OK, advances the phase and counts the
ended members again with DROP; without DROP an ended member breaks the object, and then every other waiter is released with
BROKEN. The arriving thread gets OK. -/
def Obligations.BarrierPhaseCompletes : Prop :=
  ∀ (i : Instr) (s : State) (a b d : Reg) (o : Obj) (r : Bar), i = .barArr a b d ∨ i = .barArrw a b d →
    Settled s.th [xr a, xr b] → s.th.wait = .none →
    let h := (s.th.getX a).toNat
    CanUse s h .bar o → o.kind = .bar r → o.poison = false → r.phase < 65536 →
    (s.th.getX b).toNat % 65536 = r.phase → r.brk = false → r.arr + 1 = r.exp →
    let ts := max r.pts s.th.pts
    let ended := (barMember r.members s.th.tid r.phase).countP fun m => m.ended
    let breaks := r.drop = false ∧ 0 < ended
    ∃ s' q, exec i s = .next s' ∧ Returns s s' d 0 ∧ s'.bar h = some q ∧ q.phase = (r.phase + 1) % 65536 ∧
      q.arr = (if r.drop then ended else 0) ∧ (q.brk = true ↔ breaks) ∧
      (∀ (k : Nat) (u : Thread) (rd n : Nat), s.slots[k]? = some u → u.live = true → u.wait = .bar h r.phase rd n →
        ∃ v, s'.slots[k]? = some v ∧ Woken u v rd 0 ts) ∧
      (∀ (k : Nat) (u : Thread) (ph rd n : Nat), s.slots[k]? = some u → u.live = true → u.wait = .bar h ph rd n →
        ph ≠ r.phase → if breaks then ∃ v, s'.slots[k]? = some v ∧ Woken u v rd 2 ts else s'.slots[k]? = some u) ∧
      ∀ p ∈ s'.sync.parked, p.handle = h → p.phase ≠ r.phase

/-- A mutex that the current slot may lock: an object of its tenant, or a mutex line of a floe that its tenant reaches (R37,
R235, R255). -/
def MayLock (s : State) (h : Nat) : Prop :=
  (∃ o, CanUse s h .mtx o ∧ o.poison = false) ∨
    (isMutexLine h = true ∧ (∀ o, s.obj h = some o → o.poison = false ∧ o.kind.is .mtx = true) ∧
      ∃ f o, region h = .event f o ∧ s.reaches s.tenant f = true)

/-- R255: a free mutex is taken, with BROKEN (2) after an abandonment; `mtx.lock` of a held one gates the slot and `mtx.try`
returns BUSY (1); an unlock by the holder passes the mutex to the oldest request or frees it, and by another thread returns
FAULT (8). -/
def Obligations.MutexForms : Prop :=
  ∀ (s : State) (a d : Reg), Settled s.th [xr a] → s.th.wait = .none →
    let h := (s.th.getX a).toNat
    let m := s.mtx h
    MayLock s h →
    (m.holder = none → ∀ i ∈ [Instr.mtxLock a d, .mtxTry a d],
      ∃ t, exec i s = .next t ∧ Returns s t d (if m.aband then 2 else 0) ∧ t.mtx h = ⟨some s.th.tid, false, m.pts⟩ ∧
        t.th.pts = max s.th.pts m.pts) ∧
    (m.holder ≠ none → (∃ t n, exec (.mtxLock a d) s = .next t ∧ Waits s t (.mtx h d.val n) ∧ t.mtx h = m) ∧
      ∃ t, exec (.mtxTry a d) s = .next t ∧ Done s t (s.th.setX d 1)) ∧
    (m.holder ≠ some s.th.tid → ∃ t, exec (.mtxUnlock a d) s = .next t ∧ Returns s t d 8 ∧ t.mtx h = m) ∧
    (m.holder = some s.th.tid → (∀ u ∈ s.threads, ∀ rd n, u.wait ≠ .mtx h rd n) →
      ∃ t, exec (.mtxUnlock a d) s = .next t ∧ Returns s t d 0 ∧ t.mtx h = ⟨none, false, s.th.pts⟩) ∧
    (∀ (k : Nat) (u : Thread) (rd n : Nat), m.holder = some s.th.tid → s.slots[k]? = some u → u.live = true →
      u.wait = .mtx h rd n →
      (∀ w ∈ s.threads, w ≠ u → ∀ rd' n', w.live = true → w.wait = .mtx h rd' n' → n < n') →
      ∃ t v, exec (.mtxUnlock a d) s = .next t ∧ Returns s t d 0 ∧ t.mtx h = ⟨some u.tid, false, s.th.pts⟩ ∧
        t.slots[k]? = some v ∧ Woken u v rd 0 s.th.pts)

/-- R256: `cnt.init` sets the counter, `cnt.add` returns the old value and adds modulo 2^64, `cnt.rd` returns it, `cnt.wait`
completes at once or gates the slot; a changed counter releases exactly the waiters whose threshold it reaches. -/
def Obligations.CounterForms : Prop :=
  ∀ (s : State) (a b d : Reg) (o : Obj) (v : Word) (p : Nat), Settled s.th [xr a, xr b] → s.th.wait = .none →
    let h := (s.th.getX a).toNat
    CanUse s h .cnt o → o.kind = .cnt v p → o.poison = false →
    let set (t : State) (w : Word) (ts : Nat) : Prop := (t.cnt h).1 = w ∧
      ∀ (k : Nat) (u : Thread) (thr rd n : Nat), s.slots[k]? = some u → u.live = true → u.wait = .cnt h thr rd n →
        if thr ≤ w.toNat then ∃ x, t.slots[k]? = some x ∧ Woken u x rd 0 ts else t.slots[k]? = some u
    (∃ t, exec (.cntInit a b d) s = .next t ∧ Returns s t d 0 ∧ set t (s.th.getX b) s.th.pts) ∧
    (∃ t, exec (.cntAdd a b d) s = .next t ∧ Returns s t d v ∧ set t (v + s.th.getX b) (max p s.th.pts)) ∧
    (∃ t, exec (.cntRd a d) s = .next t ∧ Returns s t d v ∧ t.cnt h = (v, p) ∧ SameBytes s t) ∧
    (s.th.getX b ≤ v → ∃ t, exec (.cntWait a b d) s = .next t ∧ Returns s t d 0 ∧ t.cnt h = (v, p)) ∧
    (v < s.th.getX b → ∃ t n, exec (.cntWait a b d) s = .next t ∧ Waits s t (.cnt h (s.th.getX b).toNat d.val n))

/-- R257: `gbar` counts the thread's arrival at its launch's global barrier and gates it while a thread of the launch is
missing or the imbalance record waits for a page in transition; else the last arrival completes the phase and the thread gets
OK; an address that is not a multiple of 32 traps MISALIGN. -/
def Obligations.GlobalBarrier : Prop :=
  ∀ (s : State) (a d : Reg), Settled s.th [xr a] → s.th.wait = .none →
    let h := (s.th.getX a).toNat
    (h % 32 ≠ 0 → exec (.gbar a d) s = .next (trap s .misalign h 0)) ∧
    (h % 32 = 0 → s.launch s.th.lid = none → ∃ t, exec (.gbar a d) s = .next t ∧ Returns s t d 0) ∧
    (∀ l, h % 32 = 0 → s.launch s.th.lid = some l → gbarMissing s { l with garr := s.th.tid :: l.garr } = true →
      ∃ t n m, exec (.gbar a d) s = .next t ∧ Waits s t (.gbar l.gphase d.val n) ∧ t.launch s.th.lid = some m ∧
        m.gphase = l.gphase ∧ m.garr = s.th.tid :: l.garr) ∧
    (∀ l l', h % 32 = 0 → s.launch s.th.lid = some l → s.th.live = true →
      gbarMissing s { l with garr := s.th.tid :: l.garr } = false →
      let j := gbarJoin s d h l
      j.launch s.th.lid = some l' →
      (h = 0 ∨ gbarRecord j l' ≠ .wait → ∃ t m, exec (.gbar a d) s = .next t ∧
        Woken s.th t.th d.val 0 (max l.gpts s.th.pts) ∧ t.launch s.th.lid = some m ∧ m.gphase = l.gphase + 1 ∧
        m.garr = []) ∧
      (h ≠ 0 → gbarRecord j l' = .wait → ∃ t n m, exec (.gbar a d) s = .next t ∧ Waits s t (.gbar l.gphase d.val n) ∧
        t.launch s.th.lid = some m ∧ m.gphase = l.gphase ∧ m.garr = s.th.tid :: l.garr))

/-- R121 to R124, R128 to R133, R259 to R261: the rime forms on records of the tenant. -/
def Obligations.RimeForms : Prop :=
  (∀ (s : State) (a d : Reg), Settled s.th [xr a] →
    let v := (s.th.getX a).toNat
    let bad := rimeFmt (v / 2 ^ 16 % 16) = none ∨ v / 2 ^ 20 % 16 ≠ 0 ∨ v / 4 % 2 ^ 14 ≠ 0
    let die := dieOfCore s.th.core
    (bad → ∃ t, exec (.rimeAlloc a d) s = .next t ∧ Done s t (s.th.setX d 8)) ∧
    (¬ bad → findQuad s die = none → ∃ t, exec (.rimeAlloc a d) s = .next t ∧ Done s t (s.th.setX d 7)) ∧
    (∀ h f, ¬ bad → rimeFmt (v / 2 ^ 16 % 16) = some f → slotsUsed s die true + 4 ≤ 65536 → findQuad s die = some h →
      ∃ t r, exec (.rimeAlloc a d) s = .next t ∧ Returns s t d (BitVec.ofNat 64 h) ∧ t.rime h = some r ∧ r.fmt = f ∧
        r.tag = BitVec.ofNat 32 (v / 2 ^ 32) ∧ r.base = (BitVec.ofNat 8 (v / 2 ^ 24)).toInt ∧ r.en = decide (v % 2 = 1) ∧
        r.trap = decide (v / 2 % 2 = 1) ∧ r.stats = Stats.zero ∧ r.snap = 0)) ∧
  (∀ (s : State) (a b d : Reg) (o : Obj) (r : Rime), Settled s.th [xr a, xr b] →
    let h := (s.th.getX a).toNat
    let x := (s.th.getX b).toNat
    let base := x / 2 ^ 16 * 2 ^ 16
    let len := (x % 2 ^ 16 + 1) * 65536
    let clash := ∃ e ∈ s.sync.binds, e.base < base + len ∧ base < e.base + e.len
    CanUse s h .rime o → o.kind = .rime r → o.poison = false →
    -- bind and unbind
    (0x00F0000000000000 < base + len → ∃ t, exec (.rimeBind a b d) s = .next t ∧ Done s t (s.th.setX d 8)) ∧
    (base + len ≤ 0x00F0000000000000 → clash → ∃ t, exec (.rimeBind a b d) s = .next t ∧ Done s t (s.th.setX d 1)) ∧
    (base + len ≤ 0x00F0000000000000 → ¬ clash → 1024 ≤ s.sync.binds.length →
      ∃ t, exec (.rimeBind a b d) s = .next t ∧ Done s t (s.th.setX d 7)) ∧
    (base + len ≤ 0x00F0000000000000 → ¬ clash → s.sync.binds.length < 1024 →
      ∃ t, exec (.rimeBind a b d) s = .next t ∧ Returns s t d 0 ∧ SameBytes s t ∧
        t.sync.binds = ⟨h, base, len, s.th.rimewin⟩ :: s.sync.binds ∧
        ∀ l ∈ t.mem.lines, base ≤ l.line * 256 → l.line * 256 < base + len → l.owner = none) ∧
    ((∃ e ∈ s.sync.binds, e.handle = h ∧ e.base = base ∧ e.len = len) →
      ∃ t, exec (.rimeUnbind a b d) s = .next t ∧ Returns s t d 0 ∧
        (∀ e, e ∈ t.sync.binds ↔ e ∈ s.sync.binds ∧ ¬ (e.handle = h ∧ e.base = base ∧ e.len = len)) ∧
        ∀ k : Fin 4, ∀ p ∈ t.sync.dies[k].partials, p.1 ≠ h) ∧
    ((∀ e ∈ s.sync.binds, ¬ (e.handle = h ∧ e.base = base ∧ e.len = len)) →
      ∃ t, exec (.rimeUnbind a b d) s = .next t ∧ Done s t (s.th.setX d 8)) ∧
    -- sync, read, clear, free
    (∃ t q, exec (.rimeSync a d) s = .next t ∧ Returns s t d (if r.lost then 4 else 0) ∧ t.rime h = some q ∧
      q.snap = q.stats.amax ∧ ∀ k : Fin 4, ∀ p ∈ t.sync.dies[k].partials, p.1 ≠ h) ∧
    (x % 8 ≠ 0 → exec (.rimeRd a b d) s = .next (trap s .misalign ((h + x) % 2 ^ 64) 0)) ∧
    (x % 8 = 0 → 256 < x → exec (.rimeRd a b d) s = .next (trap s .prot ((h + x) % 2 ^ 64) 0)) ∧
    (x = 256 → ∃ t, exec (.rimeRd a b d) s = .next t ∧ Done s t (s.th.setX d (BitVec.ofNat 64 r.snap))) ∧
    (x % 8 = 0 → x < 256 → ∃ t, exec (.rimeRd a b d) s = .next t ∧
      Done s t (s.th.setX d (BitVec.ofNat 64 (r.word / 2 ^ (8 * x))))) ∧
    (∃ t q, exec (.rimeClr a d) s = .next t ∧ Returns s t d 0 ∧ t.rime h = some q ∧ q.stats = Stats.zero ∧
      q.ftime = 0 ∧ q.fseq = 0 ∧ q.snap = r.snap ∧ q.fmt = r.fmt ∧ q.tag = r.tag ∧ q.base = r.base ∧ q.en = r.en ∧
      ∀ k : Fin 4, ∀ p ∈ t.sync.dies[k].partials, p.1 ≠ h) ∧
    ((∃ e ∈ s.sync.binds, e.handle = h) → ∃ t, exec (.rimeFree a d) s = .next t ∧ Done s t (s.th.setX d 1)) ∧
    ((∀ e ∈ s.sync.binds, e.handle ≠ h) → ∃ t, exec (.rimeFree a d) s = .next t ∧ Returns s t d 0 ∧ t.obj h = none ∧
      ∀ k : Fin 4, ∀ p ∈ t.sync.dies[k].partials, p.1 ≠ h))

/-! ### Engines -/

/-- R236, R238, R242 to R245: the matrix and ring forms; what they queue changes no byte where no trace records it. -/
def Obligations.MatrixAndRingForms : Prop :=
  -- mx.cfg
  (∀ (s : State) (a : Reg), Settled s.th [xr a] →
    (∃ t, exec (.mxCfg a 0) s = .next t ∧ Done s t { s.th with mxshape := s.th.getX a }) ∧
    ∃ t, exec (.mxCfg a 1) s = .next t ∧ Done s t { s.th with mxdstr := s.th.getX a }) ∧
  -- mx.task: the count and alignment, and one record
  (∀ (s : State) (a b d : Reg), Settled s.th [xr a, xr b] → s.th.hold = none →
    let e := (s.th.getX a).toNat
    let c := (s.th.getX b).toNat
    let f := floeOfCore s.th.core
    (e % 32 ≠ 0 → exec (.mxTask a b d) s = .next (trap s .misalign e 0)) ∧
    (e % 32 = 0 → c < 1 ∨ 64 < c → exec (.mxTask a b d) s = .next (trap s .prot 0 c)) ∧
    (∀ key cls, c = 1 → CanAccess s .rd e 32 key cls →
      let r := BitVec.ofNat 256 (sees s e key 32 cls)
      Quiet s →
      (checkTask (s.floe f) s.th.enc s.th.mxshape s.th.mxdstr r = none →
        ∃ t, exec (.mxTask a b d) s = .next t ∧ Returns s t d 8 ∧ t.floe f = s.floe f) ∧
      (∀ v, checkTask (s.floe f) s.th.enc s.th.mxshape s.th.mxdstr r = some v → queueLen (s.floe f) < 64 →
        ∃ t k, exec (.mxTask a b d) s = .next t ∧ Returns s t d 256 ∧ SameBytes s t ∧
          (t.floe f).tasks = (s.floe f).tasks ++ [k] ∧ k.desc = r ∧ k.zero = false ∧ k.shape = s.th.mxshape ∧
          k.stride = s.th.mxdstr ∧ k.run = .queued ∧ k.by_.tid = s.th.tid))) ∧
  -- mx.zero
  (∀ (s : State) (a d : Reg), Settled s.th [xr a] → s.th.hold = none →
    let v := (s.th.getX a).toNat
    let f := floeOfCore s.th.core
    let tiles := (List.range 16).filter fun k => v / 2 ^ k % 2 = 1
    (65536 ≤ v → ∃ t, exec (.mxZero a d) s = .next t ∧ Done s t (s.th.setX d 8)) ∧
    (v < 65536 → queueLen (s.floe f) + tiles.length ≤ 64 → Quiet s →
      ∃ t l, exec (.mxZero a d) s = .next t ∧ Returns s t d 0 ∧ SameBytes s t ∧
        (t.floe f).tasks = (s.floe f).tasks ++ l ∧ l.map Task.acc = tiles ∧
        ∀ k ∈ l, k.zero = true ∧ k.run = .queued ∧ k.by_.tid = s.th.tid)) ∧
  -- mx.wait
  (∀ (s : State) (a d : Reg), Settled s.th [xr a] →
    let mask := (s.th.getX a).toNat % 65536
    let hit (k : Nat) : Prop := mask = 0 ∨ mask / 2 ^ k % 2 = 1
    let mine := ∃ k ∈ (s.floe (floeOfCore s.th.core)).tasks, k.by_.tid = s.th.tid ∧ hit k.acc
    ((∀ r ∈ s.th.fails, ∀ k, r.tile = some k → ¬ hit k) →
      (mine → ∃ t, exec (.mxWait a d) s = .next t ∧ Gated s t .poll) ∧
      (¬ mine → ∃ t, exec (.mxWait a d) s = .next t ∧ Returns s t d 0 ∧
        ∀ p ∈ s.th.mxTe, hit p.1 → p.2 ≤ t.th.pts)) ∧
    (∀ r k rest, s.th.fails = r :: rest → r.tile = some k → hit k →
      exec (.mxWait a d) s = .next (trap { s with th := { s.th with fails := rest } } .engine r.addr
        (r.corr % 2 ^ 32 + r.status * 2 ^ 32 + r.folded * 2 ^ 40)))) ∧
  -- the rings
  (∀ (s : State) (a d : Reg) (n : Fin 16), Settled s.th [xr a] →
    let f := floeOfCore s.th.core
    let w := s.th.getX a
    let r := (s.floe f).ring n.val
    (ringWordOk w.toNat = false → exec (.ringCfg a n) s = .next (trap s .prot 0 w.toNat)) ∧
    (ringWordOk w.toNat = true → ringUsed (s.floe f) n.val = true →
      ∃ t, exec (.ringCfg a n) s = .next t ∧ Gated s t .poll) ∧
    (ringWordOk w.toNat = true → ringUsed (s.floe f) n.val = false →
      ∃ t, exec (.ringCfg a n) s = .next t ∧ IssueOnly s.th t.th ∧ GoesOn s t ∧
        (t.floe f).ring n.val = ⟨true, 0, 0, 0, w, []⟩) ∧
    (∃ t, exec (.ringSt n d) s = .next t ∧ Done s t (s.th.setX d (BitVec.ofNat 64
      ((if r.cfgd then 2 ^ 63 else 0) + r.claim % 65536 * 2 ^ 32 + r.tail % 65536 * 2 ^ 16 + r.head % 65536)))) ∧
    (ringUsed (s.floe f) n.val = true → ∃ t, exec (.ringReset n d) s = .next t ∧ Done s t (s.th.setX d 1)) ∧
    (ringUsed (s.floe f) n.val = false → ∃ t, exec (.ringReset n d) s = .next t ∧ Returns s t d 0 ∧
      (t.floe f).ring n.val = { r with claim := 0, tail := 0, head := 0, marks := [] }))

/-- R71, R236, R246 to R248: the copy-engine forms; what they queue changes no byte where no trace records it. -/
def Obligations.CopyForms : Prop :=
  (∀ (s : State) (a : Reg) (k : Fin 8), Settled s.th [xr a] → k.val < 7 →
    ∃ t, exec (.cpSet a k) s = .next t ∧ (∀ j : Fin 7, t.th.cp[j] = if j.val = k.val then s.th.getX a else s.th.cp[j]) ∧
      Done s t { s.th with cp := t.th.cp }) ∧
  (∀ (s : State) (d : Reg) (k : Fin 8),
    (∀ j : Fin 7, j.val = k.val → ∃ t, exec (.cpGet d k) s = .next t ∧ Done s t (s.th.setX d s.th.cp[j])) ∧
    (k = 7 → ∃ t, exec (.cpGet d k) s = .next t ∧ Done s t (s.th.setX d (BitVec.ofNat 64
      (s.th.cpCorr.toNat * 2 ^ 32 + copiesOf s s.th % 256 * 2 ^ 8 + (if s.th.cpStale then 2 ^ 4 else 0) +
        s.th.cpStatus % 16))))) ∧
  (∀ (s : State) (a b : Reg), Settled s.th [xr a, xr b] →
    let f := floeOfCore s.th.core
    let h := s.th.cp[5].toNat
    (h = 0 ∨ ∃ o, CanUse s h .bar o) →
    (32 ≤ (s.floe f).copies.length → ∃ t, exec (.cpGo a b) s = .next t ∧ Gated s t .poll) ∧
    ((s.floe f).copies.length < 32 → Quiet s →
      ∃ t c, exec (.cpGo a b) s = .next t ∧ IssueOnly s.th t.th ∧ GoesOn s t ∧ SameBytes s t ∧
        (t.floe f).copies = (s.floe f).copies ++ [c] ∧ c.regs = s.th.cp ∧ c.src = s.th.getX a ∧ c.dst = s.th.getX b ∧
        c.run = false ∧ c.status = none ∧ c.by_.tid = s.th.tid ∧ (∀ r, s.bar h = some r → c.inc = r.inc))) ∧
  (∀ (s : State) (d : Reg), (∀ r ∈ s.th.fails, r.tile ≠ none) →
    (0 < copiesOf s s.th → ∃ t, exec (.cpWait d) s = .next t ∧ Gated s t .poll) ∧
    (copiesOf s s.th = 0 → s.th.cpStale = false →
      ∃ t, exec (.cpWait d) s = .next t ∧ Done s t { s.th.setX d 0 with pts := max s.th.pts s.th.cpTe }) ∧
    (copiesOf s s.th = 0 → s.th.cpStale = true →
      ∃ t, exec (.cpWait d) s = .next t ∧
        Done s t { s.th.setX d 3 with pts := max s.th.pts s.th.cpTe, cpStale := false }))

/-- The forms that only a communication master may issue (R262): sources. -/
def masterTable (i : Instr) : Option (List Reg) :=
  match i with
  | .collGo a _ | .collAbort a _ | .grpClr a _ | .mcLdred a _ | .aucRun a _ | .aucPclr a _ => some [a]
  | .collStx a b _ | .grpSet a b _ | .aucPset a b _ => some [a, b]
  | .collTake _ => some []
  | _ => none

/-- The forms that wait for a block, descriptor or run: kind, address register, destination, alignment and the byte that
holds the status (R275, R285). -/
def fabWaitTable (i : Instr) : Option (Nat × Reg × Reg × Nat × Nat) :=
  match i with
  | .collWait a d => some (0, a, d, 128, 96)
  | .collWaitMc a d => some (1, a, d, 64, 48)
  | .aucWait a d => some (2, a, d, 64, 58)
  | _ => none

/-- Whether an operation of a kind is in flight at an address for the tenant (R273, R282). -/
def flying (s : State) (kind e : Nat) : Prop :=
  if kind = 2 then ∃ r ∈ s.fab.runs, r.addr = e ∧ r.by_.tenant = s.tenant
  else ∃ o ∈ s.fab.ops, o.addr = e ∧ o.mc = decide (kind = 1) ∧ o.by_.tenant = s.tenant

/-- The engine operation of an acceptance, which writes BUSY, goes through (R264, R273). -/
def accepts (s : State) (o : FabOp) (a : Nat) (busy : List Byte) : Prop :=
  let dst := [(a, busy.length)]
  ∃ s2 te, engineOp (noteRows (settleRows s dst) o.by_.lid dst) o.by_.core o.by_.tenant o.by_.ti [] dst (fun _ => busy) =
    .done s2 te

/-- An operation has been accepted with OK (R273), a block with its number among its member's blocks on the group (R272). -/
def Queued (s t : State) (d : Reg) (e : Nat) (mc : Bool) (block : BitVec 1024) : Prop :=
  Returns s t d 0 ∧ ∃ p, t.fab.ops = s.fab.ops ++ [p] ∧ p.addr = e ∧ p.mc = mc ∧ p.block = block ∧ p.stage = .issued ∧
    p.status = none ∧ p.by_.tid = s.th.tid ∧
    (mc = false → ∀ g, s.group p.group = some g → p.num = (look g.counts (floeOfCore s.th.core)).getD 0)

/-- No debug module watches the current slot's core (R336). -/
def Unwatched (s : State) : Prop := ∀ q ∈ s.host.dbg, q.core ≠ s.th.core

/-- A load of `n` pieces of `sz` bytes passes its checks (R183). -/
def Passes (s : State) (a sz n : Nat) : Prop := ∀ k, checkPieces s a sz n k = k

/-- R262 to R266, R273, R275, R276: only core 0 of a floe issues the master forms; `coll.go`, `coll.stx` and `mc.ldred` queue a
well-formed block that is not in flight; a wait is gated while its operation flies and then returns its status field;
`coll.abort` of an operation in flight returns OK and else FAULT; `coll.req` puts a word in the mailbox, which `coll.take`
returns, and an empty mailbox is waited for. -/
def Obligations.CollectiveForms : Prop :=
  (∀ (i : Instr) (s : State) (rs : List Reg), masterTable i = some rs → Settled s.th (rs.map xr) →
    coreInFloe s.th.core ≠ 0 → exec i s = .next (trap s .priv 0 0)) ∧
  -- coll.go and coll.stx
  (∀ (s : State) (a b d : Reg) (stx : Bool), Settled s.th [xr a, xr b] → coreInFloe s.th.core = 0 →
    let e := (s.th.getX a).toNat
    let map := if stx then some (s.th.getX b).toNat else none
    let s0 := fenceRel s .sys
    let l1 := loadPieces s0 e 128 1
    let blk := BitVec.ofNat 1024 (l1.1.headD 0)
    let v := collView blk
    let m := mapOperand v map
    let n := if v.op = 5 ∧ v.vtab ≠ 0 ∧ v.vtab % 16 = 0 then v.nranks else 0
    let l2 := match m with
      | some m => loadPieces l1.2 m 64 1
      | none => ([], l1.2)
    let sm := BitVec.ofNat 512 (l2.1.headD 0)
    let l3 := if v.op = 5 then loadPieces l2.2 v.vtab 16 n else ([], l2.2)
    let vt := l3.1.map fun x => vtabEntry (BitVec.ofNat 128 x)
    let ms := s.members v.group
    e % 128 = 0 → (map.getD 0) % 64 = 0 → Passes s e 128 1 → peek s e 128 = l1.1.headD 0 →
    loadMeets s (m.getD 0) 64 m.toList.length = [] → loadMeets s v.vtab 16 n = [] → Unwatched s →
    (v.done = 0 ∨ ∃ o, CanUse s v.done .bar o) →
    ¬ flying s 0 e → (stx = true → v.op = 6) → (v.op = 6 → m ≠ none) →
    collBad blk sm vt ms s.ownNode (floeOfCore s.th.core) = false → s.fab.ops.length < 256 →
    accepts l3.2 (newOp l3.2 e false v.corr blk sm vt ms v.done) (e + 96) (hwField 1 0) →
    ∃ t, exec (if stx then .collStx a b d else .collGo a d) s = .next t ∧ Queued s t d e false blk) ∧
  -- mc.ldred
  (∀ (s : State) (a d : Reg), Settled s.th [xr a] → coreInFloe s.th.core = 0 →
    let e := (s.th.getX a).toNat
    let l := loadPieces (fenceRel s .sys) e 64 1
    let blk := BitVec.ofNat 1024 (l.1.headD 0)
    let v := mcView blk
    e % 64 = 0 → Passes s e 64 1 → peek s e 64 = l.1.headD 0 → (v.done = 0 ∨ ∃ o, CanUse s v.done .bar o) →
    ¬ flying s 1 e → mcBad blk (s.members v.group) = false → s.fab.ops.length < 256 →
    accepts l.2 (newOp l.2 e true v.corr blk 0 [] (s.members v.group) v.done) (e + 48) (leBytes 2 1) →
    ∃ t, exec (.mcLdred a d) s = .next t ∧ Queued s t d e true blk) ∧
  -- waits
  (∀ (i : Instr) (s : State) (kind al off : Nat) (a d : Reg), fabWaitTable i = some (kind, a, d, al, off) →
    Settled s.th [xr a] →
    let e := (s.th.getX a).toNat
    (e % al ≠ 0 → exec i s = .next (trap s .misalign e 0)) ∧
    (e % al = 0 → flying s kind e → ∃ t, exec i s = .next t ∧ Gated s t (.fab kind e d.val)) ∧
    (∀ key cls, e % al = 0 → ¬ flying s kind e → CanAccess s .rd (e + off) 1 key cls →
      ∃ t, exec i s = .next t ∧ SameMemory s t ∧ Returns s t d (BitVec.ofNat 64 (sees s (e + off) key 1 cls % 16)))) ∧
  -- coll.abort
  (∀ (s : State) (a d : Reg), Settled s.th [xr a] → coreInFloe s.th.core = 0 →
    let e := (s.th.getX a).toNat
    (flying s 0 e ∨ flying s 1 e → ∃ t, exec (.collAbort a d) s = .next t ∧ Returns s t d 0) ∧
    (¬ flying s 0 e → ¬ flying s 1 e → ∃ t, exec (.collAbort a d) s = .next t ∧ Done s t (s.th.setX d 8))) ∧
  -- the mailbox
  (∀ (s : State) (a d : Reg), Settled s.th [xr a] → s.th.wait = .none →
    let f := floeOfCore s.th.core
    let v := s.th.getX a
    let bad := v.toNat % 8 = 0 ∨ 6 ≤ v.toNat % 8 ∨ v.toNat / 8 % 8 ≠ 0 ∨ v.toNat / 2 ^ 57 ≠ 0
    s.tenantOf (coreOfFloe f 0) = s.tenant → (∃ c, s.tenantCfg s.tenant = some c ∧ holdsCore c (coreOfFloe f 0) = true) →
    (bad → ∃ t, exec (.collReq a d) s = .next t ∧ Returns s t d 8) ∧
    (¬ bad → 8 ≤ (s.floe f).mail.length → ∃ t, exec (.collReq a d) s = .next t ∧ Returns s t d 7) ∧
    (¬ bad → (s.floe f).mail.length < 8 → taker s f s.th.lid = none →
      ∃ t, exec (.collReq a d) s = .next t ∧ Returns s t d 0 ∧ (t.floe f).mail = (s.floe f).mail ++
        [⟨v + BitVec.ofNat 64 (8 * coreInFloe s.th.core), s.th.pts, s.th.lid⟩])) ∧
  (∀ (s : State) (d : Reg), coreInFloe s.th.core = 0 →
    let f := floeOfCore s.th.core
    ((∀ m ∈ (s.floe f).mail, m.lid ≠ s.th.lid) →
      ∃ t n, exec (.collTake d) s = .next t ∧ Waits s t (.take d.val n)) ∧
    (∀ m rest, (s.floe f).mail = m :: rest → m.lid = s.th.lid →
      ∃ t, exec (.collTake d) s = .next t ∧ Returns s t d m.word ∧ (t.floe f).mail = rest ∧ m.pts ≤ t.th.pts))

/-- A price form of the current slot is performed now (R286, R344): it finds no run and no earlier form on its bank as it
arrives, or it has waited and its turn has come. -/
def HasTurn (s : State) (bank : Nat) : Prop :=
  (formOf s (.inl s.th.tid) = none ∧ bankBusy s bank = false ∧ formsOn s bank = []) ∨
    ∃ f, formOf s (.inl s.th.tid) = some f ∧ formFirst s f = true

/-- R267, R268, R282, R283, R286, R344: `grp.set` installs a good list of a group in the tenant's range and `grp.clr` empties
it, at a coordinator of this package; `auc.run` queues a good run block; `auc.pset` and `auc.pget` move 32-bit prices between
memory and the tenant's bank, and `auc.pclr` clears it, each in its turn among the forms on the bank; a form that finds a run on
its bank as it arrives is BUSY; a bad selector is FAULT. -/
def Obligations.GroupAndRouterForms : Prop :=
  (∀ (s : State) (a b d : Reg) (c : TenantCfg), Settled s.th [xr a, xr b] → coreInFloe s.th.core = 0 →
    s.tenantCfg s.tenant = some c →
    let v := (s.th.getX a).toNat
    let e := (s.th.getX b).toNat
    let g := v % 256
    let n := v / 2 ^ 16 % 2 ^ 16
    let ours := c.gFirst ≤ g ∧ g < c.gFirst + c.gCount
    (e % 16 ≠ 0 → exec (.grpSet a b d) s = .next (trap s .misalign e 0)) ∧
    (¬ ours → (e % 16 = 0 → exec (.grpSet a b d) s = .next (trap s .prot 0 g)) ∧
      exec (.grpClr a d) s = .next (trap s .prot 0 g)) ∧
    (∀ (l : List Member) (m : Member), ours → e % 16 = 0 → v / 256 % 256 = 0 → v / 2 ^ 32 = 0 → 1 ≤ n → n ≤ 1024 →
      loadMeets s e 16 n = [] → Unwatched s → (loadPieces s e 16 n).1.mapM memberOf = some l → dupMember (namedBy s.node l) = false →
      groupBusy s g = false → l.head? = some m → s.ownNode m.node = true →
      ∃ t, exec (.grpSet a b d) s = .next t ∧ Returns s t d 0 ∧ t.members g = l) ∧
    (ours → groupBusy s g = true → ∃ t, exec (.grpClr a d) s = .next t ∧ Done s t (s.th.setX d 1)) ∧
    (ours → groupBusy s g = false → (∀ m, (s.members g).head? = some m → s.ownNode m.node = true) →
      ∃ t, exec (.grpClr a d) s = .next t ∧ Returns s t d 0 ∧ t.members g = [])) ∧
  (∀ (s : State) (a d : Reg), Settled s.th [xr a] → coreInFloe s.th.core = 0 →
    let e := (s.th.getX a).toNat
    let l := loadPieces (fenceRel s .sys) e 64 1
    let blk := BitVec.ofNat 512 (l.1.headD 0)
    let s1 := noteRows (settleRows l.2 [(e + 58, 1)]) s.th.lid [(e + 58, 1)]
    let busy : List Byte := leBytes 1 (1 + blk.toNat / 2 ^ 468 % 16 * 16)
    e % 64 = 0 → Passes s e 64 1 → peek s e 64 = l.1.headD 0 →
    ((runView blk).done = 0 ∨ ∃ o, CanUse s (runView blk).done .bar o) →
    runBad blk s.tenant = false → ¬ flying s 2 e → s.fab.runs.length < 64 →
    (∃ s2 te, engineOp s1 s.th.core s.tenant l.2.th.pts [] [(e + 58, 1)] (fun _ => busy) = .done s2 te) →
    ∃ t r, exec (.aucRun a d) s = .next t ∧ Returns s t d 0 ∧ t.fab.runs = s.fab.runs ++ [r] ∧ r.addr = e ∧ r.block = blk ∧
      r.by_.tid = s.th.tid) ∧
  (∀ (s : State) (a b d : Reg), Settled s.th [xr a, xr b] →
    let v := (s.th.getX a).toNat
    let e := (s.th.getX b).toNat
    let bank := s.tenant * 4 + v / 2 ^ 32 % 4
    let f := v / 2 ^ 16 % 2 ^ 10
    let c := v % 2 ^ 11
    let good := v / 2 ^ 34 = 0 ∧ v / 2 ^ 26 % 2 ^ 6 = 0 ∧ v / 2 ^ 11 % 2 ^ 5 = 0 ∧ 1 ≤ c ∧ c ≤ 1024 ∧ f + c ≤ 1024
    let both (i : Instr) : Prop := i = .aucPset a b d ∧ coreInFloe s.th.core = 0 ∨ i = .aucPget a b d
    (∀ i, both i → ¬ good → ∃ t, exec i s = .next t ∧ Done s t (s.th.setX d 8)) ∧
    (∀ i, both i → good → e % 4 ≠ 0 → ∃ t, exec i s = .next t ∧ Returns s t d 8) ∧
    (∀ i, both i → good → e % 4 = 0 → formOf s (.inl s.th.tid) = none → bankBusy s bank = true →
      ∃ t, exec i s = .next t ∧ Returns s t d 1) ∧
    (∀ i, both i → good → e % 4 = 0 → formOf s (.inl s.th.tid) = none → bankBusy s bank = false → formsOn s bank ≠ [] →
      exec i s = .next (poll (joinForms s bank (.inl s.th.tid)))) ∧
    (∀ l, coreInFloe s.th.core = 0 → good → e % 4 = 0 → HasTurn s bank → (s.bank bank).poison = false →
      spansList (settleRows s [(e, 4 * c)]) s.th.core s.tenant .rd [(e, 4 * c)] = .ok l →
      let bs := engineRead (settleRows s [(e, 4 * c)]) l
      ∃ t, exec (.aucPset a b d) s = .next t ∧ Returns s t d 0 ∧ ∀ j, (t.bank bank).price (f + j) =
        if j < c then (BitVec.ofNat 32 (leNat ((bs.drop (4 * j)).take 4))).toInt else (s.bank bank).price (f + j)) ∧
    (∀ s2 te, good → e % 4 = 0 → HasTurn s bank → (s.bank bank).poison = false →
      engineOp (settleRows (noteForm s e c) [(e, 4 * c)]) s.th.core s.tenant s.th.pts [] [(e, 4 * c)]
        (fun _ => (List.range c).flatMap fun j => leBytes 4 (BitVec.ofInt 32 ((s.bank bank).price (f + j))).toNat) =
        .done s2 te →
      ∃ t, exec (.aucPget a b d) s = .next t ∧ Returns s t d 0 ∧ t.mem.bytes = s2.mem.bytes)) ∧
  (∀ (s : State) (a d : Reg), Settled s.th [xr a] → coreInFloe s.th.core = 0 →
    let v := (s.th.getX a).toNat
    let bank := s.tenant * 4 + v
    (4 ≤ v → ∃ t, exec (.aucPclr a d) s = .next t ∧ Done s t (s.th.setX d 8)) ∧
    (v < 4 → formOf s (.inl s.th.tid) = none → bankBusy s bank = true →
      ∃ t, exec (.aucPclr a d) s = .next t ∧ Done s t (s.th.setX d 1)) ∧
    (v < 4 → formOf s (.inl s.th.tid) = none → bankBusy s bank = false → formsOn s bank ≠ [] →
      exec (.aucPclr a d) s = .next (poll (joinForms s bank (.inl s.th.tid)))) ∧
    (v < 4 → HasTurn s bank → ∃ t, exec (.aucPclr a d) s = .next t ∧ Returns s t d 0 ∧
      ∀ j, (t.bank bank).price j = 0))

/-! ### Steps of other agents: the host link, start-up, time -/

/-- An error log writes records: it owes no loss record and has room (R371). -/
def LogRoom (s : State) (g : Fin 5) : Prop :=
  s.host.logs[g].lost = 0 ∧ s.host.logs[g].prod < s.host.logs[g].cons + 4096

/-- One record has entered an error log (R371). -/
def Logged (s t : State) (g : Fin 5) : Prop :=
  t.host.logs[g] = { s.host.logs[g] with prod := (s.host.logs[g].prod + 1) % 2 ^ 64 }

/-- R323, R332, R333, R334, R383: start-up. Power-on and a device reset leave every field at its reset value but the count of the
one-time-programmable bank (the model's own queue of turns and count of free values go on: log entry 4); BOOTLEN counts attempts
and starts the verification; a good image starts Chirnaore with the configuration it brings and a new boot key, or ends in state
6; a bad one gives state 2 or 3; BAR2 takes writes until Chirnaore runs. -/
def StartUp : Prop :=
  (∀ s : State,
    let s0 : State := { State.reset with
      turns := s.turns, fresh := s.fresh, host := { HostSys.reset with otp := s.host.otp } }
    exec .powerOn s = .next s0 ∧ exec .deviceReset s = .next s0) ∧
  (∀ s : State, s.host.boot ≠ 0x80 → s.host.boot ≠ 1 →
    let v := s.input.value.toNat
    ∃ t, exec .bootlen s = .next t ∧ t = { s with host := t.host } ∧ t.host.bootlen = v ∧
      (8 ≤ s.host.tries → t.host.boot = 5 ∧ t.host.tries = s.host.tries) ∧
      (s.host.tries < 8 → 0x1000000 < v → t.host.boot = 4 ∧ t.host.tries = s.host.tries + 1) ∧
      (s.host.tries < 8 → v ≤ 0x1000000 → t.host.boot = 1 ∧ t.host.tries = s.host.tries)) ∧
  (∀ s : State, s.host.boot = 1 →
    (∀ c, imageError (bootImage s) = none → s.input.boot = .accepted c →
      ∃ t, exec .imageVerification s = .next t ∧ t.host.boot = 0x80 ∧ t.host.ver = c.ver ∧
        t.host.cfg = some c ∧ t.lp.tenants = tenantTable [] c.tenants ∧ t.mem.root = c.root ∧
        t.mem.firn = min 128 c.firnGiB * 2 ^ 30 ∧ t.fab.banks = [] ∧ t.host.attUsed = 0 ∧
        (s.host.otp < 2 ^ 20 → t.host.attCert = some s.host.otp ∧ t.host.otp = s.host.otp + 1) ∧
        (2 ^ 20 ≤ s.host.otp → t.host.attCert = none ∧ t.host.otp = s.host.otp) ∧ t.th = s.th ∧ SameBytes s t) ∧
    (∀ n, imageError (bootImage s) = some n ∨ (imageError (bootImage s) = none ∧ s.input.boot = .training ∧ n = 6) →
      ∃ t, exec .imageVerification s = .next t ∧ t = { s with host := t.host } ∧ t.host.boot = n ∧
        t.host.tries = min 8 (s.host.tries + 1))) ∧
  (∀ img : List Byte,
    let key := (img.drop (img.length - 2724)).take 56
    (img.length < 2724 ∨ sha256 key ≠ beBytes 32 Config.fuseHash.toNat → imageError img = some 2) ∧
    (∀ n, imageError img = some n → n = 2 ∨ n = 3) ∧
    (imageError img = none → sha256 key = beBytes 32 Config.fuseHash.toNat ∧
      lmsOk key ((img.drop (img.length - 2668)).take 2668) (img.take (img.length - 2668)) = true)) ∧
  (∀ s : State, s.host.linkUp = true → s.input.off + s.input.bytes.length ≤ 0x1000000 →
    (s.host.boot = 0x80 → exec .bootStagingWrite s = .next s) ∧
    (s.host.boot ≠ 0x80 → Memory.wf s.host.staging →
      ∃ t, exec .bootStagingWrite s = .next t ∧ t = { s with host := { s.host with staging := t.host.staging } } ∧
        ∀ k, Memory.get t.host.staging k =
          if s.input.off ≤ k ∧ k < s.input.off + s.input.bytes.length then s.input.bytes.getD (k - s.input.off) 0
          else Memory.get s.host.staging k))

/-- R93, R94, R324, R325, R383, R385: the link goes down and up, each logged in the moraine die's log; a host write through the
aperture to checked bytes of one sector stores them at their L2 home, waits while a collective has still to read one of them, or
aborts, and a read returns what is stored and its poison; BAR0 offsets 0 and 0x100 read as BOOTSTAT and TIMESTAT; a register
write sets the register, and an offset without one is ignored. -/
def HostAccesses : Prop :=
  (∀ s : State, LogRoom s 4 →
    (s.host.linkUp = true → ∃ t, exec .hostLinkDown s = .next t ∧ t.host.linkUp = false ∧ Logged s t 4 ∧ t.th = s.th) ∧
    (s.host.linkUp = false → ∃ t, exec .hostLinkUp s = .next t ∧ t.host.linkUp = true ∧ Logged s t 4 ∧ t.th = s.th)) ∧
  (∀ (s : State) (a key k0 n : Nat) (cls c0 : Cls), s.host.linkUp = true → a = apertureAddr s s.input.off →
    1 ≤ n → a % 128 + n ≤ 128 → s.input.off + n ≤ 2 ^ 39 →
    let s1 := bringRange s a n .hd
    (n = s.input.bytes.length → s.host.ckptState ≠ 1 → Memory.wf s1.mem.bytes → leasedTo s 0 a n = false →
      hostAccess s true a = some (.ok k0 c0) → hostAccess s1 true a = some (.ok key cls) →
      ∃ t, exec .hostWrite s = .next t ∧ t.host.reply = some [] ∧ t.mem.bytes.bytes key n = s.input.bytes ∧
        SameBytesBut s1 t key n ∧ t.th = s.th) ∧
    (n = s.input.bytes.length → s.host.ckptState ≠ 1 → hostAccess s true a = none →
      ∃ t, exec .hostWrite s = .next t ∧ t.host.reply = none ∧ t.mem = s.mem) ∧
    (n = s.input.bytes.length → s.host.ckptState ≠ 1 → hostAccess s true a = some (.ok k0 c0) → leasedTo s 0 a n = true →
      exec .hostWrite s = .next s) ∧
    (n = s.input.len → s.input.port = 0 → hostAccess s false a = some (.ok k0 c0) →
      hostAccess s1 false a = some (.ok key cls) →
      ∃ t, exec .hostRead s = .next t ∧ t.host.reply = some (s1.mem.bytes.bytes key n) ∧
        t.host.replyPoison = poisoned s1 key n ∧ SameBytes s1 t ∧ t.th = s.th)) ∧
  (∀ s : State, s.host.linkUp = true → s.input.port = 1 →
    (s.input.off = 0 → ∃ t, exec .hostRead s = .next t ∧ t.host.reply = some (leBytes 8
      (s.host.ver.toNat * 2 ^ 32 + s.host.tries % 16 * 2 ^ 8 + s.host.boot % 256))) ∧
    (s.input.off = 0x100 → ∃ t, exec .hostRead s = .next t ∧ t.host.reply = some (leBytes 8
      (min (s.host.time.hold / 1000000000) (2 ^ 32 - 1) * 2 ^ 32 + s.host.time.frozen.isSome.toNat * 2 ^ 7 +
        s.host.time.state % 4)))) ∧
  (∀ s : State, s.host.linkUp = true →
    (s.input.off = 0x300 → exec .registerWrite s = .next { s with host := { s.host with replayAddr := s.input.value } }) ∧
    (s.input.off = 0x400 → exec .registerWrite s = .next { s with host := { s.host with attNonce := s.input.value } }) ∧
    (s.input.off = 0x408 → exec .registerWrite s = .next { s with host := { s.host with attRpt := s.input.value } }) ∧
    (∀ r : Fin 64, s.input.off = 0x10000 + 0x20 * r.val → exec .registerWrite s =
      .next (s.setRing r.val { s.ring r.val with base := s.input.value &&& 0xFFFFFFFFFFFFF000 })) ∧
    (s.input.off % 8 ≠ 0 ∨ s.input.off = 0 ∨ s.input.off = 0x100 ∨ s.input.off = 0x208 ∨ s.input.off = 0x310 ∨
      s.input.off = 0x418 ∨ 0x2010000 ≤ s.input.off → exec .registerWrite s = .next s))

/-- R326, R381: the ring registers. On a disabled ring RINGCFG takes every writable field unless its size code is 9 to 15; en = 0
on an enabled one clears head, tail, halt and record; RINGTAIL moves the tail, and a value that is not a multiple of 64 below
the size halts the ring with code 6; a disabled or halted ring ignores it (log entry 72). -/
def RingRegisters : Prop :=
  (∀ (s : State) (i : Instr), i = .ringEnable ∨ i = .ringDisable →
    let r := s.input.ring % 64
    let x := s.ring r
    let v := s.input.value
    (x.en = false → bits v.toNat 20 4 < 9 → exec i s = .next (s.setRing r { x with cfg := v &&& 0xFFF00000 })) ∧
    (x.en = false → 9 ≤ bits v.toNat 20 4 → exec i s = .next s) ∧
    (x.en = true → v.getLsbD 31 = true → exec i s = .next s) ∧
    (x.en = true → v.getLsbD 31 = false → ∃ t, exec i s = .next t ∧ (t.ring r).en = false ∧ (t.ring r).halted = false ∧
      (t.ring r).head = 0 ∧ (t.ring r).tail = 0 ∧ (t.ring r).err = 0 ∧ (t.ring r).held = none ∧ (t.ring r).base = x.base)) ∧
  (∀ s : State,
    let r := s.input.ring % 64
    let x := s.ring r
    let v := s.input.value.toNat
    (x.en = false ∨ x.halted = true → exec .ringtail s = .next s) ∧
    (x.en = true → x.halted = false → v % 64 = 0 → v < x.size →
      exec .ringtail s = .next (s.setRing r { x with tail := v })) ∧
    (x.en = true → x.halted = false → v % 64 ≠ 0 ∨ x.size ≤ v → ∃ t, exec .ringtail s = .next t ∧
      (t.ring r).halted = true ∧ (t.ring r).tail = x.tail ∧ (t.ring r).err = BitVec.ofNat 128 (x.head * 2 ^ 64 + 6)))

/-- R384, R385: losing the reference in the locked state begins a holdover, a relock slews the offset away, and a frozen time
goes on once the stepped time has reached it (log entry 76). -/
def TimeReference : Prop :=
  (∀ s : State, LogRoom s 4 →
    (s.host.time.state = 1 → ∃ t, exec .timeReferenceLost s = .next t ∧ Logged s t 4 ∧
      t.host.time = { s.host.time with state := 2, hold := 0 }) ∧
    (s.host.time.state ≠ 1 → ∃ t, exec .timeRelock s = .next t ∧ Logged s t 4 ∧
      t.host.time = { s.host.time with state := 1, slew := s.host.time.slew + s.input.offset })) ∧
  (∀ (s : State) (f : Nat), s.host.time.frozen = some f → s.host.time.ns ≤ f →
    ∃ t, exec .negativeStepAbsorbed s = .next t ∧ t.host.time = { s.host.time with ns := f % 2 ^ 64, frozen := none } ∧
      t = { s with host := { s.host with time := t.host.time } })

/-- R335: CKPTCTL's go starts a checkpoint, which stops the starting of launches, or reports error 1 (no checkpoint tenant) or 3
(a port down); the end reports how it went, every dirty sector having reached its home, and a good one has streamed memory as it
then stands. -/
def Checkpoints : Prop :=
  (∀ s : State, s.host.ckptState ≠ 1 → s.input.value.getLsbD 0 = true →
    let can := ∃ c, s.host.cfg = some c ∧ c.ckpt = true
    let ports := ∀ i < 8, (s.port (24 + i)).up = true
    (¬ can → ∃ t, exec .ckptctlGo s = .next t ∧ t = { s with host := t.host } ∧ t.host.ckptState = 3 ∧ t.host.ckptErr = 1) ∧
    (can → ¬ ports → ∃ t, exec .ckptctlGo s = .next t ∧ t = { s with host := t.host } ∧ t.host.ckptState = 3 ∧
      t.host.ckptErr = 3) ∧
    (can → ports → ∃ t, exec .ckptctlGo s = .next t ∧ t.host.ckptState = 1 ∧ t.lp.stopped = true ∧ t.th = s.th ∧
      t.mem = s.mem)) ∧
  (∀ s : State, s.host.ckptState = 1 → (∀ l ∈ s.lp.launches, l.state ≠ .running ∧ l.state ≠ .stopping ∧ l.state ≠ .ending) →
    let e := if s.input.err = 2 ∨ s.input.err = 3 then s.input.err else 0
    ∃ t, exec .checkpointComplete s = .next t ∧ t.host.ckptState = (if e = 0 then 2 else 3) ∧ t.host.ckptErr = e ∧
      t.host.ckptImage = (if e = 0 then t.mem.bytes.filter fun c => c.1 < 2 ^ 39 else []) ∧
      t.host.ckptMs = min s.input.ms (2 ^ 32 - 1) ∧ t.lp.stopped = false ∧ ∀ c ∈ t.mem.l1, c.dirty = [])

/-- R336, R337, R350: a halt stops a running core with reason 1 and lands its outstanding results; a resume lets it go on and
disarms a step; a step arms one on a slot; a step that is over reports reason 4 on a halted core and traps STEP on a running
one. -/
def DebugModules : Prop :=
  (∀ s : State,
    let c := s.input.core % 2048
    ((s.dbg c).halted = false → ∃ t, exec .debugHalt s = .next t ∧ (t.dbg c).halted = true ∧ (t.dbg c).why = 1 ∧
      t.mem = s.mem ∧ t.th = if s.th.core = c then s.th.land else s.th) ∧
    (∃ t, exec .debugResume s = .next t ∧ (t.dbg c).halted = false ∧ (t.dbg c).armed = none ∧ t.mem = s.mem ∧ t.th = s.th) ∧
    (∃ t, exec .debugStep s = .next t ∧ (t.dbg c).armed = some (bits s.input.value.toNat 8 2) ∧
      (t.dbg c).sslot = bits s.input.value.toNat 8 2 ∧ (t.dbg c).halted = (s.dbg c).halted ∧ t.mem = s.mem)) ∧
  (∀ (s : State) (k tid since : Nat) (pc : Word),
    let c := s.input.core % 2048
    let s1 := s.setDbg { s.dbg c with armed := none, stepping := none }
    (s.dbg c).armed = some k → (s.dbg c).stepping = some (pc, tid, since) → stepOver s c tid = true →
    asyncWork s tid since = false →
    ((s.dbg c).halted = true → ∃ t, exec .debugStepDone s = .next t ∧ (t.dbg c).why = 4 ∧ (t.dbg c).slot = k ∧
      (t.dbg c).armed = none ∧ t.mem = s.mem) ∧
    (∀ u, (s.dbg c).halted = false → s1.atLoc ⟨c, k⟩ = some u → u.tid = tid →
      exec .debugStepDone s = .next (trapAt (selectSlot s1 ⟨c, k⟩) .step 0 pc.toNat u.pc)))

/-- R334: ATTGO asks for a report, or reports state 3 when the bank or the boot's 1,024 signatures are exhausted; the report is 5,536
bytes that begin with the magic and the version, hold the hashes of the image, of the fuses' key and of the tenant table at 8, 40
and 72 and the nonce at 104, and it is written as one engine operation. -/
def Attestation : Prop :=
  (∀ s : State, s.input.value = 1 → s.host.attState ≠ 1 →
    ∃ t, exec .attgo s = .next t ∧ t = { s with host := { s.host with
      attState := if s.host.attCert = none ∨ 1024 ≤ s.host.attUsed then 3 else 1 } }) ∧
  (∀ (s : State) (nonce : List Byte), nonce.length = 32 → (attReport s nonce).length = 5536 ∧
    (attReport s nonce).take 8 = leBytes 4 0x5441445A ++ leBytes 4 s.host.ver.toNat ∧
    ((attReport s nonce).drop 8).take 32 = sha256 (bootImage s) ∧
    ((attReport s nonce).drop 40).take 32 = beBytes 32 Config.fuseHash.toNat ∧
    ((attReport s nonce).drop 72).take 32 = sha256 (Config.tableBytes s.lp.tenants) ∧
    ((attReport s nonce).drop 104).take 32 = nonce) ∧
  (∀ (s s2 : State) (te : Nat) (l : List Span), s.host.attState = 1 →
    let n := s.host.attNonce.toNat
    let r := s.host.attRpt.toNat
    let s1 := settle (settle s n 32) r 5536
    spans s1 2048 chirnaore .rd n 32 = .ok l → r % 64 = 0 →
    engineOp s1 2048 chirnaore 0 [(n, 32)] [(r, 5536)] (fun bs => attReport s1 (bs.take 32)) = .done s2 te →
    ∃ t, exec .attestationReport s = .next t ∧ t.host.attState = 2 ∧ t.host.attUsed = s1.host.attUsed + 1 ∧ t.mem = s2.mem)

/-- R340: REPLAYGO reads the session's descriptor and submits its launch at priority 0; an unreadable descriptor fails the session;
at the end of a pass the next one begins with every L1D, L1I and PLB empty, and after the last the result is written. -/
def ReplaySessions : Prop :=
  (∀ s : State, s.input.value = 1 → s.host.replayState ≠ 1 →
    let a := s.host.replayAddr.toNat
    (devRead s a 128 = none → ∃ t, exec .replaygo s = .next t ∧ t.host.replayState = 3 ∧ t.mem = s.mem) ∧
    (∀ (d bs : List Byte) (k : Header), devRead s a 128 = some d → 1 ≤ pf d 32 1 → pf d 32 1 ≤ 64 →
      pf d 8 8 % 0x10000 = 0 → pf d 24 8 % 64 = 0 → devRead s (pf d 0 8) 256 = some bs → pf bs 0 1 = 1 →
      s.lp.launches.length < 256 →
      let n := s.tenantOf (pf bs 25 1 * 64 + pf bs 24 1)
      (∀ h, packetCode { s with host := h } ⟨0, BitVec.ofNat 64 (n * 2 ^ 24), 0, 0, 0, 0, [], none, none, []⟩ bs = 0 ∧
        launchFit { s with host := h } n bs = some k) →
      ∃ t l, exec .replaygo s = .next t ∧ t.host.replayState = 1 ∧ t.host.replayPass = 1 ∧ t.host.replayDesc = d ∧
        t.lp.launches = s.lp.launches ++ [l] ∧ l.state = .accepted ∧ l.prio = 0 ∧ l.tenant = n ∧ t.host.replayLid = l.lid ∧
        t.mem = s.mem)) ∧
  (∀ s : State, s.host.replayState = 1 → s.host.replayLid ≠ noLid → s.launch s.host.replayLid = none →
    let s1 := replayNote s
    (s.host.replayPass < replayPasses s → ∃ t, exec .replayPassEnd s = .next t ∧
      t.host.replayPass = s.host.replayPass + 1 ∧ t.mem.l1 = [] ∧ t.mem.l1i = [] ∧ t.mem.plb = []) ∧
    (∀ s2 te, replayPasses s ≤ s.host.replayPass →
      record s1 2048 chirnaore 0 (replayField s1 24 8) ((replayCores s1).flatMap (replayEntry s1)) = .done s2 te →
      ∃ t, exec .replayPassEnd s = .next t ∧ t.host.replayState = 2 ∧ t.mem = s2.mem))

/-- R323 to R326, R332 to R337, R340, R350, R381, R383 to R385: every step of the host link, start-up, the time reference,
checkpoints, the debug modules, attestation and replay sessions has its own effect where its conditions hold. -/
def Obligations.HostLinkAndDebugEvents : Prop :=
  StartUp ∧ HostAccesses ∧ RingRegisters ∧ TimeReference ∧ Checkpoints ∧ DebugModules ∧ Attestation ∧ ReplaySessions

/-! ### Steps of other agents: packets and launches -/

/-- The state in which the packet at the head of the event's ring is checked: what the host link has answered is there (R326), and
the pages of a launch packet's kernel image are expanded (R82). -/
def served (s : State) (bs : List Byte) : State :=
  let s1 := lookRing s s.evRing
  if pf bs 0 1 = 1 then expandRange s1 (pf bs 8 8) 320 else s1

/-- The ring that the event names has a packet of a kind at its head, and no ring is served before it (R31, R327). -/
def AtHead (s : State) (kind : Nat) (bs : List Byte) : Prop :=
  let s1 := lookRing s s.evRing
  outranked s s.evRing = false ∧ readHead s1 (s1.ring s.evRing) = .packet bs ∧ packetKind bs = kind

/-- The packet at the head of the event's ring is good, and has nothing to wait for (R31, R327, R328, R381). -/
def Serves (s : State) (kind : Nat) (bs : List Byte) : Prop :=
  AtHead s kind bs ∧ packetCode (served s bs) ((served s bs).ring s.evRing) bs = 0 ∧
    packetWaits (served s bs) s.evRing bs = false

/-- The event's ring has moved past a packet (R31, R327). -/
def Moved (s t : State) (bs : List Byte) : Prop :=
  let x := s.ring s.evRing
  let y := t.ring s.evRing
  y.head = (x.head + packetBytes (pf bs 0 8)) % x.size ∧ y.read = x.read + 1 ∧ y.halted = x.halted ∧ t.lp.rr = s.evRing

/-- The events that read a packet, with its kind. -/
def packetTable (i : Instr) : Option Nat :=
  match i with
  | .launch => some 0 | .waitOnObject => some 1 | .signalArrival => some 2 | .signalCntAdd => some 3
  | .routerConfigSet => some 4 | .routerConfigGet => some 5 | .routerConfigClear => some 6 | .timeStep => some 7
  | .timeSlew => some 8
  | _ => none

/-- R31, R32, R251, R256, R286, R327, R328, R330, R344, R381, R384, R392: a packet of each kind at a ring's head has its effect, and
its ring moves past it; a launch packet waits to be accepted, and a router configuration packet for its turn on its bank. A bad
packet halts its ring with its cause and its effect does not happen. The timestamp of a signal is the model's choice (log
entry 108). -/
def PacketEffects : Prop :=
  (∀ (i : Instr) (kind : Nat) (s : State) (bs : List Byte), packetTable i = some kind →
    let r := s.evRing
    let s1 := served s bs
    let x := s1.ring r
    AtHead s kind bs → packetCode s1 x bs ≠ 0 →
    ∃ t, exec i s = .next t ∧ (t.ring r).halted = true ∧ (t.ring r).head = x.head ∧ t.th = s1.th ∧
      (t.ring r).err = BitVec.ofNat 128
        (pf bs 4 4 * 2 ^ 96 + x.head * 2 ^ 64 + pf bs 0 1 * 2 ^ 32 + packetCode s1 x bs)) ∧
  (∀ (s : State) (bs : List Byte), Serves s 0 bs → ∃ t, exec .launch s = .next t ∧
    (t.ring s.evRing).pend = some (bs, max (served s bs).lp.mark (served s bs).mem.hts) ∧
    (t.ring s.evRing).head = (s.ring s.evRing).head ∧ t.mem = (served s bs).mem ∧ t.th = (served s bs).th) ∧
  (∀ (s : State) (bs : List Byte), Serves s 1 bs →
    let h := pf bs 8 8
    let v := BitVec.ofNat 64 (pf bs 16 8)
    ∃ t, exec .waitOnObject s = .next t ∧ Moved s t bs ∧ t.mem = s.mem ∧ t.th = s.th ∧
      (t.ring s.evRing).held = (if objectReady s h v = true then none
        else some ⟨h, v, (s.ring s.evRing).read, bits (pf bs 0 8) 16 1 = 1⟩)) ∧
  (∀ (s : State) (bs : List Byte) (b : Bar), Serves s 2 bs → s.bar (pf bs 8 8) = some b → poisonedObj s (pf bs 8 8) = false →
    b.brk = false → pf bs 16 8 % 65536 = b.phase → b.arr + 1 < b.exp →
    ∃ t, exec .signalArrival s = .next t ∧ Moved s t bs ∧ t.mem = s.mem ∧
      t.bar (pf bs 8 8) = some { b with arr := b.arr + 1, pts := max b.pts (max s.lp.mark s.mem.hts) }) ∧
  (∀ (s : State) (bs : List Byte) (n p : Nat) (sr : Bool) (v : Word), Serves s 3 bs →
    s.obj (pf bs 8 8) = some ⟨n, sr, false, .cnt v p⟩ → ∃ t, exec .signalCntAdd s = .next t ∧ Moved s t bs ∧
      t.obj (pf bs 8 8) =
        some ⟨n, sr, false, .cnt (v + BitVec.ofNat 64 (pf bs 16 8)) (max p (max s.lp.mark s.mem.hts))⟩) ∧
  (∀ (s s2 : State) (bs : List Byte) (c first count te : Nat) (st : Word),
    let r := s.evRing
    let s0 := lookRing s r
    let s1 : State := { s0 with lp := { s0.lp with rr := r } }
    let bank := packetBank (s.ring r) bs
    let own := (s.ring r).tenant
    let turn := (formOf s1 (.inr r)).isSome = true ∨ (bankBusy s1 bank = false ∧ formsOn s1 bank = [])
    let left (t : State) : Prop :=
      Moved s t bs ∧ formOf t (.inr r) = none ∧ t.fab = { s2.fab with forms := t.fab.forms } ∧ (st = 0 → t.mem = s2.mem)
    packetSelector (pf bs 24 1) (pf bs 8 8) = some (c, first, count) → turn →
    (Serves s 4 bs → priceSet s1 2048 own s1.mem.hts bank first count (pf bs 16 8) = .done st s2 te →
      ∃ t, exec .routerConfigSet s = .next t ∧ left t) ∧
    (Serves s 5 bs → priceGet s1 2048 own s1.mem.hts bank first count (pf bs 16 8) = .done st s2 te →
      ∃ t, exec .routerConfigGet s = .next t ∧ left t) ∧
    (Serves s 6 bs → ∃ t, exec .routerConfigClear s = .next t ∧ Moved s t bs ∧ t.mem = s.mem ∧ formOf t (.inr r) = none ∧
      (t.bank bank).poison = false ∧ ∀ e, (t.bank bank).price e = 0)) ∧
  (∀ (i : Instr) (kind : Nat) (s : State) (bs : List Byte), packetTable i = some kind → kind = 4 ∨ kind = 5 ∨ kind = 6 →
    let r := s.evRing
    let s0 := lookRing s r
    let s1 : State := { s0 with lp := { s0.lp with rr := r } }
    let bank := packetBank (s.ring r) bs
    Serves s kind bs → formOf s1 (.inr r) = none → bankBusy s1 bank = true ∨ formsOn s1 bank ≠ [] →
    exec i s = .next (joinForms s1 bank (.inr r))) ∧
  (∀ (s : State) (bs : List Byte),
    let u := s.host.time
    let d := signed (pf bs 8 8) 64
    let v : Int := (u.frozen.getD u.ns : Nat) + d
    (Serves s 7 bs → ∃ t, exec .timeStep s = .next t ∧ Moved s t bs ∧ t.mem = s.mem ∧ t.host.time =
      if (u.ns : Int) ≤ v then { u with ns := v.toNat % 2 ^ 64, frozen := none } else { u with frozen := some v.toNat }) ∧
    (Serves s 8 bs → ∃ t, exec .timeSlew s = .next t ∧ Moved s t bs ∧ t.mem = s.mem ∧
      t.host.time = { u with slew := u.slew + d }))

/-- The memory-management events, with their action. -/
def mmTable (i : Instr) : Option Nat :=
  match i with
  | .changeAttribute => some 0 | .compress => some 1 | .shootDown => some 2
  | _ => none

/-- R76, R82, R83, R329, R353: a memory-management packet gives Chirnaore a request with its fields; the shoot-down of a request that
has done its pages removes every PLB entry of the range, once no vector access is under way in it; the end of a request removes it and
closes its packet, after its completion record, which waits while its page is in transition. -/
def MemoryRequests : Prop :=
  (∀ (i : Instr) (a r0 : Nat) (s : State) (bs : List Byte), mmTable i = some a → s.input.src = .ring r0 →
    let s1 : State := { s with input := { s.input with ring := r0 } }
    Serves s1 (9 + a) bs → ∃ t q, exec i s = .next t ∧ Moved s1 t bs ∧ t.lp.mm.length = s.lp.mm.length + 1 ∧
      t.lp.mm.getLast? = some q ∧ q.tenant = (s1.ring s1.evRing).tenant ∧ q.ring = some s1.evRing ∧
      q.seq = (s1.ring s1.evRing).read ∧ q.start = pf bs 8 8 ∧ q.len = pf bs 16 8 ∧ q.action = a) ∧
  (∀ (s : State) (q : MmReq), s.lp.mm.find? (fun q => q.tenant = s.input.tenant) = some q →
    (q.stage = 2 → partIn s [(q.start, q.len)] = false → ∃ t, exec .shootdownComplete s = .next t ∧ SameBytes s t ∧
      (∀ e ∈ t.mem.plb, e ∈ s.mem.plb ∧ (e.2.va + 2 ^ e.2.lsz ≤ q.start ∨ q.start + q.len ≤ e.2.va)) ∧
      t.lp.mm.find? (fun q => q.tenant = s.input.tenant) = some { q with stage := 3 }) ∧
    (q.stage = 2 → partIn s [(q.start, q.len)] = true → exec .shootdownComplete s = .next s) ∧
    (∀ q5, q.stage = 3 →
      let s1 := installReq s q
      let s2 := recordReq s1 { q with stage := 4, held := [] }
      s2.lp.mm.find? (fun q => q.tenant = s.input.tenant) = some q5 → q5.stage = 5 →
      (q.ring = none → ∀ i a, nextEntry s2 q.tenant = some (i, a) → record s2 2048 chirnaore 0 a (leBytes 8 0) ≠ .wait) →
      ∃ t, exec .mmRequestComplete s = .next t ∧ t.lp.mm.length + 1 = s.lp.mm.length ∧
        ∀ r, q.ring = some r → ∀ p ∈ (t.ring r).open_, p.seq ≠ q.seq) ∧
    (q.stage = 3 → q.comp ≠ 0 → q.comp % 16 = 0 →
      record (installReq s q) 2048 chirnaore 0 q.comp
        (leBytes 8 q.val.toNat ++ leBytes 4 q.result ++ leBytes 4 q.pages) = .wait →
      exec .mmRequestComplete s = .next (installReq s q)))

/-- R32 to R35, R330, R358, R391, R392: a launch packet that passes its checks enters the table with the lowest-numbered free id from
the counter on (log entry 60), another halts its ring; a launch that starts has one thread on every core of its rectangle at its
entry point with the packet's arguments, its pts not below the slot's; a launch with no thread, record and engine work left leaves
the table and closes its packet, after its completion record, which waits while its page is in transition. -/
def LaunchLife : Prop :=
  (∀ (s : State) (bs : List Byte) (mark : Nat),
    let r := s.evRing
    let x := s.ring r
    x.pend = some (bs, mark) → pendBefore s r = false →
    (∀ k, packetCode s x bs = 0 → launchFit s x.tenant bs = some k → s.lp.launches.length < 256 →
      ∃ t l, exec .launchAccept s = .next t ∧ t.lp.launches = s.lp.launches ++ [l] ∧ (t.ring r).pend = none ∧
        (t.ring r).head = (x.head + packetBytes (pf bs 0 8)) % x.size ∧ l.lid = freshLid s ∧ l.state = .accepted ∧
        l.tenant = x.tenant ∧ l.prio = x.prio ∧ l.ring = r ∧ l.pkt = x.read ∧ l.start = pf bs 16 8 ∧ l.x0 = pf bs 24 1 ∧
        l.y0 = pf bs 25 1 ∧ l.mark = mark ∧ l.enc = k.enc ∧ t.mem = s.mem ∧ t.th = s.th) ∧
    (packetCode s x bs ≠ 0 → ∃ t, exec .launchAccept s = .next t ∧ t.lp.launches = s.lp.launches ∧
      (t.ring r).halted = true ∧ (t.ring r).pend = none)) ∧
  (∀ (s : State) (l : Launch), s.launch s.input.lid = some l → startsNow s l = true →
    ∃ t, exec .launchStart s = .next t ∧ t.launch l.lid = some { l with state := .running, started := s.lp.started + 1 } ∧
      t.mem = s.mem ∧ ∀ c ∈ l.cores, ∃ u ∈ t.threads, u.core = c ∧ u.lid = l.lid ∧ u.live = true ∧
        u.pc = BitVec.ofNat 64 (l.code + l.entry) ∧ u.x = startRegs l.args 0 ∧ u.key = BitVec.ofNat 16 (l.logical c) ∧
        u.enc = l.enc ∧ u.frm = l.frm ∧ u.srseed = l.srseed ∧
        u.pts = max (s.clock c u.slot).1 l.mark ∧ u.wait = .none ∧ u.gran = 0) ∧
  (∀ (s : State) (l : Launch), s.launch s.input.lid = some l → l.state = .running → (∀ u ∈ s.threads, u.lid ≠ l.lid) →
    pooled s l.lid = false → engineWork s l.lid = false →
    let end_ := if l.comp = 0 then Recorded.fault else record s 2048 l.tenant l.pts l.comp (launchRecord s l)
    (end_ ≠ .wait → ∃ t, exec .launchComplete s = .next t ∧ t.launch l.lid = none ∧ t.lp.mark = max s.lp.mark l.pts ∧
      (∀ p ∈ t.sync.parked, p.cont.lid ≠ l.lid) ∧ (∀ p ∈ (t.ring l.ring).open_, p.seq ≠ l.pkt) ∧
      ∀ s1 te, end_ = .done s1 te → t.mem = s1.mem) ∧
    (end_ = .wait → exec .launchComplete s = .next s))

/-- R52 to R56, R335, R358: a running launch that a due one outweighs, or that a checkpoint stops, stops; when its engine work has
come to rest it is saved and holds no slot; a launch that comes back runs again, and one whose log has failed ends. -/
def Preemptions : Prop :=
  (∀ (s : State) (l : Launch), s.launch s.input.lid = some l → l.state = .running → heldByDebug s l = false →
    (∃ d ∈ s.lp.launches, ∃ v, victim s d = some v ∧ v.lid = l.lid) ∨ s.lp.stopped = true →
    ∃ t, exec .preemption s = .next t ∧ t.launch l.lid = some { l with state := .stopping } ∧ t.mem = s.mem ∧
      t.th = if s.th.live = true ∧ s.th.lid = l.lid then s.th.stop else s.th) ∧
  (∀ (s s1 s2 : State) (l k : Launch), s.launch s.input.lid = some l → l.state = .stopping →
    (∀ f ∈ l.floes, floeGoes (s.floe f) l.lid = false) → (∀ u ∈ s.threads, u.lid = l.lid → mustFinish u = false) →
    let s0 := onThreadsOf s l.lid Thread.stop
    drainAll (s0.threads.filter fun t => t.lid = l.lid) s0 = some s1 →
    putAll l.tenant l.pts (saveImage s1 l) s1 = .ok s2 → s2.launch l.lid = some k →
    ∃ t, exec .preemptionSave s = .next t ∧ t.mem = s2.mem ∧ (∀ u ∈ t.threads, u.lid ≠ l.lid) ∧
      ∃ k', t.launch l.lid = some k' ∧ k'.state = .out ∧ k'.saved = savedThreads s1 l) ∧
  (∀ (s s1 s2 : State) (l k : Launch), s.launch s.input.lid = some l → l.logBad = 0 → comesBack s l = true →
    reloadFloes l ((List.range l.floes.length).zip l.floes) s = .ok s1 → reloadSlots l l.saved s1 = .ok s2 →
    s2.launch l.lid = some k →
    ∃ t k', exec .restore s = .next t ∧ t.mem = s2.mem ∧ t.th = s2.th ∧ t.slots = s2.slots ∧ t.launch l.lid = some k' ∧
      k'.state = .running ∧ k'.saved = [] ∧ k'.savedTasks = [] ∧ k'.savedCopies = [] ∧ k'.urgent = false ∧ k'.logPos = 0) ∧
  (∀ (s : State) (l : Launch), s.launch s.input.lid = some l → l.logBad ≠ 0 →
    exec .restore s = .next (failLaunch s l.lid l.logBad))

/-- R48 to R50, R391: a free slot that is not held takes up the record that its core's choice names: the thread starts at the record's
PC with its key, its draw counter and x10 to x15, its pts not below the slot's and the pool's mark; a record at the head of a floe's pool for 4,096 cycles moves to its die's. -/
def Records : Prop :=
  (∀ (s : State) (e : Option Nat × Rec) (l : Launch),
    let c := s.input.loc.core
    let k := s.input.loc.slot
    k ∈ freeSlots s c → slotHeld s c = false → (s.island (islandOfFloe (floeOfCore c))).gated = false →
    chooseRec s c = some e → s.launch e.2.lid = some l →
    ∃ t, exec .recordTakeUp s = .next t ∧
      (∃ u ∈ t.threads, u.core = c ∧ u.slot = k ∧ u.live = true ∧ u.tid = e.2.tid ∧ u.lid = l.lid ∧ u.pc = e.2.pc ∧
        u.key = e.2.key ∧ u.draw = e.2.draw ∧ u.pts = max (s.clock c k).1 (takeRec s c e).1 ∧
        u.x = startRegs [e.2.x10, e.2.x11, e.2.x12, e.2.x13, e.2.x14] (BitVec.ofNat 64 e.2.reason)) ∧
      (e.1 = none → (t.floe (floeOfCore c)).pool = (s.floe (floeOfCore c)).pool.erase e.2) ∧
      ∀ d, e.1 = some d → (t.die d).pool = (s.die d).pool.erase e.2) ∧
  (∀ (s : State) (r : Rec) (rest : List Rec),
    let f := s.input.floe
    (s.floe f).pool = r :: rest → r.since + 4096 ≤ s.host.cycle → (s.die (f / 64)).pool.length < dieCap (s.die (f / 64)) →
    ∃ t, exec .floePoolMigration s = .next t ∧ (t.floe f).pool = rest ∧
      (t.die (f / 64)).pool = (s.die (f / 64)).pool ++ [{ r with since := s.host.cycle }] ∧
      (t.die (f / 64)).poolMark = max (s.die (f / 64)).poolMark (s.floe f).mark ∧ t.mem = s.mem ∧ t.th = s.th)

/-- R31 to R35, R48 to R56, R76, R82, R83, R327 to R330, R358, R381, R391, R392: every step that reads a packet, carries on a
memory-management request, accepts, starts, ends, pre-empts or restores a launch, or takes up or moves a record has its own
effect where its conditions hold. -/
def Obligations.PacketAndLaunchEvents : Prop := PacketEffects ∧ MemoryRequests ∧ LaunchLife ∧ Preemptions ∧ Records

/-! ### Steps of other agents: slots, engines, memory -/

/-- A thread is the only one with its identity beside the current slot's. -/
def OneTid (s : State) (u : Thread) : Prop := s.th.live = true → s.th.tid = u.tid → u = s.th

/-- A thread is the only one in its slot beside the current slot's. -/
def OneLoc (s : State) (u : Thread) : Prop := s.th.core = u.core → s.th.slot = u.slot → u = s.th

/-- What a slot's own counts and messages do to its thread. -/
def slotTable (i : Instr) (s : State) (u : Thread) : Option Thread :=
  match i with
  | .pauseExpire => some (if u.pause = 1 then { u with pause := 0 } else u)
  | .stallCountExpire => some (if u.stall = 1 then { u with stall := 0 } else u)
  | .resultLand => some { u with pend := u.pend.map fun p => if p.reg = s.input.off then { p with landed := true } else p }
  | .ptsTick => some (if u.ptsFrac = 63 then { u with pts := u.pts + 1, ptsFrac := 64 } else u)
  | .wakeupMessage => some (if wakesNext s u = true ∧ queued s u = false then { u with wait := .none } else u)
  | _ => none

/-- R39, R42, R43, R80, R82, R83, R85, R100, R139, R337, R347, R350 to R354, R357: in their last cycles a slot's counts run out and its
`pts` advances; its results land, and its wake-up arrives when it is the next of its source and no halted core's debug module
keeps it. A walk that ends makes the access ready again and enters the PLB of a core with power, waits for an expansion, which
begins, or traps PAGE with reason 0 or 2; an expansion that has begun installs the page, and whoever waited for it is ready, or
the access traps PAGE with reason 1. -/
def SlotEvents : Prop :=
  (∀ (i : Instr) (s : State) (u v : Thread), s.atLoc s.input.loc = some u → OneTid s u → slotTable i s u = some v →
    ∃ t, exec i s = .next t ∧ t.atLoc s.input.loc = some v ∧ t.mem = s.mem) ∧
  (∀ (s : State) (u : Thread) (va : Nat) (elem : Option Nat), s.atLoc s.input.loc = some u → u.wait = .walk va elem →
    OneLoc s u →
    let c := s.input.loc.core
    (∀ p, walk s.mem va = .leaf p → ∃ t, exec .walkComplete s = .next t ∧ t.th = { u with wait := .retry } ∧
      SameMemory s t ∧ ((s.island (islandOfFloe (floeOfCore c))).gated = false → t.mem.plb.head? = some (c, p)) ∧
      ((s.island (islandOfFloe (floeOfCore c))).gated = true → t.mem.plb = s.mem.plb)) ∧
    (∀ ea p, walk s.mem va = .firn ea p → ∃ t, exec .walkComplete s = .next t ∧
      t.th = { u with wait := .expand va elem } ∧ t.mem = { s.mem with expand := addOff s.mem.expand p.va }) ∧
    (walk s.mem va = .absent → exec .walkComplete s = .next (trapStalled s s.input.loc .page va (elem.getD 0))) ∧
    (walk s.mem va = .bad → exec .walkComplete s = .next (trapStalled s s.input.loc .page va (elem.getD 2)))) ∧
  (∀ (s : State) (ea : Nat) (p : Plb),
    let va := s.input.addr
    let s1 : State := { s with mem := { s.mem with expand := s.mem.expand.filter fun x => x ≠ va } }
    va ∈ s.mem.expand → walk s1.mem va = .firn ea p →
    (∀ m, expandPage s1.mem va = some m → ∃ t, exec .expansionComplete s = .next t ∧ t.mem = m ∧
      ∀ l u a elem, s.atLoc l = some u → u.wait = .expand a elem → (∀ ea' p', walk m a ≠ .firn ea' p') →
        t.atLoc l = some { u with wait := .retry }) ∧
    (∀ l a elem, expandPage s1.mem va = none → waitsExpand s1 p = [(l, a, elem)] →
      exec .expansionComplete s = .next (trapStalled s1 l .page a (elem.getD 1)))) ∧
  (∀ s : State, s.input.addr ∉ s.mem.expand → exec .expansionComplete s = .next s)

/-- R68, R218, R219: a read port with room fetches its next vector, and a write port performs its oldest push, each filling L2 with the
port's retention hint. -/
def StreamEvents : Prop :=
  ∀ (s s2 : State) (u : Thread) (p p2 : Port), s.atLoc s.input.loc = some u → OneTid s u →
    look u.ports s.input.port = some p →
    (p.write = false → p.ahead.length < 8 → p.done + p.ahead.length < p.count → (∀ f ∈ p.ahead, f.fail = none) →
      portFetch (settleHint s (p.addr (p.done + p.ahead.length)) u.vbytes (hintOf p.hint)) u p = some (s2, p2) →
      ∃ t, exec .streamFetch s = .next t ∧ t.mem = s2.mem ∧
        t.atLoc s.input.loc = some { u with ports := put u.ports s.input.port p2 }) ∧
    (p.write = true →
      portPush (noteRange (settleHint s (p.addr p.done) u.vbytes (hintOf p.hint)) u.lid (p.addr p.done) u.vbytes) u p =
        some (s2, p2) →
      ∃ t, exec .streamPushWrite s = .next t ∧ t.mem = s2.mem ∧
        t.atLoc s.input.loc = some { u with ports := put u.ports s.input.port p2 })

/-- R70, R236, R247, R248: the command at the head of a floe's copy queue. A malformed one is FAULT, one with an extent of 0 is done,
a ring fill starts, and any other moves its data as one engine operation; each tile of a ring fill publishes one ring tile
once there is room; a decided command leaves the queue and reports its status to its issuer. -/
def CopyEvents : Prop :=
  (∀ (s : State) (c : CopyCmd) (rest : List CopyCmd),
    let f := s.input.floe
    let v := c.view
    (s.floe f).copies = c :: rest → c.run = false → c.status = none →
    (∀ a, copyBad (s.floe f) c = some a →
      ∃ t, exec .copyStart s = .next t ∧ (t.floe f).copies = { c with status := some (8, a) } :: rest ∧ t.mem = s.mem) ∧
    (copyBad (s.floe f) c = none → v.e0 = 0 ∨ v.e1 = 0 ∨ v.e2 = 0 →
      ∃ t, exec .copyStart s = .next t ∧ t.mem = s.mem ∧
        (t.floe f).copies = { c with status := some (0, 0), te := max c.te c.by_.ti } :: rest) ∧
    (copyBad (s.floe f) c = none → 0 < v.e0 → 0 < v.e1 → c.prog < v.e2 →
      (v.rf = true → ∃ t, exec .copyStart s = .next t ∧ (t.floe f).copies = { c with run := true } :: rest ∧
        t.mem = s.mem) ∧
      (∀ s2 te, v.rf = false →
        let src := (List.range v.e2).flatMap (srcRows c v)
        let dst := (List.range v.e2).flatMap fun (i2 : Nat) => dstRows v (c.dst.toNat + i2 * v.ds2)
        copyOp (noteRows (c.settle s src dst) c.by_.lid dst) f c src dst = .done s2 te →
        ∃ t, exec .copyStart s = .next t ∧ t.mem = s2.mem ∧
          (t.floe f).copies = { c with status := some (0, 0), te := te } :: rest))) ∧
  (∀ (s s2 : State) (te : Nat) (c : CopyCmd) (rest : List CopyCmd),
    let f := s.input.floe
    let v := c.view
    let r := (s.floe f).ring v.ring
    let src := srcRows c v c.prog
    (s.floe f).copies = c :: rest → c.run = true → c.status = none → (r.tail + 65536 - r.head) % 65536 ≠ r.cap →
    copyOp (c.settle s src []) f c src (dstRows v (floeKey f (r.at_ r.tail) : Nat)) = .done s2 te →
    ∃ t, exec .copyRingTile s = .next t ∧ t.mem = s2.mem ∧ ((t.floe f).ring v.ring).tail = (r.tail + 1) % 65536 ∧
      (t.floe f).copies = { c with
        prog := c.prog + 1, te := max c.te te, status := if v.e2 ≤ c.prog + 1 then some (0, 0) else none } :: rest) ∧
  (∀ (s : State) (c : CopyCmd) (rest : List CopyCmd) (st a : Nat),
    let f := s.input.floe
    (s.floe f).copies = c :: rest → c.status = some (st, a) → c.regs[5] = 0 → s.th.live = true → s.th.tid = c.by_.tid →
    ∃ t, exec .copyComplete s = .next t ∧ (t.floe f).copies = rest ∧ t.th.cpStatus = st ∧
      t.th.cpCorr = BitVec.ofNat 32 c.by_.corr ∧ t.th.cpTe = max s.th.cpTe c.te ∧ t.th.cpStale = s.th.cpStale ∧
      (st = 0 → t.th.fails = s.th.fails) ∧ (st ≠ 0 → t.th.fails = addFail s.th.fails ⟨c.by_.since, c.by_.corr, st, 0, a, none⟩))

/-- R289, R291, R293 to R298: dispatch gives a free engine to the first eligible multiply and the drain path to the first eligible
drain; the limiter deals quarters where one of its steps starts, at most 4 to a request and the limit in all; a task whose work
is done retires into its accumulator, its tiles as it has read them, a drain into memory, a zeroing into its tile, and leaves
the queue. -/
def MatrixEvents : Prop :=
  (∀ (s : State) (i : Nat) (k : Task),
    let f := s.input.floe
    let x := s.floe f
    dispatchOne s f = none → (∀ t ∈ x.tasks, t.draining = none) → findTask x (fun t => !t.mac) = some (i, k) →
    ∃ t, exec .taskDispatch s = .next t ∧ t.mem = s.mem ∧ t.th = s.th ∧
      (t.floe f).tasks = x.tasks.modify i fun t => { t with run := .drain k.drainTime }) ∧
  (∀ (s : State) (e i : Nat) (k : Task),
    let f := s.input.floe
    let x := s.floe f
    let s1 := s.setFloe f { x with tasks := x.tasks.modify i fun t => { t with run := .engine e 0 } }
    findTask x (fun t => t.mac && hopeless x t) = none → e < 4 → (∀ t ∈ x.tasks, (t.engine.map (·.1)) ≠ some e) →
    (∀ j < e, ∃ t ∈ x.tasks, (t.engine.map (·.1)) = some j) → findTask x (fun t => t.mac && tilesHere x t) = some (i, k) →
    dispatchOne s1 f = none → (∃ t ∈ x.tasks, t.draining ≠ none) → exec .taskDispatch s = .next s1) ∧
  (∀ limit n, (deal limit n).1.length = n ∧ (∀ q ∈ (deal limit n).1, q ≤ 4) ∧ (deal limit n).1.sum = (deal limit n).2 ∧
    (deal limit n).2 = min limit (4 * n)) ∧
  (∀ s : State,
    let i := s.input.island
    let p := (s.island i).prev
    let limit := ((rampOf s).find? fun e => p < e).getD 32
    let reqs := requests s i
    (stepDue s i = true → ∃ t, exec .limiterStep s = .next t ∧ t.mem = s.mem ∧ t.th = s.th ∧
      (t.island i).prev = max (deal limit reqs.length).2 (p - 4) ∧
      (t.island i).grants = ((reqs.zip (deal limit reqs.length).1).map fun e => (e.1.f, e.1.k, e.2)) ∧
      (t.island i).due = s.host.cycle + 4) ∧
    (stepDue s i = false → exec .limiterStep s = .next s)) ∧
  (∀ (s : State) (i w : Nat) (k : Task) (v : TaskView),
    let f := s.input.floe
    let x := s.floe f
    (x.tasks.findIdx? fun t => t.engine.map (·.1) = some s.input.port) = some i → x.tasks[i]? = some k →
    k.engine = some (s.input.port, w) → k.view = some v → v.need ≤ w → poisonedTile s f v k = none →
    poisonedAcc s f v = false → (∀ y ∈ s.host.trace, y.core ≠ k.by_.core) →
    ∃ t, exec .taskRetire s = .next t ∧ (t.floe f).tasks = x.tasks.eraseIdx i ∧
      t.mem = { s.mem with bytes := macBytes s (readTiles s f v k) f v k.aTile k.bTile } ∧ t.th = s.th) ∧
  (∀ (s s2 : State) (i te : Nat) (k : Task) (v : TaskView),
    let f := s.input.floe
    let x := s.floe f
    drained x (fun t => !t.zero) = some (i, k) → k.view = some v → k.mac = false →
    let s1 := noteRows (settleRows s (drainRows v) (hintOf (tf k.desc 44 2))) k.by_.lid (drainRows v)
    drainOp s1 f v k.by_ = .done s2 te → (∀ y ∈ s2.host.trace, y.core ≠ k.by_.core) →
    ∃ t, exec .drainRetire s = .next t ∧ (t.floe f).tasks = (s2.floe f).tasks.eraseIdx i ∧
      t.mem = if v.op = 2 then zeroTile s2.mem f k.acc else s2.mem) ∧
  (∀ (s : State) (i : Nat) (k : Task),
    let f := s.input.floe
    let x := s.floe f
    drained x (fun t => t.zero) = some (i, k) → (∀ y ∈ s.host.trace, y.core ≠ k.by_.core) →
    ∃ t, exec .zeroTaskRetire s = .next t ∧ (t.floe f).tasks = x.tasks.eraseIdx i ∧ t.mem = zeroTile s.mem f k.acc ∧
      t.th = s.th)

/-- R28, R36, R131, R324, R360, R364: a die's partial is folded into its rime record; an object moves between SRAM and the overflow
area where there is room; a tenant that is set or removed has lost its objects and its price banks, and the host rights entry is
filled again; an entry that the table cannot hold changes nothing. -/
def ObjectEvents : Prop :=
  (∀ (s : State) (c : Nat) (st : Stats) (r : Rime),
    let d := s.input.die
    let h := s.input.handle
    ((s.die d).partials.find? fun p => p.1 = h) = some (h, c, st) → s.rime h = some r →
    ∃ t, exec .rimeFold s = .next t ∧ t.mem = s.mem ∧ t.th = s.th ∧ (∀ p ∈ (t.die d).partials, p.1 ≠ h) ∧
      t.rime h = some { r with
        stats := r.stats.merge st
        ftime := if st.total = 0 then r.ftime else s.ptime
        fseq := if st.total = 0 then r.fseq else r.fseq + 1 }) ∧
  (∀ (s : State) (o : Obj),
    let h := s.input.handle
    let d := dieOfHandle h
    s.obj h = some o → inSync h = true → (∀ r, o.kind ≠ .rime r) →
    (o.sram = true → overflowUsed s d < sharedSlots (s.die d) →
      exec .objectMigration s = .next (s.setObj h { o with sram := false })) ∧
    (o.sram = false → slotsUsed s d true < 65536 →
      exec .objectMigration s = .next (s.setObj h { o with sram := true }))) ∧
  (∀ s : State,
    let n := s.input.tenant
    let fits := ∀ c, s.input.cfg = some c → tenantOk (s.lp.tenants.filter fun x => x.id ≠ n) { c with id := n } = true
    (fits → ∃ t, exec .tenantReconfiguration s = .next t ∧
      t.tenantCfg n = (s.input.cfg.map fun c => { c with id := n }) ∧
      (∀ k, k ≠ n → t.tenantCfg k = s.tenantCfg k) ∧
      (∀ e ∈ t.sync.objs, ¬ (e.2.tenant = n ∧ inSync e.1 = true)) ∧ (∀ b ∈ t.fab.banks, b.id / 4 ≠ n) ∧
      t.host.cfg = s.host.cfg.map fun c => { c with hostRd := s.input.hostRd, hostWr := s.input.hostWr }) ∧
    (¬ fits → exec .tenantReconfiguration s = .next s))

/-- R366 to R371, R380: what a scrub or an access finds. A corrected error is only logged; an uncorrectable one poisons its granule, a
core's copies of its sector, slice granule, rime record or price bank; a lost record's threads and partials go; a parity error
is logged, and kills the thread when it comes again; a slot that has been cleaned is used again. -/
def SoftErrors : Prop :=
  (∀ (s : State) (unit key core corr n : Nat), s.input.found = .corrected unit key core corr n →
    exec .scrub s = .next (logError s (dieOfKey key) 1 unit core n (granuleAddr s key) corr)) ∧
  (∀ (s : State) (unit key core corr : Nat), s.input.found = .poisoned unit key core corr →
    let g := key / granule key * granule key
    ∃ s1, exec .scrub s = .next (logError s1 (dieOfKey key) 2 unit core 1 (granuleAddr s g) corr) ∧
      (∀ k, k ∈ s1.mem.poison ↔ k = g ∨ k ∈ s.mem.poison) ∧ s1 = { s with mem := { s.mem with poison := s1.mem.poison } }) ∧
  (∀ (s : State) (core a corr : Nat) (inst : Bool), s.input.found = .l1 core a inst corr →
    ∃ s1, exec .scrub s = .next (logError s1 (dieOfCore core) 2 0 core 1 (a / 128 * 128) corr) ∧
      (inst = false → s1.mem.l1i = s.mem.l1i ∧
        s1.mem.l1 = s.mem.l1.map fun c => if c.core = core ∧ c.sector = a / 128 then { c with bad := true } else c) ∧
      (inst = true → s1.mem.l1 = s.mem.l1 ∧
        s1.mem.l1i = s.mem.l1i.map fun c => if c.core = core ∧ c.sector = a / 128 then { c with bad := true } else c) ∧
      s1 = { s with mem := { s.mem with l1 := s1.mem.l1, l1i := s1.mem.l1i } }) ∧
  (∀ (s : State) (f tile off : Nat), s.input.found = .tile f tile off →
    ∃ s1, exec .scrub s = .next (logError s1 (f / 64) 2 8 0xFFFF 1 (off % 0x4000) 0) ∧
      tileKey f (tile % 16) (off % 0x4000 / 8 * 8) ∈ s1.mem.poison) ∧
  (∀ (s : State) (l : Loc) (off : Nat) (u : Thread), s.input.found = .slice l off → s.atLoc l = some u → OneTid s u →
    off / 8 * 8 < u.gran * 0x4000 → (off / 8 * 8) ∉ u.bad →
    ∃ t, exec .scrub s = .next t ∧ t.atLoc l = some { u with bad := (off / 8 * 8) :: u.bad }) ∧
  (∀ (s : State) (h : Nat) (o : Obj) (r : Rime), s.input.found = .object h → s.obj h = some o → o.kind = .rime r →
    o.poison = false → ∃ t, exec .scrub s = .next t ∧ t.obj h = some { o with poison := true }) ∧
  (∀ (s : State) (tid : Nat) (r : Rec), s.input.found = .record tid → recOf s tid = some r →
    exec .scrub s = .next (dropRecord s r)) ∧
  (∀ (s : State) (d h : Nat) (r : Rime), s.input.found = .partialStat d h → s.rime h = some r →
    ∃ t, exec .scrub s = .next t ∧ t.rime h = some { r with lost := true } ∧ ∀ p ∈ (t.die d).partials, p.1 ≠ h) ∧
  (∀ (s : State) (l : Loc) (u : Thread), s.input.found = .parity l true → s.atLoc l = some u →
    exec .scrub s = .next (killParity s u)) ∧
  (∀ (s : State) (l : Loc), s.input.found = .parity l false →
    (∀ u, s.atLoc l = some u →
      exec .scrub s = .next (logError s (dieOfCore u.core) 1 7 u.core 1 0 u.corr.toNat)) ∧
    (s.atLoc l = none → exec .scrub s = .next s)) ∧
  (∀ (s : State) (f : Nat), s.input.found = .vparity f →
    exec .scrub s = .next ((s.threads.filter fun t => floeOfCore t.core = f && 0 < t.gran).foldl killParity s)) ∧
  (∀ (s : State) (h : Nat), s.input.found = .clean h →
    ∃ t, exec .scrub s = .next t ∧ ∀ k, k ∈ t.sync.retired ↔ k ∈ s.sync.retired ∧ k ≠ h) ∧
  (∀ (s : State) (b : Nat), s.input.found = .bank b → (s.bank b).poison = false →
    ∃ t, exec .scrub s = .next t ∧ (t.bank b).poison = true ∧ (t.bank b).prices = (s.bank b).prices)

/-- R66, R83, R93, R98, R190, R367: another package's accesses of this package's eight stacks act at their homes, an atomic returns the
old bytes, poison answers, and a write of bytes that a collective has still to read waits; a gated island's cores have empty
PLBs. -/
def PeerAndPower : Prop :=
  (∀ (s : State) (pa n : Nat), s.input.access = .load pa n → 1 ≤ n → pa % 128 + n ≤ 128 → pa + n ≤ 2 ^ 39 →
    let key := s.mem.frameKey pa
    ∃ t, exec .peerPackageAccess s = .next t ∧ t.host.reply = some (s.mem.bytes.bytes key n) ∧
      t.host.replyPoison = poisoned s key n ∧ t.mem = s.mem) ∧
  (∀ s : State, leasedPhys s (peerWrites s.input.access).1 (peerWrites s.input.access).2 = true →
    exec .peerPackageAccess s = .next s) ∧
  (∀ (s : State) (pa : Nat) (bs : List Byte), s.input.access = .store pa bs → 1 ≤ bs.length →
    pa % 128 + bs.length ≤ 128 → pa + bs.length ≤ 2 ^ 39 → leasedPhys s pa bs.length = false → Memory.wf s.mem.bytes →
    let key := s.mem.frameKey pa
    ∃ t, exec .peerPackageAccess s = .next t ∧ t.mem.bytes.bytes key bs.length = bs ∧ SameBytesBut s t key bs.length) ∧
  (∀ (s : State) (op pa n e v w : Nat), s.input.access = .amo op pa n e v → pa + n ≤ 2 ^ 39 → pa % n = 0 →
    leasedPhys s pa n = false →
    let key := s.mem.frameKey pa
    (poisoned s key n = true → ∃ t, exec .peerPackageAccess s = .next t ∧ t.host.replyPoison = true ∧ t.mem = s.mem) ∧
    (poisoned s key n = false →
      peerAmo op (8 * n) (s.mem.bytes.read key n) (e % 2 ^ (8 * n)) (v % 2 ^ (8 * n)) = some w → Memory.wf s.mem.bytes →
      ∃ t, exec .peerPackageAccess s = .next t ∧ t.host.reply = some (leBytes n (s.mem.bytes.read key n)) ∧
        t.mem.bytes.bytes key n = leBytes n w ∧ SameBytesBut s t key n)) ∧
  (∀ (s : State) (op pa v : Nat) (f : Fmt), s.input.access = .red op f pa v → pa + (f.width + 7) / 8 ≤ 2 ^ 39 →
    leasedPhys s pa ((f.width + 7) / 8) = false →
    ∃ t, exec .peerPackageAccess s = .next t ∧ t.mem = reduce s.mem op f (s.mem.frameKey pa) (v % 2 ^ f.width)) ∧
  (∀ (s : State) (pa : Nat) (l : List (Nat × Byte)), s.input.access = .writeBack pa l → pa % 128 = 0 → pa < 2 ^ 39 →
    (∀ e ∈ l, e.1 < 128) → leasedPhys s pa (peerWrites s.input.access).2 = false →
    let key := s.mem.frameKey pa
    ∃ t, exec .peerPackageAccess s = .next t ∧
      (∀ k, (∀ e ∈ l, k ≠ key + e.1) → t.mem.bytes.get k = s.mem.bytes.get k) ∧
      ∀ o b, l = [(o, b)] → Memory.wf s.mem.bytes → t.mem.bytes.get (key + o) = b) ∧
  (∀ s : State,
    let i := s.input.island
    ∃ t, exec .islandPowerGating s = .next t ∧ (t.island i).gated = s.input.good ∧ (t.island i).prev = (s.island i).prev ∧
      SameBytes s t ∧ t.th = s.th ∧
      (s.input.good = true → ∀ e ∈ t.mem.plb, islandOfFloe (floeOfCore e.1) ≠ i) ∧
      (s.input.good = false → t.mem = s.mem))

/-- R28, R36, R39, R42, R43, R66, R68, R70, R80, R82 to R85, R93, R98, R100, R131, R139, R218, R247, R248, R289 to R298, R324,
R337, R351 to R354, R357, R360, R364, R366 to R371:
every step of a slot's counts and messages, the walkers, the stream ports, the copy and matrix engines, the objects, a soft
error, another package's access and power gating has its own effect where its conditions hold. -/
def Obligations.SlotEngineAndMemoryEvents : Prop :=
  SlotEvents ∧ StreamEvents ∧ CopyEvents ∧ MatrixEvents ∧ ObjectEvents ∧ SoftErrors ∧ PeerAndPower

/-! ### Steps of other agents: collectives, links, router -/

/-- The operation that an event names, as its identity finds it. -/
def Names (s : State) (o : FabOp) : Prop := eventOp s = some o ∧ s.fabOp o.id = some o

/-- R267, R272, R300 to R302, R388, R389: a group's report opens a generation or enters it, and the report of a clear takes the
members' blocks that have no place; an own block of a good group whose coordinating expander is this package's reaches it, in the
order of issue, and takes its number, and so does another package's; another package's descriptor takes a place; once all have come
and agree, the next item is admitted. -/
def GroupsAndAdmission : Prop :=
  (∀ (s : State) (l : List Member),
    let g := s.input.group
    let n := s.input.node
    let l' := namedBy n l
    let ms := onNode l' n
    s.input.list = some l → ms ≠ [] →
    (s.coord g = none → ∃ t c, exec .groupReport s = .next t ∧ t.coord g = some c ∧ c.gen = 1 ∧ c.list = l' ∧
      c.recorded = ms ∧ t.mem = s.mem) ∧
    (∀ c, s.coord g = some c → c.list = l' → (∀ m ∈ ms, m ∉ c.recorded) →
      ∃ t c', exec .groupReport s = .next t ∧ t.coord g = some c' ∧ c'.gen = c.gen ∧ c'.recorded = c.recorded ++ ms ∧
        c'.waiting = c.waiting) ∧
    (∀ c, s.coord g = some c → c.list ≠ l' ∨ (∃ m ∈ ms, m ∈ c.recorded) →
      ∃ t c', exec .groupReport s = .next t ∧ t.coord g = some c' ∧ c'.gen = c.gen + 1 ∧ c'.list = l' ∧ c'.recorded = ms ∧
        c'.waiting = [] ∧ c'.order = [])) ∧
  (∀ (s : State) (c : Coord), s.input.list = none → s.coord s.input.group = some c →
    let ms := onNode c.list s.input.node
    ∃ t, exec .groupReport s = .next t ∧ t.coord s.input.group = some { c with
      cleared := ms ++ c.cleared
      waiting := c.waiting.filter fun a => c.order.contains (.block a.num) || !ms.contains (a.node, a.floe) }) ∧
  (∀ (s : State) (o : FabOp) (c : Coord) (g : Group) (a : Nat), s.input.fwd = .own a → Names s o → o.stage = .issued →
    o.mc = false → mayForward s o = true → s.group o.group = some g → g.dead = false → g.known = true → cutOff s o = false →
    coordinated s o = true → s.coord o.group = some c → arrivalStatus (some c) (s.node, o.floe) = none →
    (s.node, o.floe) ∉ c.cleared →
    ∃ t c', exec .blockForward s = .next t ∧ t.fabOp o.id = some { o with stage := .sent } ∧ t.coord o.group = some c' ∧
      c'.waiting = c.waiting ++
        [⟨s.node, o.floe, (memberVal c.counts (s.node, o.floe)).getD 0, o.key, some o.id, none⟩]) ∧
  (∀ (s : State) (n f : Nat) (key : BlockKey) (c : Coord), s.input.fwd = .peer n f key →
    s.coord s.input.group = some c → arrivalStatus (some c) (n, f) = none → (n, f) ∉ c.cleared →
    ∃ t c', exec .blockForward s = .next t ∧ t.coord s.input.group = some c' ∧
      c'.waiting = c.waiting ++ [⟨n, f, (memberVal c.counts (n, f)).getD 0, key, none, none⟩]) ∧
  (∀ (s : State) (n : Nat) (desc : BitVec 512) (c : Coord), s.input.fwd = .peerMc n desc →
    s.coord s.input.group = some c → mcStatus (some c) n = none →
    ∃ t, exec .blockForward s = .next t ∧
      t.coord s.input.group = some { c with order := c.order ++ [.peer n (desc.setWidth 1024)] }) ∧
  (∀ (s : State) (c : Coord) (num : Nat) (rest : List Admission),
    let g := s.input.group
    let ws := c.waiting.filter fun a => a.num = num
    let own := ws.filterMap fun a => a.op.map fun i => (a.key.rank, i)
    (∀ p ∈ s.fab.plans, p.group ≠ g) → s.coord g = some c → c.order = .block num :: rest → own ≠ [] → c.dead = false →
    agreeAll (ws.map (·.key)) = true →
    ∃ t p, exec .blockAdmit s = .next t ∧ t.fab.plans = s.fab.plans ++ [p] ∧ p.group = g ∧ p.members = c.list ∧
      p.own = own ∧ (p.ready = true ↔ p.key.op = 7) ∧ (∀ a ∈ ws, a.key.rank = 0 → p.key.rank = 0) ∧
      p.alg = algOf p.key.op p.key.alg ∧
      (∀ e ∈ own, ∀ q, t.fabOp e.2 = some q → q.stage = .admitted) ∧ t.mem = s.mem)

/-- The stream of an event is to be taken up by a ready plan of the event's group, which still expects some of it (R302). -/
def Streams (s : State) (p : Plan) : Prop :=
  s.fab.plans.find? (fun p => p.group = s.input.group && p.ready) = some p ∧ p.uses s.input.flow = true ∧
    p.isDry s.input.flow = false

/-- A plan of a list as it was, and one in whose place it stands. -/
def Replans (s t : State) (p q : Plan) : Prop := t.fab.plans = s.fab.plans.map fun x => if x = p then q else x

/-- R302 to R307, R377: a plan takes its windows port by port and then its accumulators, and its data may move; a packet of a stream
of this package is read and formed, takes a slot of each window of its route, and reaches the operations here that it is for; so does
a packet of another package's; a stream from whose source no more comes, or of which word says so, is at its end; a free notice
gives a slot back; a window of an in-switch reduction goes out at its reduction point, of which another package has word. -/
def PlansAndSteps : Prop :=
  (∀ (s : State) (p : Plan), s.fab.plans.find? (fun p => p.group = s.input.group && !p.ready) = some p →
    let f := s.input.flow
    let own := p.uses f = true → s.ownNode (p.srcNode f) = true
    let x (n : Nat) : FabPort := s.port n
    (∀ h rest, own → p.hops.filter (fun h => !h.held) = h :: rest →
      p.lowerNodes s = false ∨ s.input.good = true ∨ (∃ g ∈ p.hops, g.held = true) → h.port < 24 → (x h.port).up = true →
      (x h.port).slots + h.win ≤ 512 →
      ∃ t, exec .planReservation s = .next t ∧ t.mem = s.mem ∧ t.port h.port = { x h.port with slots := (x h.port).slots + h.win } ∧
        Replans s t p { p with hops := p.hops.map fun g => if g = h then { g with held := true } else g }) ∧
    (own → p.hops.filter (fun h => !h.held) = [] →
      (p.lowerNodes s = true ∨ p.higherNodes s = true → s.input.good = true) →
      s.fab.plans.foldl (fun a q => a + q.accs) (accNeed s p) ≤ accBytes →
      ∃ t, exec .planReservation s = .next t ∧ t.mem = s.mem ∧ Replans s t p { p with ready := true, accs := accNeed s p }) ∧
    (let n := s.input.port
     let w := min 16 s.input.len
     p.uses f = true → s.ownNode (p.srcNode f) = false → (∀ q ∈ p.dstNodes f, s.ownNode q = false) → n < 24 →
     (∀ h ∈ p.hops, if h.held = true then h.port ≤ n else n ≤ h.port) → (∀ h ∈ p.hops, h.way ≠ p.way f) →
     (x n).up = true → (x n).slots + w ≤ 512 →
     ∃ t, exec .planReservation s = .next t ∧ t.mem = s.mem ∧ t.port n = { x n with slots := (x n).slots + w } ∧
       Replans s t p { p with hops := insertHop ⟨p.way f, n, w, true, 0⟩ p.hops })) ∧
  (∀ (i : Instr) (s s1 s2 : State) (p q : Plan) (bs : List Byte) (te : Nat),
    let f := s.input.flow
    let k := p.pos f
    let n := min (p.most f) (p.ready_ s f - k)
    i = .collectiveStep ∨ (i = .reductionWindowComplete ∧ p.reduces = true ∧ p.alg = 3 ∧ ∃ r, f = .cast r) →
    Streams s p → s.ownNode (p.srcNode f) = true →
    (p.starved s f = true → ∃ t, exec i s = .next t ∧ t.mem = s.mem ∧ Replans s t p { p with dry := f :: p.dry }) ∧
    (p.starved s f = false → 0 < n → hasUnit s p f = true → packet s p f k n = .data s1 bs te →
      takeCredit s1 p f (n * p.unit f) = some (s2, q) → p.own ≠ [] → s1.fab = s.fab →
      ∃ t, exec i s = .next t ∧ t.mem = s1.mem ∧ (∃ p' ∈ t.fab.plans, p'.group = p.group ∧ p'.pos f = k + n) ∧
        ∀ a b e o, f = .direct a b → p.own.find? (fun e => e.1 = b) = some e → s.fabOp e.2 = some o →
          ∃ o', t.fabOp e.2 = some o' ∧ o'.got = hold o.got a bs)) ∧
  (∀ (s : State) (p : Plan),
    let f := s.input.flow
    Streams s p → s.ownNode (p.srcNode f) = false →
    (∀ (bs : List Byte) (n : Nat), s.input.data = some bs → 0 < n → bs.length = n * p.unit f → 0 < p.unit f →
      bs.length ≤ 1024 → p.pos f + n ≤ p.len s f → (∃ q ∈ p.dstNodes f, s.ownNode q = true) → p.own ≠ [] →
      ∃ t, exec .collectiveStep s = .next t ∧ t.mem = s.mem ∧
        (∃ p' ∈ t.fab.plans, p'.group = p.group ∧ p'.pos f = p.pos f + n) ∧
        ∀ a b e o, f = .direct a b → p.own.find? (fun e => e.1 = b) = some e → s.fabOp e.2 = some o →
          ∃ o', t.fabOp e.2 = some o' ∧ o'.got = hold o.got a bs) ∧
    (s.input.data = none → p.pos f < p.len s f →
      ∃ t, exec .collectiveStep s = .next t ∧ t.mem = s.mem ∧ Replans s t p { p with dry := f :: p.dry })) ∧
  (∀ (s : State) (p : Plan) (h : Hop),
    let x := s.port s.input.port
    groupPlan s s.input.group = some p →
    p.hops.find? (fun h => h.way = p.way s.input.flow && h.port = s.input.port && 0 < h.used) = some h →
    ∃ t, exec .slotFreeNotice s = .next t ∧ t.port s.input.port = { x with used := x.used - 1 } ∧ t.mem = s.mem ∧
      t.fab.ops = s.fab.ops ∧
      Replans s t p { p with hops := p.hops.map fun g => if g = h then { g with used := g.used - 1 } else g }) ∧
  (∀ (s : State) (p : Plan), s.fab.plans.find? (fun p => p.group = s.input.group && p.ready) = some p → p.reduces = true →
    p.alg = 3 → s.ownNode p.head = false →
    ∃ t, exec .reductionWindowComplete s = .next t ∧ t.mem = s.mem ∧ t.fab.ops = s.fab.ops ∧
      Replans s t p { p with out := min p.elems ((p.out / max 1 p.window + 1) * p.window) })

/-- Nothing has changed but which ranges the collectives have still to read. -/
def OnlyLeases (s t : State) : Prop := t = { s with fab := { s.fab with leases := t.fab.leases } }

/-- R264, R274 to R277, R281, R300, R376 to R378, R390: a chunk whose bytes are final is delivered, and a descriptor's result written;
a timeout, an abort or the loss of the coordinating expander decides an operation that is not decided, and a descriptor only before a
write of its result has begun; word of a loss reaches the plan; a decided operation writes its last fields and leaves. -/
def DeliveriesAndEnds : Prop :=
  (∀ (s s2 : State) (o : FabOp) (p : Plan) (te : Nat),
    let q := s.input.chunk
    Names s o → planOf s o.id = some p → p.ready = true → o.status = none → o.mc = false → q < o.chunkCount →
    q ∉ o.chunks → o.chunkFinal q = true → chunkOp s o q = .done s2 te → s2.fab.ops = s.fab.ops →
    ∃ t o', exec .chunkDelivery s = .next t ∧ t.mem = s2.mem ∧ t.fabOp o.id = some o' ∧ o'.chunks = o.chunks ++ [q] ∧
      o'.te = max o.te te) ∧
  (∀ (s s2 : State) (o : FabOp) (p : Plan) (core a te : Nat),
    let r := s.input.rank
    let n := p.result.length
    let lid := ((p.opAt s 0).map (·.by_.lid)).getD noLid
    Names s o → planOf s o.id = some p → o.mc = true → r ∉ p.written → p.elems ≤ p.pos (.cast 0) →
    (∀ e ∈ p.own, ∃ q, s.fabOp e.2 = some q ∧ q.status = none) →
    (p.mcTargets s).find? (fun t => t.1 = r) = some (r, core, a) → foreignScratch (p.mcBy s).2 core a n = false →
    engineOp (noteRows (settle s a n) lid [(a, n)]) core (p.mcBy s).1 p.te [] [(a, n)] (fun _ => p.result) = .done s2 te →
    s2.fab.plans = s.fab.plans →
    ∃ t, exec .chunkDelivery s = .next t ∧ t.mem = s2.mem ∧
      ∃ p' ∈ t.fab.plans, p'.group = p.group ∧ p'.written = r :: p.written) ∧
  (∀ (s : State) (o : FabOp), Names s o → o.status = none →
    (o.tmo ≠ 0 → mcBegun s o = false → ∃ t, exec .collectiveTimeout s = .next t ∧
      t.fabOp o.id = some { o with status := some 9 } ∧ t.mem = s.mem) ∧
    (o.tmo = 0 ∨ mcBegun s o = true → ∃ t, exec .collectiveTimeout s = .next t ∧ OnlyLeases s t) ∧
    (∀ p, o.mc = false → planOf s o.id = some p → ∃ t, exec .abortWord s = .next t ∧ t.mem = s.mem ∧
      ∀ e ∈ p.own, ∀ q, s.fabOp e.2 = some q → q.status = none → t.fabOp e.2 = some { q with status := some 5 }) ∧
    ((o.mc = false ∧ planOf s o.id = none) ∨ (o.mc = true ∧ mcBegun s o = false) → ∃ t, exec .abortWord s = .next t ∧
      t.mem = s.mem ∧ t.fabOp o.id = some { o with status := some 5 }) ∧
    (mcBegun s o = true → ∃ t, exec .abortWord s = .next t ∧ OnlyLeases s t) ∧
    (lostRanks s o.members ≠ [] → cutOff s o = true ∨ planOf s o.id = none →
      ∃ t, exec .memberLossWord s = .next t ∧ t.fabOp o.id = some { o with status := some 6 } ∧ t.mem = s.mem) ∧
    (∀ p, lostRanks s o.members ≠ [] → cutOff s o = false → planOf s o.id = some p → p.mc = none →
      ∃ t, exec .memberLossWord s = .next t ∧ t.mem = s.mem ∧ ∃ p' ∈ t.fab.plans, p'.group = p.group ∧
        ∀ r ∈ lostRanks s p.members, ∀ m, p.members[r]? = some m → m.node ∈ p'.lost)) ∧
  (∀ (s s2 : State) (o : FabOp) (st te : Nat), s.input.node = 0 → Names s o → o.status = some st → o.stage ≠ .issued →
    (o.mc = true → finalOp s o (finalWrites s o st none) = some (s2, te) →
      ∃ t, exec .collectiveDecided s = .next t ∧ ∀ q ∈ t.fab.ops, q.id ≠ o.id) ∧
    (o.mc = false → cutOff s o = true ∨ (planOf s o.id = none ∧ inMatched s o = false) → finalOp s o (finalWrites s o st (some (aloneStatuses o st))) = some (s2, te) →
      ∃ t, exec .collectiveDecided s = .next t ∧ ∀ q ∈ t.fab.ops, q.id ≠ o.id) ∧
    (∀ p l, o.mc = false → cutOff s o = false → planOf s o.id = some p → statusesOf s o p = some l →
      finalOp s o (finalWrites s o st (some l)) = some (s2, te) →
      ∃ t, exec .collectiveDecided s = .next t ∧ ∀ q ∈ t.fab.ops, q.id ≠ o.id))

/-- R6, R373 to R375: a good flit in sequence is taken and acknowledges others, a bad one begins a retry and the 16th failure in a row
a retraining; a retry request moves the replay point, a missing acknowledgement retrains, a retraining brings the port up, to replay
what is not acknowledged, or down; a number that names none of the 32 ports does nothing; a node is lost or re-admitted. -/
def LinksAndNodes : Prop :=
  (∀ s : State,
    let i := s.input
    let x := s.port i.port
    let k := x.acked + (i.seq + 4096 - x.acked % 4096) % 4096
    i.port < 32 →
    (x.up = true → x.training = false → x.retry = false → i.good = true → i.seq = x.expect →
      exec .flitReceive s = .next (s.setPort { x with
        expect := (x.expect + 1) % 4096, retry := false, fails := 0, acked := min x.replay (x.acked + i.ack) })) ∧
    (x.up = true → x.training = false → x.retry = true → i.good = true → i.seq = x.expect →
      ∃ t, exec .flitReceive s = .next t ∧ t.port i.port = { x with
        expect := (x.expect + 1) % 4096, retry := false, fails := 0, acked := min x.replay (x.acked + i.ack) }) ∧
    (x.up = true → x.training = false → x.retry = false → i.good = false → ∃ t, exec .flitReceive s = .next t ∧
      (t.port i.port).retry = true ∧ (t.port i.port).fails = 1 ∧ (t.port i.port).training = false) ∧
    (x.up = true → x.training = false → x.retry = true → i.good = false → i.seq = x.expect →
      ∃ t, exec .flitReceive s = .next t ∧ (t.port i.port).fails = x.fails + 1 ∧
        (t.port i.port).training = decide (16 ≤ x.fails + 1)) ∧
    (k ≤ x.replay → exec .retryRequest s = .next (s.setPort { x with replay := k })) ∧
    (x.up = true → x.acked < x.replay → exec .ackTimeout s = .next (s.setPort { x with training := true })) ∧
    (x.training = true → i.good = true → ∃ t, exec .linkRetrainDone s = .next t ∧ (t.port i.port).up = true ∧
      (t.port i.port).training = false ∧ (t.port i.port).retry = false ∧ (t.port i.port).replay = x.acked) ∧
    (x.training = true → i.good = false → ∃ t, exec .linkRetrainDone s = .next t ∧ (t.port i.port).up = false ∧
      (t.port i.port).training = false ∧ (LogRoom s 4 → Logged s t 4))) ∧
  (∀ (s : State) (i : Instr), i = .flitReceive ∨ i = .retryRequest ∨ i = .ackTimeout ∨ i = .linkRetrainDone →
    32 ≤ s.input.port → exec i s = .next s) ∧
  (∀ (s : State) (i : Instr), i = .nodeLost ∨ i = .nodeLeave →
    let n := s.input.node
    0 < n → n < 4096 → n ≠ s.node → s.isLost n = false →
    ∃ t, exec i s = .next t ∧ t.fab.lost = n :: s.fab.lost ∧ t.th = s.th ∧ (LogRoom s 4 → Logged s t 4) ∧
      ∀ g, t.group g = (s.group g).map fun x => if names x.members n = true then { x with dead := true } else x) ∧
  (∀ s : State, s.isLost s.input.node = true →
    ∃ t, exec .nodeReadmit s = .next t ∧ t.isLost s.input.node = false ∧ t.th = s.th ∧
      ∀ n, n ≠ s.input.node → t.isLost n = s.isLost n)

/-- R283, R284, R315 to R319, R321, R380: the oldest run on a bank that is not poisoned takes its scores and prices; a round runs while
copies are unassigned and rounds are left, completion places the rest at the limit; the end writes the outputs, stores the
prices less their least, and leaves; a failed run ends FAULT. -/
def RouterRuns : Prop :=
  (∀ (s : State) (r : Run), eventRun s = some r →
    let v := r.view
    let b := r.by_
    let s1 := settleRows s (asgRange v :: rowsRange v :: scoreRows v)
    (r.begun = false → r.failed = false → firstOnBank s r = true →
      ((s.bank v.bank).poison = true → exec .runBegin s = .next (setRunOf s { r with failed := true })) ∧
      (∀ l la lr, (s.bank v.bank).poison = false → spansList s1 b.core b.tenant .rd (scoreRows v) = .ok l →
        spansList s1 b.core b.tenant .wr [asgRange v] = .ok la → spansList s1 b.core b.tenant .wr [rowsRange v] = .ok lr →
        ∃ t r', exec .runBegin s = .next t ∧ eventRun t = some r' ∧ r'.begun = true ∧ r'.failed = false ∧
          r'.scores = scoresOf v (v.ntok * v.nexp) (engineRead s1 l) ∧ r'.block = r.block ∧ r'.rounds = r.rounds ∧
          r'.prices = (List.range v.nexp).map (s.bank v.bank).price ∧ SameBytes s1 t)) ∧
    (r.begun = true → r.failed = false → r.left ≠ [] →
      (r.rounds < v.lim → exec .biddingRound s = .next (setRunOf s r.round)) ∧
      (r.rounds = v.lim → exec .routerCompletion s = .next (setRunOf s r.complete))) ∧
    (r.failed = true → exec .routerRunEnd s = .next (endRun (setRunOf s r) r 8 0 0 r.te)) ∧
    (∀ s3 s5 te te', r.begun = true → r.failed = false → r.left = [] → r.stage = 0 → (s.bank v.bank).poison = false →
      let s2 := noteRows (settleRows s [asgRange v]) b.lid [asgRange v]
      let s4 := noteRows (settleRows s3 [rowsRange v]) b.lid [rowsRange v]
      let r2 : Run := { r with stage := 2, te := te' }
      engineOp s2 b.core b.tenant r.te [] [asgRange v]
        (fun _ => r.asgList.flatMap fun p => leBytes 4 p.1 ++ leBytes 4 p.2) = .done s3 te →
      engineOp s4 b.core b.tenant te [] [rowsRange v] (fun _ => r.rowList.flatMap fun x => leBytes 4 x) = .done s5 te' →
      exec .routerRunEnd s = .next
        (endRun (setRunOf (s5.setBank ((s5.bank v.bank).setAll 0 r.stored)) r2) r2 (if r.fill = 0 then 0 else 10) r.rounds
          r.fill te'))) ∧
  (∀ (r : Run) (p : Int), p ∈ r.stored → 0 ≤ p ∧ p ≤ 0x7FFFFFFF) ∧
  (∀ r : Run, r.round.rounds = r.rounds + 1 ∧ r.round.held.length = r.view.nexp ∧ r.round.prices.length = r.view.nexp)

/-- R264, R267, R272 to R277, R283, R284, R300 to R307, R315 to R319, R373 to R378, R388 to R390: every step of the expander, the
links, the nodes and the router has its own effect where its conditions hold. -/
def Obligations.FabricEvents : Prop :=
  GroupsAndAdmission ∧ PlansAndSteps ∧ DeliveriesAndEnds ∧ LinksAndNodes ∧ RouterRuns

/-! ### Steps, words, reset -/

/-- What issuing an instruction records: its core's last slot and the count of issued instructions (R40, R205). -/
def issued (s : State) : State :=
  State.count { s with host := { s.host with last := put s.host.last s.th.core s.th.slot } } 0x02

/-- R39, R40, R136, R165, R179: a slot's turn. The cycle passes; a slot that may issue and whose next word lies in executable memory,
in its core's L1I or at its home, holds no poison and decodes to an instruction runs that instruction, with the word in `ir`, its
sector in the L1I, and the issue recorded unless the instruction is executed again after a wait. Around `exec` the step adds what
`afterIssue` does to the debug module, and `closeStep`: where no matrix work is queued and no cache is overfull, that is
`plbEvict`. An event's turn runs the event with its input, and then the cycle passes. -/
def Obligations.StepRunsTheDecodedInstruction : Prop :=
  (∀ (s : State) (l : Loc) (rest : List Turn) (key : Nat) (cls : Cls) (w : Lane) (x : Word32), s.turns = .issue l :: rest →
    let s0 : State := { s with took := none, turns := rest }
    let s1 := tick (selectSlot s0 l) (some l)
    let s2 : State := { s1 with th := { s1.th with wait := .none } }
    let pc := s2.th.pc.toNat
    let s3 := fillI s2 s2.th.pc
    let s4 : State := { s3 with th := { s3.th with ir := w } }
    let s5 := if s1.th.wait = .none then issued s4 else s4
    mayIssue s0 l = true → (∀ c, s1.th.wait ≠ .dying c) → s1.th.vpart = none → (∀ d ∈ s1.host.dbg, d.core ≠ s1.th.core) →
    s1.th.pin = none → pc % 4 = 0 → region pc = .virt → resolve s2 s2.th.core s2.tenant .ex pc = .ok key cls →
    (s2.copyI s2.th.core pc = none ∧ poisoned s2 key 4 = false ∧ w = BitVec.ofNat 32 (s2.mem.bytes.read key 4)) ∨
      (∃ c, s2.copyI s2.th.core pc = some c ∧ c.bad = false ∧ w = BitVec.ofNat 32 (c.data.read (pc % 128) 4)) →
    decode s2.th.enc w.toNat = some x →
    ∀ t, exec x.instr s5 = .next t → step s = .next (closeStep (afterIssue s5 t))) ∧
  (∀ (s : State) (e : Instr) (inp : Input) (rest : List Turn), s.turns = .happen e inp :: rest →
    (e.isWord = true → step s = .fault .notAnEvent) ∧
    ∀ t, e.isWord = false → e ≠ .illegalInstruction →
      exec e { s with took := none, turns := rest, input := inp } = .next t → step s = .next (closeStep (tick t none))) ∧
  (∀ s t : State, afterIssue s t = { t with host := { t.host with dbg := (afterIssue s t).host.dbg } } ∧
    plbEvict t = { t with mem := { t.mem with plb := (plbEvict t).mem.plb } } ∧
    (matrixIdle t = true → t.mem.l1.length ≤ 12 → t.mem.l1i.length ≤ 4 → t.mem.l2.length ≤ 24 →
      closeStep t = { plbEvict t with limit := 0, lossy := none }))

/-- R136, R137, R143 to R165: words that the spec writes out beside the instruction that each stands for (the encoding examples
of files 08 to 12 and of the programs) decode to it; the words of a reserved major and all ones name none. -/
def Obligations.WordsDecode : Prop :=
  decode 3 0x12501000 = some ⟨0, .addi 10 0 4096⟩ ∧
  decode 3 0x1C2A9001 = some ⟨0, .ld 5 10 .i32 .hd 1⟩ ∧
  decode 3 0xA5088684 = some ⟨2, .vfma .f32 1 2 3 2 .rne⟩ ∧
  decode 3 0x00000032 = some ⟨0, .fenceScDie⟩ ∧
  decode 3 0x02024104 = some ⟨0, .csrrw 0 9 0x104⟩ ∧
  decode 3 0x1E328E68 = some ⟨0, .famoadd 6 10 7 .hd .f32⟩ ∧
  decode 3 0x0C2FF003 = some ⟨0, .bbs 5 63 3⟩ ∧
  decode 3 0x04FFFFFB = some ⟨0, .jal (-5)⟩ ∧
  decode 3 0x0D02C003 = some ⟨0, .rep 11 3⟩ ∧
  decode 3 0xE5204601 = some ⟨3, .vfsub .f32 4 1 3 0 .rne⟩ ∧
  decode 3 0x2E385824 = some ⟨0, .vqcvt 7 1 12 0 .e4m3⟩ ∧
  decode 3 0x30C28002 = some ⟨0, .vsbindRd 0 10⟩ ∧
  decode 3 0x38054B18 = some ⟨0, .mxTask 10 11 3⟩ ∧
  decode 3 0x3908002F = some ⟨0, .cpGet 5 7⟩ ∧
  decode 3 0x3A0D4B28 = some ⟨0, .barArrw 10 11 5⟩ ∧
  decode 3 0x3B1719C8 = some ⟨0, .rimeRd 24 25 25⟩ ∧
  decode 3 0x3C0D4B28 = some ⟨0, .collStx 10 11 5⟩ ∧
  decode 3 0x3D0D2A00 = some ⟨0, .aucPget 9 10 0⟩ ∧
  decode 3 0x3E000000 = none ∧ decode 3 0xFFFFFFFF = none

/-- R136 to R168: every well-formed instruction, with every operand and every stall count that its encoding admits, has a 32-bit
word, and decoding that word gives the instruction back. -/
def Obligations.DecodeOfEncode : Prop :=
  ∀ (ver : Nat) (x : Word32), wellFormed ver x = true → x.instr.isWord = true →
    ∃ n, n < 2 ^ 32 ∧ encode x = some n ∧ decode ver n = some x

/-- R80: a core's PLB holds at most 128 entries, after every step. -/
def Obligations.EveryStepKeepsThePlbWithinBounds : Prop :=
  ∀ s t : State, PlbFits s → step s = .next t → PlbFits t

/-- R24, R33, R78, R245, R325, R326, R333, R383: the machine after reset. BOOTSTAT reads 0 and the time unit is free-running at 0, no
slot holds a thread, no launch is in the table, every ring is disabled, every ring of a floe is unconfigured, every price is 0,
every BAR0 register reads 0, and every PLB is empty. Memory bytes read 0 by the model's choice (log entry 1). -/
def Obligations.ResetState : Prop :=
  State.reset.host.boot = 0 ∧ State.reset.host.tries = 0 ∧ State.reset.host.time = ⟨0, 0, none, 0, 0, 0, 0⟩ ∧
  State.reset.threads = [] ∧ State.reset.lp.launches = [] ∧
  (∀ r, (State.reset.ring r).en = false ∧ (State.reset.ring r).halted = false ∧ (State.reset.ring r).head = 0 ∧
    (State.reset.ring r).tail = 0) ∧
  (∀ f n, ((State.reset.floe f).ring n).cfgd = false) ∧
  (∀ b e, (State.reset.bank b).price e = 0) ∧ (∀ o, barRead State.reset o = 0) ∧
  (∀ c, ¬ (State.reset.dbg c).halted = true) ∧ State.reset.mem.plb = [] ∧ PlbFits State.reset ∧
  (∀ k, State.reset.mem.bytes.get k = 0)
end

