-- ==== Sys2Proof/Laws/State.lean ====
section
/-! SUPPORT. What each update of the state leaves alone, field by field, and what reading a register after writing one gives. -/

namespace Sys2Proof.Machine

set_option linter.unusedVariables false

/-! `State.onMem` -/

@[simp] theorem onMem_th (s : State) (f : MemSys → MemSys) : (s.onMem f).th = s.th := rfl
@[simp] theorem onMem_slots (s : State) (f : MemSys → MemSys) : (s.onMem f).slots = s.slots := rfl
@[simp] theorem onMem_sync (s : State) (f : MemSys → MemSys) : (s.onMem f).sync = s.sync := rfl
@[simp] theorem onMem_floes (s : State) (f : MemSys → MemSys) : (s.onMem f).floes = s.floes := rfl
@[simp] theorem onMem_lp (s : State) (f : MemSys → MemSys) : (s.onMem f).lp = s.lp := rfl
@[simp] theorem onMem_fab (s : State) (f : MemSys → MemSys) : (s.onMem f).fab = s.fab := rfl
@[simp] theorem onMem_host (s : State) (f : MemSys → MemSys) : (s.onMem f).host = s.host := rfl
@[simp] theorem onMem_input (s : State) (f : MemSys → MemSys) : (s.onMem f).input = s.input := rfl
@[simp] theorem onMem_turns (s : State) (f : MemSys → MemSys) : (s.onMem f).turns = s.turns := rfl
@[simp] theorem onMem_fresh (s : State) (f : MemSys → MemSys) : (s.onMem f).fresh = s.fresh := rfl
@[simp] theorem onMem_limit (s : State) (f : MemSys → MemSys) : (s.onMem f).limit = s.limit := rfl
@[simp] theorem onMem_lossy (s : State) (f : MemSys → MemSys) : (s.onMem f).lossy = s.lossy := rfl
@[simp] theorem onMem_took (s : State) (f : MemSys → MemSys) : (s.onMem f).took = s.took := rfl

/-! `State.setLine` -/

@[simp] theorem setLine_th (s : State) (l : Line) : (s.setLine l).th = s.th := rfl
@[simp] theorem setLine_slots (s : State) (l : Line) : (s.setLine l).slots = s.slots := rfl
@[simp] theorem setLine_sync (s : State) (l : Line) : (s.setLine l).sync = s.sync := rfl
@[simp] theorem setLine_floes (s : State) (l : Line) : (s.setLine l).floes = s.floes := rfl
@[simp] theorem setLine_lp (s : State) (l : Line) : (s.setLine l).lp = s.lp := rfl
@[simp] theorem setLine_fab (s : State) (l : Line) : (s.setLine l).fab = s.fab := rfl
@[simp] theorem setLine_host (s : State) (l : Line) : (s.setLine l).host = s.host := rfl
@[simp] theorem setLine_input (s : State) (l : Line) : (s.setLine l).input = s.input := rfl
@[simp] theorem setLine_turns (s : State) (l : Line) : (s.setLine l).turns = s.turns := rfl
@[simp] theorem setLine_fresh (s : State) (l : Line) : (s.setLine l).fresh = s.fresh := rfl
@[simp] theorem setLine_limit (s : State) (l : Line) : (s.setLine l).limit = s.limit := rfl
@[simp] theorem setLine_lossy (s : State) (l : Line) : (s.setLine l).lossy = s.lossy := rfl
@[simp] theorem setLine_took (s : State) (l : Line) : (s.setLine l).took = s.took := rfl

/-! `State.homePut` -/

@[simp] theorem homePut_th (s : State) (k : Nat) (bs : List Byte) : (s.homePut k bs).th = s.th := rfl
@[simp] theorem homePut_slots (s : State) (k : Nat) (bs : List Byte) : (s.homePut k bs).slots = s.slots := rfl
@[simp] theorem homePut_sync (s : State) (k : Nat) (bs : List Byte) : (s.homePut k bs).sync = s.sync := rfl
@[simp] theorem homePut_floes (s : State) (k : Nat) (bs : List Byte) : (s.homePut k bs).floes = s.floes := rfl
@[simp] theorem homePut_lp (s : State) (k : Nat) (bs : List Byte) : (s.homePut k bs).lp = s.lp := rfl
@[simp] theorem homePut_fab (s : State) (k : Nat) (bs : List Byte) : (s.homePut k bs).fab = s.fab := rfl
@[simp] theorem homePut_host (s : State) (k : Nat) (bs : List Byte) : (s.homePut k bs).host = s.host := rfl
@[simp] theorem homePut_input (s : State) (k : Nat) (bs : List Byte) : (s.homePut k bs).input = s.input := rfl
@[simp] theorem homePut_turns (s : State) (k : Nat) (bs : List Byte) : (s.homePut k bs).turns = s.turns := rfl
@[simp] theorem homePut_fresh (s : State) (k : Nat) (bs : List Byte) : (s.homePut k bs).fresh = s.fresh := rfl
@[simp] theorem homePut_limit (s : State) (k : Nat) (bs : List Byte) : (s.homePut k bs).limit = s.limit := rfl
@[simp] theorem homePut_lossy (s : State) (k : Nat) (bs : List Byte) : (s.homePut k bs).lossy = s.lossy := rfl
@[simp] theorem homePut_took (s : State) (k : Nat) (bs : List Byte) : (s.homePut k bs).took = s.took := rfl

/-! `State.raise` -/

@[simp] theorem raise_slots (s : State) (n : Nat) : (s.raise n).slots = s.slots := rfl
@[simp] theorem raise_mem (s : State) (n : Nat) : (s.raise n).mem = s.mem := rfl
@[simp] theorem raise_sync (s : State) (n : Nat) : (s.raise n).sync = s.sync := rfl
@[simp] theorem raise_floes (s : State) (n : Nat) : (s.raise n).floes = s.floes := rfl
@[simp] theorem raise_lp (s : State) (n : Nat) : (s.raise n).lp = s.lp := rfl
@[simp] theorem raise_fab (s : State) (n : Nat) : (s.raise n).fab = s.fab := rfl
@[simp] theorem raise_host (s : State) (n : Nat) : (s.raise n).host = s.host := rfl
@[simp] theorem raise_input (s : State) (n : Nat) : (s.raise n).input = s.input := rfl
@[simp] theorem raise_turns (s : State) (n : Nat) : (s.raise n).turns = s.turns := rfl
@[simp] theorem raise_fresh (s : State) (n : Nat) : (s.raise n).fresh = s.fresh := rfl
@[simp] theorem raise_limit (s : State) (n : Nat) : (s.raise n).limit = s.limit := rfl
@[simp] theorem raise_lossy (s : State) (n : Nat) : (s.raise n).lossy = s.lossy := rfl
@[simp] theorem raise_took (s : State) (n : Nat) : (s.raise n).took = s.took := rfl

/-! `bankTake` -/

@[simp] theorem bankTake_slots (s : State) (k n : Nat) : (bankTake s k n).slots = s.slots := rfl
@[simp] theorem bankTake_sync (s : State) (k n : Nat) : (bankTake s k n).sync = s.sync := rfl
@[simp] theorem bankTake_floes (s : State) (k n : Nat) : (bankTake s k n).floes = s.floes := rfl
@[simp] theorem bankTake_lp (s : State) (k n : Nat) : (bankTake s k n).lp = s.lp := rfl
@[simp] theorem bankTake_fab (s : State) (k n : Nat) : (bankTake s k n).fab = s.fab := rfl
@[simp] theorem bankTake_host (s : State) (k n : Nat) : (bankTake s k n).host = s.host := rfl
@[simp] theorem bankTake_input (s : State) (k n : Nat) : (bankTake s k n).input = s.input := rfl
@[simp] theorem bankTake_turns (s : State) (k n : Nat) : (bankTake s k n).turns = s.turns := rfl
@[simp] theorem bankTake_fresh (s : State) (k n : Nat) : (bankTake s k n).fresh = s.fresh := rfl
@[simp] theorem bankTake_limit (s : State) (k n : Nat) : (bankTake s k n).limit = s.limit := rfl
@[simp] theorem bankTake_lossy (s : State) (k n : Nat) : (bankTake s k n).lossy = s.lossy := rfl
@[simp] theorem bankTake_took (s : State) (k n : Nat) : (bankTake s k n).took = s.took := rfl

/-! `State.wrX` -/

@[simp] theorem wrX_slots (s : State) (d : Reg) (v : Word) : (s.wrX d v).slots = s.slots := rfl
@[simp] theorem wrX_mem (s : State) (d : Reg) (v : Word) : (s.wrX d v).mem = s.mem := rfl
@[simp] theorem wrX_sync (s : State) (d : Reg) (v : Word) : (s.wrX d v).sync = s.sync := rfl
@[simp] theorem wrX_floes (s : State) (d : Reg) (v : Word) : (s.wrX d v).floes = s.floes := rfl
@[simp] theorem wrX_lp (s : State) (d : Reg) (v : Word) : (s.wrX d v).lp = s.lp := rfl
@[simp] theorem wrX_fab (s : State) (d : Reg) (v : Word) : (s.wrX d v).fab = s.fab := rfl
@[simp] theorem wrX_host (s : State) (d : Reg) (v : Word) : (s.wrX d v).host = s.host := rfl
@[simp] theorem wrX_input (s : State) (d : Reg) (v : Word) : (s.wrX d v).input = s.input := rfl
@[simp] theorem wrX_turns (s : State) (d : Reg) (v : Word) : (s.wrX d v).turns = s.turns := rfl
@[simp] theorem wrX_fresh (s : State) (d : Reg) (v : Word) : (s.wrX d v).fresh = s.fresh := rfl
@[simp] theorem wrX_limit (s : State) (d : Reg) (v : Word) : (s.wrX d v).limit = s.limit := rfl
@[simp] theorem wrX_lossy (s : State) (d : Reg) (v : Word) : (s.wrX d v).lossy = s.lossy := rfl
@[simp] theorem wrX_took (s : State) (d : Reg) (v : Word) : (s.wrX d v).took = s.took := rfl

/-! `State.wrV` -/

@[simp] theorem wrV_slots (s : State) (d : Reg) (v : BitVec 2048) : (s.wrV d v).slots = s.slots := rfl
@[simp] theorem wrV_mem (s : State) (d : Reg) (v : BitVec 2048) : (s.wrV d v).mem = s.mem := rfl
@[simp] theorem wrV_sync (s : State) (d : Reg) (v : BitVec 2048) : (s.wrV d v).sync = s.sync := rfl
@[simp] theorem wrV_floes (s : State) (d : Reg) (v : BitVec 2048) : (s.wrV d v).floes = s.floes := rfl
@[simp] theorem wrV_lp (s : State) (d : Reg) (v : BitVec 2048) : (s.wrV d v).lp = s.lp := rfl
@[simp] theorem wrV_fab (s : State) (d : Reg) (v : BitVec 2048) : (s.wrV d v).fab = s.fab := rfl
@[simp] theorem wrV_host (s : State) (d : Reg) (v : BitVec 2048) : (s.wrV d v).host = s.host := rfl
@[simp] theorem wrV_input (s : State) (d : Reg) (v : BitVec 2048) : (s.wrV d v).input = s.input := rfl
@[simp] theorem wrV_turns (s : State) (d : Reg) (v : BitVec 2048) : (s.wrV d v).turns = s.turns := rfl
@[simp] theorem wrV_fresh (s : State) (d : Reg) (v : BitVec 2048) : (s.wrV d v).fresh = s.fresh := rfl
@[simp] theorem wrV_limit (s : State) (d : Reg) (v : BitVec 2048) : (s.wrV d v).limit = s.limit := rfl
@[simp] theorem wrV_lossy (s : State) (d : Reg) (v : BitVec 2048) : (s.wrV d v).lossy = s.lossy := rfl
@[simp] theorem wrV_took (s : State) (d : Reg) (v : BitVec 2048) : (s.wrV d v).took = s.took := rfl

/-! `State.flags` -/

@[simp] theorem flags_slots (s : State) (f : BitVec 6) : (s.flags f).slots = s.slots := rfl
@[simp] theorem flags_mem (s : State) (f : BitVec 6) : (s.flags f).mem = s.mem := rfl
@[simp] theorem flags_sync (s : State) (f : BitVec 6) : (s.flags f).sync = s.sync := rfl
@[simp] theorem flags_floes (s : State) (f : BitVec 6) : (s.flags f).floes = s.floes := rfl
@[simp] theorem flags_lp (s : State) (f : BitVec 6) : (s.flags f).lp = s.lp := rfl
@[simp] theorem flags_fab (s : State) (f : BitVec 6) : (s.flags f).fab = s.fab := rfl
@[simp] theorem flags_host (s : State) (f : BitVec 6) : (s.flags f).host = s.host := rfl
@[simp] theorem flags_input (s : State) (f : BitVec 6) : (s.flags f).input = s.input := rfl
@[simp] theorem flags_turns (s : State) (f : BitVec 6) : (s.flags f).turns = s.turns := rfl
@[simp] theorem flags_fresh (s : State) (f : BitVec 6) : (s.flags f).fresh = s.fresh := rfl
@[simp] theorem flags_limit (s : State) (f : BitVec 6) : (s.flags f).limit = s.limit := rfl
@[simp] theorem flags_lossy (s : State) (f : BitVec 6) : (s.flags f).lossy = s.lossy := rfl
@[simp] theorem flags_took (s : State) (f : BitVec 6) : (s.flags f).took = s.took := rfl

/-! `retire` -/

@[simp] theorem retire_slots (s : State) : (retire s).slots = s.slots := rfl
@[simp] theorem retire_mem (s : State) : (retire s).mem = s.mem := rfl
@[simp] theorem retire_sync (s : State) : (retire s).sync = s.sync := rfl
@[simp] theorem retire_floes (s : State) : (retire s).floes = s.floes := rfl
@[simp] theorem retire_lp (s : State) : (retire s).lp = s.lp := rfl
@[simp] theorem retire_fab (s : State) : (retire s).fab = s.fab := rfl
@[simp] theorem retire_host (s : State) : (retire s).host = s.host := rfl
@[simp] theorem retire_input (s : State) : (retire s).input = s.input := rfl
@[simp] theorem retire_turns (s : State) : (retire s).turns = s.turns := rfl
@[simp] theorem retire_fresh (s : State) : (retire s).fresh = s.fresh := rfl
@[simp] theorem retire_limit (s : State) : (retire s).limit = s.limit := rfl
@[simp] theorem retire_lossy (s : State) : (retire s).lossy = s.lossy := rfl
@[simp] theorem retire_took (s : State) : (retire s).took = s.took := rfl

/-! `retX` -/

@[simp] theorem retX_slots (s : State) (d : Reg) (v : Word) : (retX s d v).slots = s.slots := rfl
@[simp] theorem retX_mem (s : State) (d : Reg) (v : Word) : (retX s d v).mem = s.mem := rfl
@[simp] theorem retX_sync (s : State) (d : Reg) (v : Word) : (retX s d v).sync = s.sync := rfl
@[simp] theorem retX_floes (s : State) (d : Reg) (v : Word) : (retX s d v).floes = s.floes := rfl
@[simp] theorem retX_lp (s : State) (d : Reg) (v : Word) : (retX s d v).lp = s.lp := rfl
@[simp] theorem retX_fab (s : State) (d : Reg) (v : Word) : (retX s d v).fab = s.fab := rfl
@[simp] theorem retX_host (s : State) (d : Reg) (v : Word) : (retX s d v).host = s.host := rfl
@[simp] theorem retX_input (s : State) (d : Reg) (v : Word) : (retX s d v).input = s.input := rfl
@[simp] theorem retX_turns (s : State) (d : Reg) (v : Word) : (retX s d v).turns = s.turns := rfl
@[simp] theorem retX_fresh (s : State) (d : Reg) (v : Word) : (retX s d v).fresh = s.fresh := rfl
@[simp] theorem retX_limit (s : State) (d : Reg) (v : Word) : (retX s d v).limit = s.limit := rfl
@[simp] theorem retX_lossy (s : State) (d : Reg) (v : Word) : (retX s d v).lossy = s.lossy := rfl
@[simp] theorem retX_took (s : State) (d : Reg) (v : Word) : (retX s d v).took = s.took := rfl

/-! `gate` -/

@[simp] theorem gate_slots (s : State) (w : Wait) : (gate s w).slots = s.slots := rfl
@[simp] theorem gate_mem (s : State) (w : Wait) : (gate s w).mem = s.mem := rfl
@[simp] theorem gate_sync (s : State) (w : Wait) : (gate s w).sync = s.sync := rfl
@[simp] theorem gate_floes (s : State) (w : Wait) : (gate s w).floes = s.floes := rfl
@[simp] theorem gate_lp (s : State) (w : Wait) : (gate s w).lp = s.lp := rfl
@[simp] theorem gate_fab (s : State) (w : Wait) : (gate s w).fab = s.fab := rfl
@[simp] theorem gate_host (s : State) (w : Wait) : (gate s w).host = s.host := rfl
@[simp] theorem gate_input (s : State) (w : Wait) : (gate s w).input = s.input := rfl
@[simp] theorem gate_turns (s : State) (w : Wait) : (gate s w).turns = s.turns := rfl
@[simp] theorem gate_fresh (s : State) (w : Wait) : (gate s w).fresh = s.fresh := rfl
@[simp] theorem gate_limit (s : State) (w : Wait) : (gate s w).limit = s.limit := rfl
@[simp] theorem gate_lossy (s : State) (w : Wait) : (gate s w).lossy = s.lossy := rfl
@[simp] theorem gate_took (s : State) (w : Wait) : (gate s w).took = s.took := rfl

/-! `poll` -/

@[simp] theorem poll_slots (s : State) : (poll s).slots = s.slots := rfl
@[simp] theorem poll_mem (s : State) : (poll s).mem = s.mem := rfl
@[simp] theorem poll_sync (s : State) : (poll s).sync = s.sync := rfl
@[simp] theorem poll_floes (s : State) : (poll s).floes = s.floes := rfl
@[simp] theorem poll_lp (s : State) : (poll s).lp = s.lp := rfl
@[simp] theorem poll_fab (s : State) : (poll s).fab = s.fab := rfl
@[simp] theorem poll_host (s : State) : (poll s).host = s.host := rfl
@[simp] theorem poll_input (s : State) : (poll s).input = s.input := rfl
@[simp] theorem poll_turns (s : State) : (poll s).turns = s.turns := rfl
@[simp] theorem poll_fresh (s : State) : (poll s).fresh = s.fresh := rfl
@[simp] theorem poll_limit (s : State) : (poll s).limit = s.limit := rfl
@[simp] theorem poll_lossy (s : State) : (poll s).lossy = s.lossy := rfl
@[simp] theorem poll_took (s : State) : (poll s).took = s.took := rfl

/-! `State.setDbg` -/

@[simp] theorem setDbg_th (s : State) (d : Dbg) : (s.setDbg d).th = s.th := rfl
@[simp] theorem setDbg_slots (s : State) (d : Dbg) : (s.setDbg d).slots = s.slots := rfl
@[simp] theorem setDbg_mem (s : State) (d : Dbg) : (s.setDbg d).mem = s.mem := rfl
@[simp] theorem setDbg_sync (s : State) (d : Dbg) : (s.setDbg d).sync = s.sync := rfl
@[simp] theorem setDbg_floes (s : State) (d : Dbg) : (s.setDbg d).floes = s.floes := rfl
@[simp] theorem setDbg_lp (s : State) (d : Dbg) : (s.setDbg d).lp = s.lp := rfl
@[simp] theorem setDbg_fab (s : State) (d : Dbg) : (s.setDbg d).fab = s.fab := rfl
@[simp] theorem setDbg_input (s : State) (d : Dbg) : (s.setDbg d).input = s.input := rfl
@[simp] theorem setDbg_turns (s : State) (d : Dbg) : (s.setDbg d).turns = s.turns := rfl
@[simp] theorem setDbg_fresh (s : State) (d : Dbg) : (s.setDbg d).fresh = s.fresh := rfl
@[simp] theorem setDbg_limit (s : State) (d : Dbg) : (s.setDbg d).limit = s.limit := rfl
@[simp] theorem setDbg_lossy (s : State) (d : Dbg) : (s.setDbg d).lossy = s.lossy := rfl
@[simp] theorem setDbg_took (s : State) (d : Dbg) : (s.setDbg d).took = s.took := rfl

/-! `State.setPmu` -/

@[simp] theorem setPmu_th (s : State) (p : Pmu) : (s.setPmu p).th = s.th := rfl
@[simp] theorem setPmu_slots (s : State) (p : Pmu) : (s.setPmu p).slots = s.slots := rfl
@[simp] theorem setPmu_mem (s : State) (p : Pmu) : (s.setPmu p).mem = s.mem := rfl
@[simp] theorem setPmu_sync (s : State) (p : Pmu) : (s.setPmu p).sync = s.sync := rfl
@[simp] theorem setPmu_floes (s : State) (p : Pmu) : (s.setPmu p).floes = s.floes := rfl
@[simp] theorem setPmu_lp (s : State) (p : Pmu) : (s.setPmu p).lp = s.lp := rfl
@[simp] theorem setPmu_fab (s : State) (p : Pmu) : (s.setPmu p).fab = s.fab := rfl
@[simp] theorem setPmu_input (s : State) (p : Pmu) : (s.setPmu p).input = s.input := rfl
@[simp] theorem setPmu_turns (s : State) (p : Pmu) : (s.setPmu p).turns = s.turns := rfl
@[simp] theorem setPmu_fresh (s : State) (p : Pmu) : (s.setPmu p).fresh = s.fresh := rfl
@[simp] theorem setPmu_limit (s : State) (p : Pmu) : (s.setPmu p).limit = s.limit := rfl
@[simp] theorem setPmu_lossy (s : State) (p : Pmu) : (s.setPmu p).lossy = s.lossy := rfl
@[simp] theorem setPmu_took (s : State) (p : Pmu) : (s.setPmu p).took = s.took := rfl

/-! `State.count` -/

@[simp] theorem count_th (s : State) (n : Nat) : (s.count n).th = s.th := rfl
@[simp] theorem count_slots (s : State) (n : Nat) : (s.count n).slots = s.slots := rfl
@[simp] theorem count_mem (s : State) (n : Nat) : (s.count n).mem = s.mem := rfl
@[simp] theorem count_sync (s : State) (n : Nat) : (s.count n).sync = s.sync := rfl
@[simp] theorem count_floes (s : State) (n : Nat) : (s.count n).floes = s.floes := rfl
@[simp] theorem count_lp (s : State) (n : Nat) : (s.count n).lp = s.lp := rfl
@[simp] theorem count_fab (s : State) (n : Nat) : (s.count n).fab = s.fab := rfl
@[simp] theorem count_input (s : State) (n : Nat) : (s.count n).input = s.input := rfl
@[simp] theorem count_turns (s : State) (n : Nat) : (s.count n).turns = s.turns := rfl
@[simp] theorem count_fresh (s : State) (n : Nat) : (s.count n).fresh = s.fresh := rfl
@[simp] theorem count_limit (s : State) (n : Nat) : (s.count n).limit = s.limit := rfl
@[simp] theorem count_lossy (s : State) (n : Nat) : (s.count n).lossy = s.lossy := rfl
@[simp] theorem count_took (s : State) (n : Nat) : (s.count n).took = s.took := rfl

/-! `State.setObj` -/

@[simp] theorem setObj_th (s : State) (h : Nat) (o : Obj) : (s.setObj h o).th = s.th := rfl
@[simp] theorem setObj_slots (s : State) (h : Nat) (o : Obj) : (s.setObj h o).slots = s.slots := rfl
@[simp] theorem setObj_mem (s : State) (h : Nat) (o : Obj) : (s.setObj h o).mem = s.mem := rfl
@[simp] theorem setObj_floes (s : State) (h : Nat) (o : Obj) : (s.setObj h o).floes = s.floes := rfl
@[simp] theorem setObj_lp (s : State) (h : Nat) (o : Obj) : (s.setObj h o).lp = s.lp := rfl
@[simp] theorem setObj_fab (s : State) (h : Nat) (o : Obj) : (s.setObj h o).fab = s.fab := rfl
@[simp] theorem setObj_host (s : State) (h : Nat) (o : Obj) : (s.setObj h o).host = s.host := rfl
@[simp] theorem setObj_input (s : State) (h : Nat) (o : Obj) : (s.setObj h o).input = s.input := rfl
@[simp] theorem setObj_turns (s : State) (h : Nat) (o : Obj) : (s.setObj h o).turns = s.turns := rfl
@[simp] theorem setObj_fresh (s : State) (h : Nat) (o : Obj) : (s.setObj h o).fresh = s.fresh := rfl
@[simp] theorem setObj_limit (s : State) (h : Nat) (o : Obj) : (s.setObj h o).limit = s.limit := rfl
@[simp] theorem setObj_lossy (s : State) (h : Nat) (o : Obj) : (s.setObj h o).lossy = s.lossy := rfl
@[simp] theorem setObj_took (s : State) (h : Nat) (o : Obj) : (s.setObj h o).took = s.took := rfl

/-! `State.onDie` -/

@[simp] theorem onDie_th (s : State) (d : Nat) (g : Die → Die) : (s.onDie d g).th = s.th := rfl
@[simp] theorem onDie_slots (s : State) (d : Nat) (g : Die → Die) : (s.onDie d g).slots = s.slots := rfl
@[simp] theorem onDie_mem (s : State) (d : Nat) (g : Die → Die) : (s.onDie d g).mem = s.mem := rfl
@[simp] theorem onDie_floes (s : State) (d : Nat) (g : Die → Die) : (s.onDie d g).floes = s.floes := rfl
@[simp] theorem onDie_lp (s : State) (d : Nat) (g : Die → Die) : (s.onDie d g).lp = s.lp := rfl
@[simp] theorem onDie_fab (s : State) (d : Nat) (g : Die → Die) : (s.onDie d g).fab = s.fab := rfl
@[simp] theorem onDie_host (s : State) (d : Nat) (g : Die → Die) : (s.onDie d g).host = s.host := rfl
@[simp] theorem onDie_input (s : State) (d : Nat) (g : Die → Die) : (s.onDie d g).input = s.input := rfl
@[simp] theorem onDie_turns (s : State) (d : Nat) (g : Die → Die) : (s.onDie d g).turns = s.turns := rfl
@[simp] theorem onDie_fresh (s : State) (d : Nat) (g : Die → Die) : (s.onDie d g).fresh = s.fresh := rfl
@[simp] theorem onDie_limit (s : State) (d : Nat) (g : Die → Die) : (s.onDie d g).limit = s.limit := rfl
@[simp] theorem onDie_lossy (s : State) (d : Nat) (g : Die → Die) : (s.onDie d g).lossy = s.lossy := rfl
@[simp] theorem onDie_took (s : State) (d : Nat) (g : Die → Die) : (s.onDie d g).took = s.took := rfl

/-! `State.setFloe` -/

@[simp] theorem setFloe_th (s : State) (f : Nat) (x : Floe) : (s.setFloe f x).th = s.th := rfl
@[simp] theorem setFloe_slots (s : State) (f : Nat) (x : Floe) : (s.setFloe f x).slots = s.slots := rfl
@[simp] theorem setFloe_mem (s : State) (f : Nat) (x : Floe) : (s.setFloe f x).mem = s.mem := rfl
@[simp] theorem setFloe_sync (s : State) (f : Nat) (x : Floe) : (s.setFloe f x).sync = s.sync := rfl
@[simp] theorem setFloe_lp (s : State) (f : Nat) (x : Floe) : (s.setFloe f x).lp = s.lp := rfl
@[simp] theorem setFloe_fab (s : State) (f : Nat) (x : Floe) : (s.setFloe f x).fab = s.fab := rfl
@[simp] theorem setFloe_host (s : State) (f : Nat) (x : Floe) : (s.setFloe f x).host = s.host := rfl
@[simp] theorem setFloe_input (s : State) (f : Nat) (x : Floe) : (s.setFloe f x).input = s.input := rfl
@[simp] theorem setFloe_turns (s : State) (f : Nat) (x : Floe) : (s.setFloe f x).turns = s.turns := rfl
@[simp] theorem setFloe_fresh (s : State) (f : Nat) (x : Floe) : (s.setFloe f x).fresh = s.fresh := rfl
@[simp] theorem setFloe_limit (s : State) (f : Nat) (x : Floe) : (s.setFloe f x).limit = s.limit := rfl
@[simp] theorem setFloe_lossy (s : State) (f : Nat) (x : Floe) : (s.setFloe f x).lossy = s.lossy := rfl
@[simp] theorem setFloe_took (s : State) (f : Nat) (x : Floe) : (s.setFloe f x).took = s.took := rfl

/-! `State.onFloe` -/

@[simp] theorem onFloe_th (s : State) (f : Nat) (g : Floe → Floe) : (s.onFloe f g).th = s.th := rfl
@[simp] theorem onFloe_slots (s : State) (f : Nat) (g : Floe → Floe) : (s.onFloe f g).slots = s.slots := rfl
@[simp] theorem onFloe_mem (s : State) (f : Nat) (g : Floe → Floe) : (s.onFloe f g).mem = s.mem := rfl
@[simp] theorem onFloe_sync (s : State) (f : Nat) (g : Floe → Floe) : (s.onFloe f g).sync = s.sync := rfl
@[simp] theorem onFloe_lp (s : State) (f : Nat) (g : Floe → Floe) : (s.onFloe f g).lp = s.lp := rfl
@[simp] theorem onFloe_fab (s : State) (f : Nat) (g : Floe → Floe) : (s.onFloe f g).fab = s.fab := rfl
@[simp] theorem onFloe_host (s : State) (f : Nat) (g : Floe → Floe) : (s.onFloe f g).host = s.host := rfl
@[simp] theorem onFloe_input (s : State) (f : Nat) (g : Floe → Floe) : (s.onFloe f g).input = s.input := rfl
@[simp] theorem onFloe_turns (s : State) (f : Nat) (g : Floe → Floe) : (s.onFloe f g).turns = s.turns := rfl
@[simp] theorem onFloe_fresh (s : State) (f : Nat) (g : Floe → Floe) : (s.onFloe f g).fresh = s.fresh := rfl
@[simp] theorem onFloe_limit (s : State) (f : Nat) (g : Floe → Floe) : (s.onFloe f g).limit = s.limit := rfl
@[simp] theorem onFloe_lossy (s : State) (f : Nat) (g : Floe → Floe) : (s.onFloe f g).lossy = s.lossy := rfl
@[simp] theorem onFloe_took (s : State) (f : Nat) (g : Floe → Floe) : (s.onFloe f g).took = s.took := rfl

/-! `State.onLaunch` -/

@[simp] theorem onLaunch_th (s : State) (n : Nat) (g : Launch → Launch) : (s.onLaunch n g).th = s.th := rfl
@[simp] theorem onLaunch_slots (s : State) (n : Nat) (g : Launch → Launch) : (s.onLaunch n g).slots = s.slots := rfl
@[simp] theorem onLaunch_mem (s : State) (n : Nat) (g : Launch → Launch) : (s.onLaunch n g).mem = s.mem := rfl
@[simp] theorem onLaunch_sync (s : State) (n : Nat) (g : Launch → Launch) : (s.onLaunch n g).sync = s.sync := rfl
@[simp] theorem onLaunch_floes (s : State) (n : Nat) (g : Launch → Launch) : (s.onLaunch n g).floes = s.floes := rfl
@[simp] theorem onLaunch_fab (s : State) (n : Nat) (g : Launch → Launch) : (s.onLaunch n g).fab = s.fab := rfl
@[simp] theorem onLaunch_host (s : State) (n : Nat) (g : Launch → Launch) : (s.onLaunch n g).host = s.host := rfl
@[simp] theorem onLaunch_input (s : State) (n : Nat) (g : Launch → Launch) : (s.onLaunch n g).input = s.input := rfl
@[simp] theorem onLaunch_turns (s : State) (n : Nat) (g : Launch → Launch) : (s.onLaunch n g).turns = s.turns := rfl
@[simp] theorem onLaunch_fresh (s : State) (n : Nat) (g : Launch → Launch) : (s.onLaunch n g).fresh = s.fresh := rfl
@[simp] theorem onLaunch_limit (s : State) (n : Nat) (g : Launch → Launch) : (s.onLaunch n g).limit = s.limit := rfl
@[simp] theorem onLaunch_lossy (s : State) (n : Nat) (g : Launch → Launch) : (s.onLaunch n g).lossy = s.lossy := rfl
@[simp] theorem onLaunch_took (s : State) (n : Nat) (g : Launch → Launch) : (s.onLaunch n g).took = s.took := rfl

/-! `State.setRing` -/

@[simp] theorem setRing_th (s : State) (r : Nat) (x : SubRing) : (s.setRing r x).th = s.th := rfl
@[simp] theorem setRing_slots (s : State) (r : Nat) (x : SubRing) : (s.setRing r x).slots = s.slots := rfl
@[simp] theorem setRing_mem (s : State) (r : Nat) (x : SubRing) : (s.setRing r x).mem = s.mem := rfl
@[simp] theorem setRing_sync (s : State) (r : Nat) (x : SubRing) : (s.setRing r x).sync = s.sync := rfl
@[simp] theorem setRing_floes (s : State) (r : Nat) (x : SubRing) : (s.setRing r x).floes = s.floes := rfl
@[simp] theorem setRing_fab (s : State) (r : Nat) (x : SubRing) : (s.setRing r x).fab = s.fab := rfl
@[simp] theorem setRing_host (s : State) (r : Nat) (x : SubRing) : (s.setRing r x).host = s.host := rfl
@[simp] theorem setRing_input (s : State) (r : Nat) (x : SubRing) : (s.setRing r x).input = s.input := rfl
@[simp] theorem setRing_turns (s : State) (r : Nat) (x : SubRing) : (s.setRing r x).turns = s.turns := rfl
@[simp] theorem setRing_fresh (s : State) (r : Nat) (x : SubRing) : (s.setRing r x).fresh = s.fresh := rfl
@[simp] theorem setRing_limit (s : State) (r : Nat) (x : SubRing) : (s.setRing r x).limit = s.limit := rfl
@[simp] theorem setRing_lossy (s : State) (r : Nat) (x : SubRing) : (s.setRing r x).lossy = s.lossy := rfl
@[simp] theorem setRing_took (s : State) (r : Nat) (x : SubRing) : (s.setRing r x).took = s.took := rfl

/-! Registers -/

@[simp] theorem getX_zero (t : Thread) : t.getX 0 = 0 := rfl
@[simp] theorem setX_zero (t : Thread) (v : Word) : t.setX 0 v = t := rfl

/-- Reading an x register after a write (R26). -/
theorem getX_setX (t : Thread) (d e : Reg) (v : Word) :
    (t.setX d v).getX e = if e = d ∧ d ≠ 0 then v else t.getX e := by
  unfold Thread.setX Thread.getX
  by_cases hd : d = 0
  · simp [hd]
  · by_cases he : e = 0
    · subst he; simp [hd, Ne.symm hd]
    · by_cases h : e = d
      · subst h; simp [he]
      · have : d.val ≠ e.val := fun hh => h (Fin.ext hh.symm)
        simp [hd, he, h, Vector.getElem_set_ne, this]

/-- Reading a vector register after a write. -/
theorem getV_setV (t : Thread) (d e : Reg) (v : BitVec 2048) :
    (t.setV d v).getV e = if e = d then v else t.getV e := by
  unfold Thread.setV Thread.getV
  by_cases h : e = d
  · subst h; simp
  · have : d.val ≠ e.val := fun hh => h (Fin.ext hh.symm)
    simp [h, Vector.getElem_set_ne, this]

@[simp] theorem getX_forget (t : Thread) (r : Nat) (e : Reg) : (t.forget r).getX e = t.getX e := rfl
@[simp] theorem getX_land (t : Thread) (e : Reg) : t.land.getX e = t.getX e := rfl
@[simp] theorem land_pend (t : Thread) : t.land.pend = [] := rfl

@[simp] theorem setX_core (t : Thread) (d : Reg) (v : Word) : (t.setX d v).core = t.core := by unfold Thread.setX; split <;> rfl
@[simp] theorem setX_slot (t : Thread) (d : Reg) (v : Word) : (t.setX d v).slot = t.slot := by unfold Thread.setX; split <;> rfl
@[simp] theorem setX_live (t : Thread) (d : Reg) (v : Word) : (t.setX d v).live = t.live := by unfold Thread.setX; split <;> rfl
@[simp] theorem setX_tid (t : Thread) (d : Reg) (v : Word) : (t.setX d v).tid = t.tid := by unfold Thread.setX; split <;> rfl
@[simp] theorem setX_lid (t : Thread) (d : Reg) (v : Word) : (t.setX d v).lid = t.lid := by unfold Thread.setX; split <;> rfl
@[simp] theorem setX_enc (t : Thread) (d : Reg) (v : Word) : (t.setX d v).enc = t.enc := by unfold Thread.setX; split <;> rfl
@[simp] theorem setX_pc (t : Thread) (d : Reg) (v : Word) : (t.setX d v).pc = t.pc := by unfold Thread.setX; split <;> rfl
@[simp] theorem setX_ir (t : Thread) (d : Reg) (v : Word) : (t.setX d v).ir = t.ir := by unfold Thread.setX; split <;> rfl
@[simp] theorem setX_frm (t : Thread) (d : Reg) (v : Word) : (t.setX d v).frm = t.frm := by unfold Thread.setX; split <;> rfl
@[simp] theorem setX_fflags (t : Thread) (d : Reg) (v : Word) : (t.setX d v).fflags = t.fflags := by unfold Thread.setX; split <;> rfl
@[simp] theorem setX_srseed (t : Thread) (d : Reg) (v : Word) : (t.setX d v).srseed = t.srseed := by unfold Thread.setX; split <;> rfl
@[simp] theorem setX_key (t : Thread) (d : Reg) (v : Word) : (t.setX d v).key = t.key := by unfold Thread.setX; split <;> rfl
@[simp] theorem setX_draw (t : Thread) (d : Reg) (v : Word) : (t.setX d v).draw = t.draw := by unfold Thread.setX; split <;> rfl
@[simp] theorem setX_lease (t : Thread) (d : Reg) (v : Word) : (t.setX d v).lease = t.lease := by unfold Thread.setX; split <;> rfl
@[simp] theorem setX_rimewin (t : Thread) (d : Reg) (v : Word) : (t.setX d v).rimewin = t.rimewin := by unfold Thread.setX; split <;> rfl
@[simp] theorem setX_chk (t : Thread) (d : Reg) (v : Word) : (t.setX d v).chk = t.chk := by unfold Thread.setX; split <;> rfl
@[simp] theorem setX_corr (t : Thread) (d : Reg) (v : Word) : (t.setX d v).corr = t.corr := by unfold Thread.setX; split <;> rfl
@[simp] theorem setX_gran (t : Thread) (d : Reg) (v : Word) : (t.setX d v).gran = t.gran := by unfold Thread.setX; split <;> rfl
@[simp] theorem setX_v (t : Thread) (d : Reg) (v : Word) : (t.setX d v).v = t.v := by unfold Thread.setX; split <;> rfl
@[simp] theorem setX_slice (t : Thread) (d : Reg) (v : Word) : (t.setX d v).slice = t.slice := by unfold Thread.setX; split <;> rfl
@[simp] theorem setX_bad (t : Thread) (d : Reg) (v : Word) : (t.setX d v).bad = t.bad := by unfold Thread.setX; split <;> rfl
@[simp] theorem setX_xcause (t : Thread) (d : Reg) (v : Word) : (t.setX d v).xcause = t.xcause := by unfold Thread.setX; split <;> rfl
@[simp] theorem setX_xaddr (t : Thread) (d : Reg) (v : Word) : (t.setX d v).xaddr = t.xaddr := by unfold Thread.setX; split <;> rfl
@[simp] theorem setX_xpc (t : Thread) (d : Reg) (v : Word) : (t.setX d v).xpc = t.xpc := by unfold Thread.setX; split <;> rfl
@[simp] theorem setX_xval (t : Thread) (d : Reg) (v : Word) : (t.setX d v).xval = t.xval := by unfold Thread.setX; split <;> rfl
@[simp] theorem setX_xvec (t : Thread) (d : Reg) (v : Word) : (t.setX d v).xvec = t.xvec := by unfold Thread.setX; split <;> rfl
@[simp] theorem setX_xrcnt (t : Thread) (d : Reg) (v : Word) : (t.setX d v).xrcnt = t.xrcnt := by unfold Thread.setX; split <;> rfl
@[simp] theorem setX_xrep (t : Thread) (d : Reg) (v : Word) : (t.setX d v).xrep = t.xrep := by unfold Thread.setX; split <;> rfl
@[simp] theorem setX_xrlen (t : Thread) (d : Reg) (v : Word) : (t.setX d v).xrlen = t.xrlen := by unfold Thread.setX; split <;> rfl
@[simp] theorem setX_xridx (t : Thread) (d : Reg) (v : Word) : (t.setX d v).xridx = t.xridx := by unfold Thread.setX; split <;> rfl
@[simp] theorem setX_xriter (t : Thread) (d : Reg) (v : Word) : (t.setX d v).xriter = t.xriter := by unfold Thread.setX; split <;> rfl
@[simp] theorem setX_inh (t : Thread) (d : Reg) (v : Word) : (t.setX d v).inh = t.inh := by unfold Thread.setX; split <;> rfl
@[simp] theorem setX_rep (t : Thread) (d : Reg) (v : Word) : (t.setX d v).rep = t.rep := by unfold Thread.setX; split <;> rfl
@[simp] theorem setX_pin (t : Thread) (d : Reg) (v : Word) : (t.setX d v).pin = t.pin := by unfold Thread.setX; split <;> rfl
@[simp] theorem setX_pend (t : Thread) (d : Reg) (v : Word) : (t.setX d v).pend = t.pend := by unfold Thread.setX; split <;> rfl
@[simp] theorem setX_stall (t : Thread) (d : Reg) (v : Word) : (t.setX d v).stall = t.stall := by unfold Thread.setX; split <;> rfl
@[simp] theorem setX_pause (t : Thread) (d : Reg) (v : Word) : (t.setX d v).pause = t.pause := by unfold Thread.setX; split <;> rfl
@[simp] theorem setX_pts (t : Thread) (d : Reg) (v : Word) : (t.setX d v).pts = t.pts := by unfold Thread.setX; split <;> rfl
@[simp] theorem setX_ptsFrac (t : Thread) (d : Reg) (v : Word) : (t.setX d v).ptsFrac = t.ptsFrac := by unfold Thread.setX; split <;> rfl
@[simp] theorem setX_wait (t : Thread) (d : Reg) (v : Word) : (t.setX d v).wait = t.wait := by unfold Thread.setX; split <;> rfl
@[simp] theorem setX_mxshape (t : Thread) (d : Reg) (v : Word) : (t.setX d v).mxshape = t.mxshape := by unfold Thread.setX; split <;> rfl
@[simp] theorem setX_mxdstr (t : Thread) (d : Reg) (v : Word) : (t.setX d v).mxdstr = t.mxdstr := by unfold Thread.setX; split <;> rfl
@[simp] theorem setX_cp (t : Thread) (d : Reg) (v : Word) : (t.setX d v).cp = t.cp := by unfold Thread.setX; split <;> rfl
@[simp] theorem setX_cpCorr (t : Thread) (d : Reg) (v : Word) : (t.setX d v).cpCorr = t.cpCorr := by unfold Thread.setX; split <;> rfl
@[simp] theorem setX_cpStale (t : Thread) (d : Reg) (v : Word) : (t.setX d v).cpStale = t.cpStale := by unfold Thread.setX; split <;> rfl
@[simp] theorem setX_cpStatus (t : Thread) (d : Reg) (v : Word) : (t.setX d v).cpStatus = t.cpStatus := by unfold Thread.setX; split <;> rfl
@[simp] theorem setX_cpTe (t : Thread) (d : Reg) (v : Word) : (t.setX d v).cpTe = t.cpTe := by unfold Thread.setX; split <;> rfl
@[simp] theorem setX_mxTe (t : Thread) (d : Reg) (v : Word) : (t.setX d v).mxTe = t.mxTe := by unfold Thread.setX; split <;> rfl
@[simp] theorem setX_ports (t : Thread) (d : Reg) (v : Word) : (t.setX d v).ports = t.ports := by unfold Thread.setX; split <;> rfl
@[simp] theorem setX_fails (t : Thread) (d : Reg) (v : Word) : (t.setX d v).fails = t.fails := by unfold Thread.setX; split <;> rfl
@[simp] theorem setX_hold (t : Thread) (d : Reg) (v : Word) : (t.setX d v).hold = t.hold := by unfold Thread.setX; split <;> rfl
@[simp] theorem setX_vpart (t : Thread) (d : Reg) (v : Word) : (t.setX d v).vpart = t.vpart := by unfold Thread.setX; split <;> rfl
@[simp] theorem setX_gborn (t : Thread) (d : Reg) (v : Word) : (t.setX d v).gborn = t.gborn := by unfold Thread.setX; split <;> rfl

@[simp] theorem setV_core (t : Thread) (d : Reg) (v : BitVec 2048) : (t.setV d v).core = t.core := rfl
@[simp] theorem setV_slot (t : Thread) (d : Reg) (v : BitVec 2048) : (t.setV d v).slot = t.slot := rfl
@[simp] theorem setV_live (t : Thread) (d : Reg) (v : BitVec 2048) : (t.setV d v).live = t.live := rfl
@[simp] theorem setV_tid (t : Thread) (d : Reg) (v : BitVec 2048) : (t.setV d v).tid = t.tid := rfl
@[simp] theorem setV_lid (t : Thread) (d : Reg) (v : BitVec 2048) : (t.setV d v).lid = t.lid := rfl
@[simp] theorem setV_enc (t : Thread) (d : Reg) (v : BitVec 2048) : (t.setV d v).enc = t.enc := rfl
@[simp] theorem setV_pc (t : Thread) (d : Reg) (v : BitVec 2048) : (t.setV d v).pc = t.pc := rfl
@[simp] theorem setV_ir (t : Thread) (d : Reg) (v : BitVec 2048) : (t.setV d v).ir = t.ir := rfl
@[simp] theorem setV_x (t : Thread) (d : Reg) (v : BitVec 2048) : (t.setV d v).x = t.x := rfl
@[simp] theorem setV_frm (t : Thread) (d : Reg) (v : BitVec 2048) : (t.setV d v).frm = t.frm := rfl
@[simp] theorem setV_fflags (t : Thread) (d : Reg) (v : BitVec 2048) : (t.setV d v).fflags = t.fflags := rfl
@[simp] theorem setV_srseed (t : Thread) (d : Reg) (v : BitVec 2048) : (t.setV d v).srseed = t.srseed := rfl
@[simp] theorem setV_key (t : Thread) (d : Reg) (v : BitVec 2048) : (t.setV d v).key = t.key := rfl
@[simp] theorem setV_draw (t : Thread) (d : Reg) (v : BitVec 2048) : (t.setV d v).draw = t.draw := rfl
@[simp] theorem setV_lease (t : Thread) (d : Reg) (v : BitVec 2048) : (t.setV d v).lease = t.lease := rfl
@[simp] theorem setV_rimewin (t : Thread) (d : Reg) (v : BitVec 2048) : (t.setV d v).rimewin = t.rimewin := rfl
@[simp] theorem setV_chk (t : Thread) (d : Reg) (v : BitVec 2048) : (t.setV d v).chk = t.chk := rfl
@[simp] theorem setV_corr (t : Thread) (d : Reg) (v : BitVec 2048) : (t.setV d v).corr = t.corr := rfl
@[simp] theorem setV_gran (t : Thread) (d : Reg) (v : BitVec 2048) : (t.setV d v).gran = t.gran := rfl
@[simp] theorem setV_slice (t : Thread) (d : Reg) (v : BitVec 2048) : (t.setV d v).slice = t.slice := rfl
@[simp] theorem setV_bad (t : Thread) (d : Reg) (v : BitVec 2048) : (t.setV d v).bad = t.bad := rfl
@[simp] theorem setV_xcause (t : Thread) (d : Reg) (v : BitVec 2048) : (t.setV d v).xcause = t.xcause := rfl
@[simp] theorem setV_xaddr (t : Thread) (d : Reg) (v : BitVec 2048) : (t.setV d v).xaddr = t.xaddr := rfl
@[simp] theorem setV_xpc (t : Thread) (d : Reg) (v : BitVec 2048) : (t.setV d v).xpc = t.xpc := rfl
@[simp] theorem setV_xval (t : Thread) (d : Reg) (v : BitVec 2048) : (t.setV d v).xval = t.xval := rfl
@[simp] theorem setV_xvec (t : Thread) (d : Reg) (v : BitVec 2048) : (t.setV d v).xvec = t.xvec := rfl
@[simp] theorem setV_xrcnt (t : Thread) (d : Reg) (v : BitVec 2048) : (t.setV d v).xrcnt = t.xrcnt := rfl
@[simp] theorem setV_xrep (t : Thread) (d : Reg) (v : BitVec 2048) : (t.setV d v).xrep = t.xrep := rfl
@[simp] theorem setV_xrlen (t : Thread) (d : Reg) (v : BitVec 2048) : (t.setV d v).xrlen = t.xrlen := rfl
@[simp] theorem setV_xridx (t : Thread) (d : Reg) (v : BitVec 2048) : (t.setV d v).xridx = t.xridx := rfl
@[simp] theorem setV_xriter (t : Thread) (d : Reg) (v : BitVec 2048) : (t.setV d v).xriter = t.xriter := rfl
@[simp] theorem setV_inh (t : Thread) (d : Reg) (v : BitVec 2048) : (t.setV d v).inh = t.inh := rfl
@[simp] theorem setV_rep (t : Thread) (d : Reg) (v : BitVec 2048) : (t.setV d v).rep = t.rep := rfl
@[simp] theorem setV_pin (t : Thread) (d : Reg) (v : BitVec 2048) : (t.setV d v).pin = t.pin := rfl
@[simp] theorem setV_pend (t : Thread) (d : Reg) (v : BitVec 2048) : (t.setV d v).pend = t.pend := rfl
@[simp] theorem setV_stall (t : Thread) (d : Reg) (v : BitVec 2048) : (t.setV d v).stall = t.stall := rfl
@[simp] theorem setV_pause (t : Thread) (d : Reg) (v : BitVec 2048) : (t.setV d v).pause = t.pause := rfl
@[simp] theorem setV_pts (t : Thread) (d : Reg) (v : BitVec 2048) : (t.setV d v).pts = t.pts := rfl
@[simp] theorem setV_ptsFrac (t : Thread) (d : Reg) (v : BitVec 2048) : (t.setV d v).ptsFrac = t.ptsFrac := rfl
@[simp] theorem setV_wait (t : Thread) (d : Reg) (v : BitVec 2048) : (t.setV d v).wait = t.wait := rfl
@[simp] theorem setV_mxshape (t : Thread) (d : Reg) (v : BitVec 2048) : (t.setV d v).mxshape = t.mxshape := rfl
@[simp] theorem setV_mxdstr (t : Thread) (d : Reg) (v : BitVec 2048) : (t.setV d v).mxdstr = t.mxdstr := rfl
@[simp] theorem setV_cp (t : Thread) (d : Reg) (v : BitVec 2048) : (t.setV d v).cp = t.cp := rfl
@[simp] theorem setV_cpCorr (t : Thread) (d : Reg) (v : BitVec 2048) : (t.setV d v).cpCorr = t.cpCorr := rfl
@[simp] theorem setV_cpStale (t : Thread) (d : Reg) (v : BitVec 2048) : (t.setV d v).cpStale = t.cpStale := rfl
@[simp] theorem setV_cpStatus (t : Thread) (d : Reg) (v : BitVec 2048) : (t.setV d v).cpStatus = t.cpStatus := rfl
@[simp] theorem setV_cpTe (t : Thread) (d : Reg) (v : BitVec 2048) : (t.setV d v).cpTe = t.cpTe := rfl
@[simp] theorem setV_mxTe (t : Thread) (d : Reg) (v : BitVec 2048) : (t.setV d v).mxTe = t.mxTe := rfl
@[simp] theorem setV_ports (t : Thread) (d : Reg) (v : BitVec 2048) : (t.setV d v).ports = t.ports := rfl
@[simp] theorem setV_fails (t : Thread) (d : Reg) (v : BitVec 2048) : (t.setV d v).fails = t.fails := rfl
@[simp] theorem setV_hold (t : Thread) (d : Reg) (v : BitVec 2048) : (t.setV d v).hold = t.hold := rfl
@[simp] theorem setV_vpart (t : Thread) (d : Reg) (v : BitVec 2048) : (t.setV d v).vpart = t.vpart := rfl
@[simp] theorem setV_gborn (t : Thread) (d : Reg) (v : BitVec 2048) : (t.setV d v).gborn = t.gborn := rfl

@[simp] theorem advance_core (t : Thread) : t.advance.core = t.core := by
  unfold Thread.advance; repeat' (first | rfl | split)
@[simp] theorem advance_slot (t : Thread) : t.advance.slot = t.slot := by
  unfold Thread.advance; repeat' (first | rfl | split)
@[simp] theorem advance_live (t : Thread) : t.advance.live = t.live := by
  unfold Thread.advance; repeat' (first | rfl | split)
@[simp] theorem advance_tid (t : Thread) : t.advance.tid = t.tid := by
  unfold Thread.advance; repeat' (first | rfl | split)
@[simp] theorem advance_lid (t : Thread) : t.advance.lid = t.lid := by
  unfold Thread.advance; repeat' (first | rfl | split)
@[simp] theorem advance_enc (t : Thread) : t.advance.enc = t.enc := by
  unfold Thread.advance; repeat' (first | rfl | split)
@[simp] theorem advance_ir (t : Thread) : t.advance.ir = t.ir := by
  unfold Thread.advance; repeat' (first | rfl | split)
@[simp] theorem advance_x (t : Thread) : t.advance.x = t.x := by
  unfold Thread.advance; repeat' (first | rfl | split)
@[simp] theorem advance_frm (t : Thread) : t.advance.frm = t.frm := by
  unfold Thread.advance; repeat' (first | rfl | split)
@[simp] theorem advance_fflags (t : Thread) : t.advance.fflags = t.fflags := by
  unfold Thread.advance; repeat' (first | rfl | split)
@[simp] theorem advance_srseed (t : Thread) : t.advance.srseed = t.srseed := by
  unfold Thread.advance; repeat' (first | rfl | split)
@[simp] theorem advance_key (t : Thread) : t.advance.key = t.key := by
  unfold Thread.advance; repeat' (first | rfl | split)
@[simp] theorem advance_draw (t : Thread) : t.advance.draw = t.draw := by
  unfold Thread.advance; repeat' (first | rfl | split)
@[simp] theorem advance_lease (t : Thread) : t.advance.lease = t.lease := by
  unfold Thread.advance; repeat' (first | rfl | split)
@[simp] theorem advance_rimewin (t : Thread) : t.advance.rimewin = t.rimewin := by
  unfold Thread.advance; repeat' (first | rfl | split)
@[simp] theorem advance_chk (t : Thread) : t.advance.chk = t.chk := by
  unfold Thread.advance; repeat' (first | rfl | split)
@[simp] theorem advance_corr (t : Thread) : t.advance.corr = t.corr := by
  unfold Thread.advance; repeat' (first | rfl | split)
@[simp] theorem advance_gran (t : Thread) : t.advance.gran = t.gran := by
  unfold Thread.advance; repeat' (first | rfl | split)
@[simp] theorem advance_v (t : Thread) : t.advance.v = t.v := by
  unfold Thread.advance; repeat' (first | rfl | split)
@[simp] theorem advance_slice (t : Thread) : t.advance.slice = t.slice := by
  unfold Thread.advance; repeat' (first | rfl | split)
@[simp] theorem advance_bad (t : Thread) : t.advance.bad = t.bad := by
  unfold Thread.advance; repeat' (first | rfl | split)
@[simp] theorem advance_xcause (t : Thread) : t.advance.xcause = t.xcause := by
  unfold Thread.advance; repeat' (first | rfl | split)
@[simp] theorem advance_xaddr (t : Thread) : t.advance.xaddr = t.xaddr := by
  unfold Thread.advance; repeat' (first | rfl | split)
@[simp] theorem advance_xpc (t : Thread) : t.advance.xpc = t.xpc := by
  unfold Thread.advance; repeat' (first | rfl | split)
@[simp] theorem advance_xval (t : Thread) : t.advance.xval = t.xval := by
  unfold Thread.advance; repeat' (first | rfl | split)
@[simp] theorem advance_xvec (t : Thread) : t.advance.xvec = t.xvec := by
  unfold Thread.advance; repeat' (first | rfl | split)
@[simp] theorem advance_xrcnt (t : Thread) : t.advance.xrcnt = t.xrcnt := by
  unfold Thread.advance; repeat' (first | rfl | split)
@[simp] theorem advance_xrep (t : Thread) : t.advance.xrep = t.xrep := by
  unfold Thread.advance; repeat' (first | rfl | split)
@[simp] theorem advance_xrlen (t : Thread) : t.advance.xrlen = t.xrlen := by
  unfold Thread.advance; repeat' (first | rfl | split)
@[simp] theorem advance_xridx (t : Thread) : t.advance.xridx = t.xridx := by
  unfold Thread.advance; repeat' (first | rfl | split)
@[simp] theorem advance_xriter (t : Thread) : t.advance.xriter = t.xriter := by
  unfold Thread.advance; repeat' (first | rfl | split)
@[simp] theorem advance_inh (t : Thread) : t.advance.inh = t.inh := by
  unfold Thread.advance; repeat' (first | rfl | split)
@[simp] theorem advance_pin (t : Thread) : t.advance.pin = t.pin := by
  unfold Thread.advance; repeat' (first | rfl | split)
@[simp] theorem advance_pend (t : Thread) : t.advance.pend = t.pend := by
  unfold Thread.advance; repeat' (first | rfl | split)
@[simp] theorem advance_stall (t : Thread) : t.advance.stall = t.stall := by
  unfold Thread.advance; repeat' (first | rfl | split)
@[simp] theorem advance_pause (t : Thread) : t.advance.pause = t.pause := by
  unfold Thread.advance; repeat' (first | rfl | split)
@[simp] theorem advance_pts (t : Thread) : t.advance.pts = t.pts := by
  unfold Thread.advance; repeat' (first | rfl | split)
@[simp] theorem advance_ptsFrac (t : Thread) : t.advance.ptsFrac = t.ptsFrac := by
  unfold Thread.advance; repeat' (first | rfl | split)
@[simp] theorem advance_wait (t : Thread) : t.advance.wait = t.wait := by
  unfold Thread.advance; repeat' (first | rfl | split)
@[simp] theorem advance_mxshape (t : Thread) : t.advance.mxshape = t.mxshape := by
  unfold Thread.advance; repeat' (first | rfl | split)
@[simp] theorem advance_mxdstr (t : Thread) : t.advance.mxdstr = t.mxdstr := by
  unfold Thread.advance; repeat' (first | rfl | split)
@[simp] theorem advance_cp (t : Thread) : t.advance.cp = t.cp := by
  unfold Thread.advance; repeat' (first | rfl | split)
@[simp] theorem advance_cpCorr (t : Thread) : t.advance.cpCorr = t.cpCorr := by
  unfold Thread.advance; repeat' (first | rfl | split)
@[simp] theorem advance_cpStale (t : Thread) : t.advance.cpStale = t.cpStale := by
  unfold Thread.advance; repeat' (first | rfl | split)
@[simp] theorem advance_cpStatus (t : Thread) : t.advance.cpStatus = t.cpStatus := by
  unfold Thread.advance; repeat' (first | rfl | split)
@[simp] theorem advance_cpTe (t : Thread) : t.advance.cpTe = t.cpTe := by
  unfold Thread.advance; repeat' (first | rfl | split)
@[simp] theorem advance_mxTe (t : Thread) : t.advance.mxTe = t.mxTe := by
  unfold Thread.advance; repeat' (first | rfl | split)
@[simp] theorem advance_ports (t : Thread) : t.advance.ports = t.ports := by
  unfold Thread.advance; repeat' (first | rfl | split)
@[simp] theorem advance_fails (t : Thread) : t.advance.fails = t.fails := by
  unfold Thread.advance; repeat' (first | rfl | split)
@[simp] theorem advance_hold (t : Thread) : t.advance.hold = t.hold := by
  unfold Thread.advance; repeat' (first | rfl | split)
@[simp] theorem advance_vpart (t : Thread) : t.advance.vpart = t.vpart := by
  unfold Thread.advance; repeat' (first | rfl | split)
@[simp] theorem advance_gborn (t : Thread) : t.advance.gborn = t.gborn := by
  unfold Thread.advance; repeat' (first | rfl | split)

@[simp] theorem complete_core (t : Thread) : t.complete.core = t.core := by
  unfold Thread.complete; rw [advance_core]; rfl
@[simp] theorem complete_slot (t : Thread) : t.complete.slot = t.slot := by
  unfold Thread.complete; rw [advance_slot]; rfl
@[simp] theorem complete_live (t : Thread) : t.complete.live = t.live := by
  unfold Thread.complete; rw [advance_live]; rfl
@[simp] theorem complete_tid (t : Thread) : t.complete.tid = t.tid := by
  unfold Thread.complete; rw [advance_tid]; rfl
@[simp] theorem complete_lid (t : Thread) : t.complete.lid = t.lid := by
  unfold Thread.complete; rw [advance_lid]; rfl
@[simp] theorem complete_enc (t : Thread) : t.complete.enc = t.enc := by
  unfold Thread.complete; rw [advance_enc]; rfl
@[simp] theorem complete_ir (t : Thread) : t.complete.ir = t.ir := by
  unfold Thread.complete; rw [advance_ir]; rfl
@[simp] theorem complete_x (t : Thread) : t.complete.x = t.x := by
  unfold Thread.complete; rw [advance_x]; rfl
@[simp] theorem complete_frm (t : Thread) : t.complete.frm = t.frm := by
  unfold Thread.complete; rw [advance_frm]; rfl
@[simp] theorem complete_fflags (t : Thread) : t.complete.fflags = t.fflags := by
  unfold Thread.complete; rw [advance_fflags]; rfl
@[simp] theorem complete_srseed (t : Thread) : t.complete.srseed = t.srseed := by
  unfold Thread.complete; rw [advance_srseed]; rfl
@[simp] theorem complete_key (t : Thread) : t.complete.key = t.key := by
  unfold Thread.complete; rw [advance_key]; rfl
@[simp] theorem complete_draw (t : Thread) : t.complete.draw = t.draw := by
  unfold Thread.complete; rw [advance_draw]; rfl
@[simp] theorem complete_lease (t : Thread) : t.complete.lease = t.lease := by
  unfold Thread.complete; rw [advance_lease]; rfl
@[simp] theorem complete_rimewin (t : Thread) : t.complete.rimewin = t.rimewin := by
  unfold Thread.complete; rw [advance_rimewin]; rfl
@[simp] theorem complete_chk (t : Thread) : t.complete.chk = t.chk := by
  unfold Thread.complete; rw [advance_chk]; rfl
@[simp] theorem complete_corr (t : Thread) : t.complete.corr = t.corr := by
  unfold Thread.complete; rw [advance_corr]; rfl
@[simp] theorem complete_gran (t : Thread) : t.complete.gran = t.gran := by
  unfold Thread.complete; rw [advance_gran]; rfl
@[simp] theorem complete_v (t : Thread) : t.complete.v = t.v := by
  unfold Thread.complete; rw [advance_v]; rfl
@[simp] theorem complete_slice (t : Thread) : t.complete.slice = t.slice := by
  unfold Thread.complete; rw [advance_slice]; rfl
@[simp] theorem complete_bad (t : Thread) : t.complete.bad = t.bad := by
  unfold Thread.complete; rw [advance_bad]; rfl
@[simp] theorem complete_xcause (t : Thread) : t.complete.xcause = t.xcause := by
  unfold Thread.complete; rw [advance_xcause]; rfl
@[simp] theorem complete_xaddr (t : Thread) : t.complete.xaddr = t.xaddr := by
  unfold Thread.complete; rw [advance_xaddr]; rfl
@[simp] theorem complete_xpc (t : Thread) : t.complete.xpc = t.xpc := by
  unfold Thread.complete; rw [advance_xpc]; rfl
@[simp] theorem complete_xval (t : Thread) : t.complete.xval = t.xval := by
  unfold Thread.complete; rw [advance_xval]; rfl
@[simp] theorem complete_xvec (t : Thread) : t.complete.xvec = t.xvec := by
  unfold Thread.complete; rw [advance_xvec]; rfl
@[simp] theorem complete_xrcnt (t : Thread) : t.complete.xrcnt = t.xrcnt := by
  unfold Thread.complete; rw [advance_xrcnt]; rfl
@[simp] theorem complete_xrep (t : Thread) : t.complete.xrep = t.xrep := by
  unfold Thread.complete; rw [advance_xrep]; rfl
@[simp] theorem complete_xrlen (t : Thread) : t.complete.xrlen = t.xrlen := by
  unfold Thread.complete; rw [advance_xrlen]; rfl
@[simp] theorem complete_xridx (t : Thread) : t.complete.xridx = t.xridx := by
  unfold Thread.complete; rw [advance_xridx]; rfl
@[simp] theorem complete_xriter (t : Thread) : t.complete.xriter = t.xriter := by
  unfold Thread.complete; rw [advance_xriter]; rfl
@[simp] theorem complete_inh (t : Thread) : t.complete.inh = t.inh := by
  unfold Thread.complete; rw [advance_inh]; rfl
@[simp] theorem complete_pause (t : Thread) : t.complete.pause = t.pause := by
  unfold Thread.complete; rw [advance_pause]; rfl
@[simp] theorem complete_pts (t : Thread) : t.complete.pts = t.pts := by
  unfold Thread.complete; rw [advance_pts]; rfl
@[simp] theorem complete_ptsFrac (t : Thread) : t.complete.ptsFrac = t.ptsFrac := by
  unfold Thread.complete; rw [advance_ptsFrac]; rfl
@[simp] theorem complete_wait (t : Thread) : t.complete.wait = t.wait := by
  unfold Thread.complete; rw [advance_wait]; rfl
@[simp] theorem complete_mxshape (t : Thread) : t.complete.mxshape = t.mxshape := by
  unfold Thread.complete; rw [advance_mxshape]; rfl
@[simp] theorem complete_mxdstr (t : Thread) : t.complete.mxdstr = t.mxdstr := by
  unfold Thread.complete; rw [advance_mxdstr]; rfl
@[simp] theorem complete_cp (t : Thread) : t.complete.cp = t.cp := by
  unfold Thread.complete; rw [advance_cp]; rfl
@[simp] theorem complete_cpCorr (t : Thread) : t.complete.cpCorr = t.cpCorr := by
  unfold Thread.complete; rw [advance_cpCorr]; rfl
@[simp] theorem complete_cpStale (t : Thread) : t.complete.cpStale = t.cpStale := by
  unfold Thread.complete; rw [advance_cpStale]; rfl
@[simp] theorem complete_cpStatus (t : Thread) : t.complete.cpStatus = t.cpStatus := by
  unfold Thread.complete; rw [advance_cpStatus]; rfl
@[simp] theorem complete_cpTe (t : Thread) : t.complete.cpTe = t.cpTe := by
  unfold Thread.complete; rw [advance_cpTe]; rfl
@[simp] theorem complete_mxTe (t : Thread) : t.complete.mxTe = t.mxTe := by
  unfold Thread.complete; rw [advance_mxTe]; rfl
@[simp] theorem complete_ports (t : Thread) : t.complete.ports = t.ports := by
  unfold Thread.complete; rw [advance_ports]; rfl
@[simp] theorem complete_fails (t : Thread) : t.complete.fails = t.fails := by
  unfold Thread.complete; rw [advance_fails]; rfl
@[simp] theorem complete_gborn (t : Thread) : t.complete.gborn = t.gborn := by
  unfold Thread.complete; rw [advance_gborn]; rfl

/-- Going on in sequence changes the PC and the repetition (R180). -/
theorem advance_eq (t : Thread) : t.advance = { t with pc := t.advance.pc, rep := t.advance.rep } := by
  rcases hr : t.rep with _ | r
  · simp only [Thread.advance, hr]
  · by_cases h1 : t.pc + 4 = r.start + BitVec.ofNat 64 (4 * r.len)
    · by_cases h2 : r.left ≤ 1
      · simp only [Thread.advance, hr, h1, h2, if_true]
      · simp only [Thread.advance, hr, h1, h2, if_true, if_false]
    · simp only [Thread.advance, hr, h1, if_false]

/-- Completing changes only what going on changes (R39, R140). -/
theorem complete_issueOnly (t : Thread) : IssueOnly t t.complete := by
  unfold IssueOnly Thread.complete
  conv_lhs => rw [advance_eq]
  simp only [advance_pin, advance_pend, advance_stall, advance_hold]
  rfl

@[simp] theorem complete_stall (t : Thread) : t.complete.stall = t.ir.toNat / 2 ^ 30 := by
  unfold Thread.complete; rw [advance_stall]; rfl

/-- Outside a repetition the PC goes on by 4 (R136). -/
theorem complete_pc (t : Thread) (h : t.rep = none) : t.complete.pc = t.pc + 4 ∧ t.complete.rep = none := by
  simp [Thread.complete, Thread.advance, Thread.issued, h]

end Sys2Proof.Machine
end

