-- ==== Sys2Proof/Laws/Memory.lean ====
section
/-! SUPPORT. Every memory operation keeps the canonical form of the bytes (rising keys, no zero byte listed), and says which
bytes it leaves as they were. -/

namespace Sys2Proof.Machine

set_option linter.unusedVariables false

/-- The bytes of a state are in canonical form. -/
def Canon (s : State) : Prop := Memory.wf s.mem.bytes

theorem Canon.of_bytes {s t : State} (h : Canon s) (e : t.mem.bytes = s.mem.bytes) : Canon t := by unfold Canon; rw [e]; exact h

theorem canon_reset : Canon State.reset := by unfold Canon Memory.wf; simp [State.reset, MemSys.reset]

theorem iterate_rec {α : Type} {P : α → Prop} {f : Nat → α → α} (n : Nat) (hf : ∀ i a, P a → P (f i a)) (a : α) (h : P a) :
    P (iterate n f a) := by
  unfold iterate
  induction List.range n generalizing a with
  | nil => exact h
  | cons i t ih => exact ih _ (hf i a h)

theorem foldl_rec {α β : Type} {P : α → Prop} {f : α → β → α} (hf : ∀ a b, P a → P (f a b)) (l : List β) (a : α) (h : P a) :
    P (l.foldl f a) := by
  induction l generalizing a with
  | nil => exact h
  | cons b t ih => exact ih _ (hf a b h)

theorem foldl_eq {α β γ : Type} (g : α → γ) {f : α → β → α} (hf : ∀ a b, g (f a b) = g a) (l : List β) (a : α) :
    g (l.foldl f a) = g a := by
  induction l generalizing a with
  | nil => rfl
  | cons b t ih => exact (ih _).trans (hf a b)

theorem iterate_eq {α γ : Type} (g : α → γ) {f : Nat → α → α} (n : Nat) (hf : ∀ i a, g (f i a) = g a) (a : α) :
    g (iterate n f a) = g a := by
  unfold iterate; exact foldl_eq g (fun a b => hf b a) _ _

/-! ### Statistics leave memory alone -/

@[simp] theorem contribute_mem (s : State) (d h : Nat) (b : Int) (v : Val) : (contribute s d h b v).mem = s.mem := rfl
@[simp] theorem contribute_th (s : State) (d h : Nat) (b : Int) (v : Val) : (contribute s d h b v).th = s.th := rfl

@[simp] theorem contributeRange_mem (s : State) (c : Nat) (l : List (Nat × Nat)) (a n : Nat) :
    (contributeRange s c l a n).mem = s.mem := by
  unfold contributeRange; split
  · rfl
  · split
    · rfl
    · exact iterate_eq State.mem _ (fun i s => by split <;> rfl) _

@[simp] theorem contributeRange_th (s : State) (c : Nat) (l : List (Nat × Nat)) (a n : Nat) :
    (contributeRange s c l a n).th = s.th := by
  unfold contributeRange; split
  · rfl
  · split
    · rfl
    · exact iterate_eq State.th _ (fun i s => by split <;> rfl) _

@[simp] theorem contributeAll_mem (c : Nat) (l : List (Nat × Nat)) : ∀ (seen : List (Nat × Nat)) (s : State),
    (contributeAll c seen l s).mem = s.mem := by
  induction l with
  | nil => intro _ _; rfl
  | cons x t ih => intro seen s; simp only [contributeAll, ih, contributeRange_mem]

@[simp] theorem contributeAll_th (c : Nat) (l : List (Nat × Nat)) : ∀ (seen : List (Nat × Nat)) (s : State),
    (contributeAll c seen l s).th = s.th := by
  induction l with
  | nil => intro _ _; rfl
  | cons x t ih => intro seen s; simp only [contributeAll, ih, contributeRange_th]

@[simp] theorem contributeValue_mem (s : State) (a : Nat) (v : Val) : (contributeValue s a v).mem = s.mem := by
  unfold contributeValue; split
  · rfl
  · split <;> rfl

@[simp] theorem contributeValue_th (s : State) (a : Nat) (v : Val) : (contributeValue s a v).th = s.th := by
  unfold contributeValue; split
  · rfl
  · split <;> rfl

/-! ### Bytes at their home -/

theorem Memory.wf_filter {m : Memory} (h : m.wf) (p : Host.Cell → Bool) : Memory.wf (m.filter p) :=
  ⟨h.1.filter _, fun c hc => h.2 c (List.mem_of_mem_filter hc)⟩

/-- Setting bytes one after another keeps the canonical form. -/
theorem Memory.wf_sets {α : Type} (l : List α) (k : α → Nat) (b : α → Byte) {m : Memory} (h : m.wf) :
    Memory.wf (l.foldl (fun m x => Memory.set m (k x) (b x)) m) :=
  foldl_rec (P := Memory.wf) (fun _ _ hb => Memory.wf_set _ _ _ hb) l m h

theorem leBytes_length (n v : Nat) : (leBytes n v).length = n := by
  induction n generalizing v with
  | zero => rfl
  | succ n ih => simp [leBytes, ih]

@[simp] theorem homePut_bytes (s : State) (k : Nat) (bs : List Byte) : (s.homePut k bs).mem.bytes = s.mem.bytes.put k bs := rfl

theorem homePut_canon {s : State} (h : Canon s) (k : Nat) (bs : List Byte) : Canon (s.homePut k bs) :=
  Memory.wf_put bs _ _ h

theorem homePut_other (s : State) (k : Nat) (bs : List Byte) : SameBytesBut s (s.homePut k bs) k bs.length :=
  fun j hj => Memory.get_put_out bs _ _ _ hj

@[simp] theorem homeWrite_bytes (s : State) (c a k : Nat) (bs : List Byte) :
    (homeWrite s c a k bs).mem.bytes = s.mem.bytes.put k bs := by
  simp [homeWrite, contributeWrite]

@[simp] theorem homeWrite_th (s : State) (c a k : Nat) (bs : List Byte) : (homeWrite s c a k bs).th = s.th := by
  simp [homeWrite, contributeWrite]

/-- A write at its home keeps the canonical form. -/
theorem homeWrite_canon {s : State} (h : Canon s) (c a k : Nat) (bs : List Byte) : Canon (homeWrite s c a k bs) := by
  unfold Canon; rw [homeWrite_bytes]; exact Memory.wf_put bs _ _ h

/-- A write at its home leaves the other bytes. -/
theorem homeWrite_other (s : State) (c a k : Nat) (bs : List Byte) : SameBytesBut s (homeWrite s c a k bs) k bs.length := by
  intro j hj; rw [homeWrite_bytes]; exact Memory.get_put_out bs _ _ _ hj

@[simp] theorem discard_mem (s : State) (n k : Nat) : (discard s n k).mem = s.mem := rfl
@[simp] theorem discard_th (s : State) (n k : Nat) : (discard s n k).th = s.th := rfl

/-- Writing back keeps the canonical form. -/
theorem writeBack_canon {s : State} (h : Canon s) (c : Copy1) : Canon (writeBack s c) := by
  unfold writeBack; split
  · exact h
  · dsimp only
    have f : ∀ k, Canon ((runs c.dirty).foldl (fun s r =>
        homeWrite s c.core (c.sector * 128 + r.1) (k + r.1) (c.data.bytes r.1 r.2)) s) :=
      fun k => foldl_rec (P := Canon) (fun s r hs => homeWrite_canon hs _ _ _ _) _ _ h
    split
    · exact (f _).of_bytes rfl
    · exact f _

@[simp] theorem writeBack_th (s : State) (c : Copy1) : (writeBack s c).th = s.th := by
  unfold writeBack; split
  · rfl
  · dsimp only
    have f : ∀ k, ((runs c.dirty).foldl (fun s r =>
        homeWrite s c.core (c.sector * 128 + r.1) (k + r.1) (c.data.bytes r.1 r.2)) s).th = s.th :=
      fun k => foldl_eq State.th (fun s r => homeWrite_th _ _ _ _ _) _ _
    split
    · rw [onMem_th, f]
    · exact f _

/-! ### L2 homes -/

theorem fill2_wf {m : MemSys} (h : m.bytes.wf) (a p : Nat) (hi : Hint) (n : Bool) : Memory.wf (fill2 m a p hi n).bytes := by
  unfold fill2; split
  · exact h
  · dsimp only; exact Memory.wf_put _ _ _ h

@[simp] theorem touch2_bytes (m : MemSys) (a : Nat) (h : Hint) : (touch2 m a h).bytes = m.bytes := by
  unfold touch2; split <;> rfl

@[simp] theorem stouch2_bytes (s : State) (a : Nat) (h : Hint) : (s.touch2 a h).mem.bytes = s.mem.bytes :=
  touch2_bytes s.mem a h

@[simp] theorem stouch2_th (s : State) (a : Nat) (h : Hint) : (s.touch2 a h).th = s.th := rfl

theorem sclean2_canon {s : State} (h : Canon s) (c : Copy2) : Canon (s.clean2 c) := by
  unfold State.clean2; split
  · exact h
  · exact Memory.wf_sets c.dirty (fun o => c.key + o) (fun o => s.mem.bytes.get (vkey (c.sector * 128) + o)) h

@[simp] theorem sclean2_th (s : State) (c : Copy2) : (s.clean2 c).th = s.th := by
  unfold State.clean2; split <;> rfl

theorem drop2_canon {s : State} (h : Canon s) (c : Copy2) : Canon (s.drop2 c) :=
  Memory.wf_filter (sclean2_canon h c) _

@[simp] theorem drop2_th (s : State) (c : Copy2) : (s.drop2 c).th = s.th := by simp [State.drop2]

theorem bringIn_canon {s : State} (h : Canon s) (a : Nat) (hi : Hint) (n : Bool) : Canon (bringIn s a hi n) := by
  unfold bringIn; split
  · exact h
  · split
    · split
      · exact h
      · exact fill2_wf h _ _ _ _
    · exact h

@[simp] theorem bringIn_th (s : State) (a : Nat) (hi : Hint) (n : Bool) : (bringIn s a hi n).th = s.th := by
  unfold bringIn; split
  · rfl
  · split
    · split <;> rfl
    · rfl

theorem flush2_canon {s : State} (h : Canon s) (p : Nat → Bool) : Canon (flush2 s p) :=
  foldl_rec (P := Canon) (fun s c hs => drop2_canon hs c) _ _ h

@[simp] theorem flush2_th (s : State) (p : Nat → Bool) : (flush2 s p).th = s.th :=
  foldl_eq State.th (fun s c => drop2_th s c) _ _

theorem copyFrame_wf {m : MemSys} (h : m.bytes.wf) (a b : Nat) : Memory.wf (copyFrame m a b).bytes :=
  Memory.wf_sets _ (fun (c : Host.Cell) => b + (m.physKey c.1 - a)) (fun (c : Host.Cell) => c.2) (Memory.wf_filter h _)

theorem copyPieces_canon {s t : State} (h : Canon s) {a b n : Nat} (e : copyPieces s a b n = some t) : Canon t := by
  unfold copyPieces at e
  dsimp only at e
  split at e
  · cases e
    exact foldl_rec (P := fun m : MemSys => m.bytes.wf) (fun m x hm => copyFrame_wf hm _ _) _ _
      (flush2_canon (foldl_rec (P := Canon) (fun s c hs => sclean2_canon hs c) _ _ h) _)
  · cases e

theorem copyPieces_th {s t : State} {a b n : Nat} (e : copyPieces s a b n = some t) : t.th = s.th := by
  unfold copyPieces at e
  dsimp only at e
  split at e
  · cases e
    rw [onMem_th, flush2_th]
    exact foldl_eq State.th (fun s c => sclean2_th s c) _ _
  · cases e

theorem notePage_canon {s : State} (h : Canon s) (l a : Nat) : Canon (notePage s l a) := by
  unfold notePage; split
  · exact h
  · split
    · dsimp only; split
      · exact h
      · split
        · exact h
        · split
          · next e => exact (copyPieces_canon h e).of_bytes rfl
          · exact h
    · exact h

@[simp] theorem notePage_th (s : State) (l a : Nat) : (notePage s l a).th = s.th := by
  unfold notePage; split
  · rfl
  · split
    · dsimp only; split
      · rfl
      · split
        · rfl
        · split
          · next e => exact (copyPieces_th e :)
          · rfl
    · rfl

theorem noteRange_canon {s : State} (h : Canon s) (l a n : Nat) : Canon (noteRange s l a n) := by
  unfold noteRange; split
  · exact h
  · exact iterate_rec (P := Canon) _ (fun i s hs => by dsimp only; split; exacts [notePage_canon hs _ _, hs]) _ h

@[simp] theorem noteRange_th (s : State) (l a n : Nat) : (noteRange s l a n).th = s.th := by
  unfold noteRange; split
  · rfl
  · exact iterate_eq State.th _ (fun i s => by dsimp only; split <;> simp) _

theorem noteOwn_canon {s : State} (h : Canon s) (a : Nat) : Canon (noteOwn s a) := by
  unfold noteOwn; split; exacts [notePage_canon h _ _, h]

@[simp] theorem noteOwn_th (s : State) (a : Nat) : (noteOwn s a).th = s.th := by unfold noteOwn; split <;> simp

/-- Outside a replay session a write notes nothing (R340). -/
theorem noteOwn_idle {s : State} (h : s.host.replayState ≠ 1) (a : Nat) : noteOwn s a = s := by unfold noteOwn; rw [if_neg h]

theorem carryOut_canon {s : State} (h : Canon s) : Canon (carryOut s) :=
  foldl_rec (P := Canon) (f := fun s (c : Copy2) => if 2 ^ 40 ≤ c.key && c.dirty ≠ [] then s.clean2 c else s)
    (fun s c hs => by split; exacts [sclean2_canon hs c, hs]) _ _ h

@[simp] theorem carryOut_th (s : State) : (carryOut s).th = s.th :=
  foldl_eq State.th (f := fun s (c : Copy2) => if 2 ^ 40 ≤ c.key && c.dirty ≠ [] then s.clean2 c else s)
    (fun s c => by split <;> simp) _ _

theorem cleanCopy_canon {s : State} (h : Canon s) (c a : Nat) (k : Bool) : Canon (cleanCopy s c a k) := by
  unfold cleanCopy; split
  · exact h
  · simp only; split <;> exact writeBack_canon h _

@[simp] theorem cleanCopy_th (s : State) (c a : Nat) (k : Bool) : (cleanCopy s c a k).th = s.th := by
  unfold cleanCopy; split
  · rfl
  · simp only; split <;> simp

theorem loseCopy_canon {s : State} (h : Canon s) (c a : Nat) : Canon (loseCopy s c a) := by
  unfold loseCopy; split <;> exact h

/-! ### Accesses of a thread -/

theorem bankTake_canon {s : State} (h : Canon s) (k n : Nat) : Canon (bankTake s k n) := h

@[simp] theorem bankTake_bytes (s : State) (k n : Nat) : (bankTake s k n).mem.bytes = s.mem.bytes := rfl
@[simp] theorem setLine_bytes (s : State) (l : Line) : (s.setLine l).mem.bytes = s.mem.bytes := rfl
@[simp] theorem keepCopy_bytes (s : State) (c : Copy1) : (keepCopy s c).mem.bytes = s.mem.bytes := rfl
@[simp] theorem keepCopy_th (s : State) (c : Copy1) : (keepCopy s c).th = s.th := rfl

@[simp] theorem hcTake_bytes (s : State) (a : Nat) (o : Bool) : (hcTake s a o).mem.bytes = s.mem.bytes := by
  unfold hcTake
  show (_ : MemSys).bytes = _
  simp only [State.raise, State.onMem]
  generalize (if o && (bindAt s a).isNone then some s.th.core else none) = x
  cases x <;> rfl

theorem hcTake_canon {s : State} (h : Canon s) (a : Nat) (o : Bool) : Canon (hcTake s a o) := h.of_bytes (hcTake_bytes s a o)

@[simp] theorem hcKeep_bytes (s : State) (a k : Nat) (h : Hint) : (hcKeep s a k h).mem.bytes = s.mem.bytes := by
  unfold hcKeep; dsimp only; split
  · split
    · rfl
    · split <;> simp
  · simp

theorem hcLoad_bytes (s : State) (a k n : Nat) (h : Hint) (f : Bool) : (hcLoad s a k n h f).2.mem.bytes = s.mem.bytes := by
  unfold hcLoad; dsimp only; split
  · split
    · rfl
    · dsimp only; split <;> simp
  · split
    · split
      · rfl
      · dsimp only; split <;> simp
    · dsimp only; split <;> simp

@[simp] theorem prvKeep_bytes (s : State) (a k : Nat) (h : Hint) : (prvKeep s a k h).mem.bytes = s.mem.bytes := by
  unfold prvKeep; split
  · rfl
  · dsimp only; split <;> simp

theorem swcLoad_bytes (s : State) (a k n : Nat) (h : Hint) : (swcLoad s a k n h).2.mem.bytes = s.mem.bytes := by
  unfold swcLoad; split
  · rfl
  · dsimp only; split <;> simp

/-- A load changes no byte at any home (R86, R89, R95). -/
theorem loadAt_bytes (s : State) (a k n : Nat) (c : Cls) (h : Hint) (f : Bool) :
    (loadAt s a k n c h f).2.mem.bytes = s.mem.bytes := by
  unfold loadAt
  split
  · rfl
  · exact hcLoad_bytes ..
  · exact swcLoad_bytes ..
  · exact swcLoad_bytes ..
  · simp

theorem loadAt_canon {s : State} (hs : Canon s) (a k n : Nat) (c : Cls) (h : Hint) (f : Bool) :
    Canon (loadAt s a k n c h f).2 := hs.of_bytes (loadAt_bytes ..)

/-- An SWC store changes the home's bytes by one write in its range, or not at all (R95, R127). -/
theorem swcStore_bytes (s : State) (a k n v : Nat) (h : Hint) :
    (swcStore s a k n v h).mem.bytes = s.mem.bytes ∨ (swcStore s a k n v h).mem.bytes = s.mem.bytes.put k (leBytes n v) := by
  unfold swcStore; dsimp only; split
  · split
    · right; simp
    · left; rfl
  · split
    · right; simp
    · left; simp

/-- A store changes the homes' bytes by one write in its range, or not at all. -/
theorem storeIn_bytes (s : State) (a k n v : Nat) (c : Cls) (h : Hint) :
    (storeIn s a k n v c h).mem.bytes = s.mem.bytes ∨ (storeIn s a k n v c h).mem.bytes = s.mem.bytes.put k (leBytes n v) := by
  unfold storeIn; split
  · right; rfl
  · right; simp
  · exact swcStore_bytes ..
  · exact swcStore_bytes ..
  · right; simp

theorem storeIn_canon {s : State} (hs : Canon s) (a k n v : Nat) (c : Cls) (h : Hint) : Canon (storeIn s a k n v c h) := by
  rcases storeIn_bytes s a k n v c h with e | e
  · exact hs.of_bytes e
  · unfold Canon; rw [e]; exact Memory.wf_put _ _ _ hs

/-- A store leaves every byte at its home outside its range. -/
theorem storeIn_other (s : State) (a k n v : Nat) (c : Cls) (h : Hint) : SameBytesBut s (storeIn s a k n v c h) k n := by
  intro j hj
  rcases storeIn_bytes s a k n v c h with e | e <;> rw [e]
  exact Memory.get_put_out _ _ _ _ (by rwa [leBytes_length])

/-- A store keeps the canonical form. -/
theorem storeAt_canon {s : State} (hs : Canon s) (a k n v : Nat) (c : Cls) (h : Hint) : Canon (storeAt s a k n v c h) :=
  storeIn_canon (noteOwn_canon hs a) ..

/-- A store leaves every byte outside its range as the replay session's note left it. -/
theorem storeAt_other (s : State) (a k n v : Nat) (c : Cls) (h : Hint) :
    SameBytesBut (noteOwn s a) (storeAt s a k n v c h) k n := storeIn_other (noteOwn s a) a k n v c h

theorem handOver_canon {s : State} (h : Canon s) (a : Nat) (c : Cls) : Canon (handOver s a c) := by
  unfold handOver; split
  · split
    · exact drop2_canon h _
    · exact h
  · exact h

@[simp] theorem handOver_th (s : State) (a : Nat) (c : Cls) : (handOver s a c).th = s.th := by
  unfold handOver; split
  · split <;> simp
  · rfl

theorem atomicTake_canon {s : State} (h : Canon s) (a k n : Nat) (c : Cls) : Canon (atomicTake s a k n c) := by
  unfold atomicTake; dsimp only; split
  · exact noteOwn_canon h a
  · exact hcTake_canon (noteOwn_canon h a) _ _
  · exact handOver_canon (cleanCopy_canon (noteOwn_canon h a) _ _ _) _ _
  · exact handOver_canon (cleanCopy_canon (noteOwn_canon h a) _ _ _) _ _
  · exact noteOwn_canon h a

theorem atomicRead_canon {s : State} (hs : Canon s) (a k n : Nat) (c : Cls) (h : Hint) : Canon (atomicRead s a k n c h) := by
  unfold atomicRead; split
  · exact hs
  · exact hs.of_bytes (hcLoad_bytes ..)
  · exact handOver_canon (cleanCopy_canon hs _ _ _) _ _
  · exact handOver_canon (cleanCopy_canon hs _ _ _) _ _
  · exact hs.of_bytes (stouch2_bytes ..)

theorem atomicPut_bytes (s : State) (a k n v : Nat) (c : Cls) (h : Hint) :
    (atomicPut s a k n v c h).mem.bytes = s.mem.bytes.put k (leBytes n v) := by
  unfold atomicPut; split <;> simp

theorem atomicPut_canon {s : State} (h : Canon s) (a k n v : Nat) (c : Cls) (hi : Hint) : Canon (atomicPut s a k n v c hi) := by
  unfold Canon; rw [atomicPut_bytes]; exact Memory.wf_put _ _ _ h

/-- A reduction store keeps the canonical form. -/
theorem reduce_wf {m : MemSys} (h : Memory.wf m.bytes) (op : Nat) (f : Fmt) (k v : Nat) :
    Memory.wf (reduce m op f k v).bytes := by
  unfold reduce; simp only; split
  · exact Memory.wf_write _ _ _ _ h
  · split <;> exact Memory.wf_write _ _ _ _ h

/-- A reduction store leaves the bytes outside its element. -/
theorem reduce_other (m : MemSys) (op : Nat) (f : Fmt) (k v j : Nat) (hj : j < k ∨ k + (f.width + 7) / 8 ≤ j) :
    (reduce m op f k v).bytes.get j = m.bytes.get j := by
  unfold reduce; simp only; split
  · exact Memory.get_write_out _ _ _ _ _ hj
  · split <;> exact Memory.get_write_out _ _ _ _ _ hj

/-! ### Fences, engines and the device's own writes -/

theorem renew2_canon {s : State} (h : Canon s) : Canon (renew2 s) := by
  unfold renew2
  refine foldl_rec (P := Canon) (fun s c hs => ?_) _ _ h
  split
  · exact hs
  · split
    · exact drop2_canon hs _
    · exact Memory.wf_sets _ (fun o => vkey (c.sector * 128 + o)) (fun o => s.mem.bytes.get (c.key + o)) hs

@[simp] theorem renew2_th (s : State) : (renew2 s).th = s.th := by
  unfold renew2
  refine foldl_eq State.th (fun s c => ?_) _ _
  split
  · rfl
  · split <;> simp

theorem acquireCore_canon {s : State} (h : Canon s) (c : Nat) (sc : Scope) : Canon (acquireCore s c sc) := by
  unfold acquireCore; dsimp only
  show Canon (if sc = .sys then renew2 s else s)
  split; exacts [renew2_canon h, h]

theorem releaseCore_canon {s : State} (h : Canon s) (c : Nat) (sc : Scope) : Canon (releaseCore s c sc) := by
  unfold releaseCore; split
  · exact h
  · dsimp only
    have f := foldl_rec (P := Canon) (f := fun s (x : Copy1) => if x.core = c && !x.hc then writeBack s x else s)
      (fun s r hs => by split; exacts [writeBack_canon hs _, hs]) s.mem.l1 _ h
    split
    · exact carryOut_canon f
    · exact f

theorem enginePut_canon (core te : Nat) (l : List Span) : ∀ {s : State} (bs : List Byte), Canon s →
    Canon (enginePut s core te l bs) := by
  induction l with
  | nil => intro s bs h; exact h
  | cons x t ih =>
    intro s bs h
    unfold enginePut; dsimp only
    apply ih
    split <;> exact Memory.wf_put _ _ _ h

/-- An engine's write keeps the canonical form. -/
theorem engineWrite_canon {s : State} (h : Canon s) (core te : Nat) (l : List Span) (bs : List Byte) :
    Canon (engineWrite s core te l bs) := by
  unfold engineWrite Canon; simp only [contributeAll_mem]
  exact enginePut_canon core te l bs h

theorem engineLease_canon {s : State} (h : Canon s) (te : Nat) (l : List Span) : Canon (engineLease s te l) :=
  foldl_rec (P := Canon) (fun s x hs => by simp only; split <;> exact hs) _ _ h

/-- A whole engine operation keeps the canonical form. -/
theorem engineOp_canon {s s' : State} (h : Canon s) {core tenant ti te : Nat} {src dst : List (Nat × Nat)}
    {f : List Byte → List Byte} (he : engineOp s core tenant ti src dst f = .done s' te) : Canon s' := by
  unfold engineOp at he
  split at he
  · cases he
  · cases he
  · split at he
    · cases he
    · cases he
    · cases he; exact engineLease_canon (engineWrite_canon h _ _ _ _) _ _

/-- What the device itself writes keeps the canonical form. -/
theorem devWrite_canon {s : State} (h : Canon s) (a : Nat) (bs : List Byte) : Canon (devWrite s a bs) :=
  engineWrite_canon h _ _ _ _

/-- Expanding a page keeps the canonical form (R82). -/
theorem expandPage_wf {m m' : MemSys} (h : Memory.wf m.bytes) {va : Nat} (he : expandPage m va = some m') :
    Memory.wf m'.bytes := by
  unfold expandPage at he
  split at he
  · split at he
    · cases he
    · cases he
      apply Memory.wf_write
      dsimp only
      split
      · exact Memory.wf_filter h _
      · exact Memory.wf_sets _ (fun (c : Host.Cell) => _ + c.1) (fun (c : Host.Cell) => c.2) (Memory.wf_filter h _)
  · cases he; exact h

theorem expandRange_canon {s : State} (h : Canon s) (a n : Nat) : Canon (expandRange s a n) := by
  unfold expandRange
  refine iterate_rec (P := Canon) _ (fun i s hs => ?_) s h
  dsimp only
  split
  · split
    · split
      · exact expandPage_wf hs ‹_›
      · exact hs
    · exact hs
  · exact hs

@[simp] theorem expandRange_th (s : State) (a n : Nat) : (expandRange s a n).th = s.th := by
  unfold expandRange
  refine iterate_eq State.th _ (fun i s => ?_) s
  dsimp only
  split
  · split
    · split <;> rfl
    · rfl
  · rfl

theorem bringRange_canon {s : State} (h : Canon s) (a n : Nat) (hi : Hint) : Canon (bringRange s a n hi) :=
  iterate_rec (P := Canon) _ (fun i s hs => (bringIn_canon hs _ _ _).of_bytes (stouch2_bytes ..)) s h

@[simp] theorem bringRange_th (s : State) (a n : Nat) (hi : Hint) : (bringRange s a n hi).th = s.th :=
  iterate_eq State.th _ (fun i s => by simp) s

theorem settle_canon {s : State} (h : Canon s) (a n : Nat) : Canon (settle s a n) := bringRange_canon (expandRange_canon h a n) ..

@[simp] theorem settle_th (s : State) (a n : Nat) : (settle s a n).th = s.th := by simp [settle, settleHint]

/-- What a step evicts keeps the canonical form (R67). -/
theorem cacheEvict_canon {s : State} (h : Canon s) : Canon (cacheEvict s) := by
  have h1 : ∀ s, Canon s → Canon (evict1 s) := fun s hs =>
    foldl_rec (P := Canon) (fun s (c : Copy1) hs => by
      dsimp only; split
      · split <;> exact hs
      · exact writeBack_canon hs c) _ _ hs
  have h2 : ∀ s, Canon s → Canon (evict2 s) := fun s hs => foldl_rec (P := Canon) (fun s c hs => drop2_canon hs c) _ _ hs
  unfold cacheEvict; dsimp only
  split
  · split
    · split; exacts [h, h2 _ h]
    · split; exacts [h, h2 _ h]
  · split
    · split; exacts [h1 _ h, h2 _ (h1 _ h)]
    · split; exacts [h1 _ h, h2 _ (h1 _ h)]

end Sys2Proof.Machine
end

