-- ==== Sys2Proof/Laws/Objects.lean ====
section
/-! SUPPORT. What the operations on objects, pools, waits and launches leave alone: above all the current thread, when it does
not itself wait. -/

namespace Sys2Proof.Machine

set_option linter.unusedVariables false

@[simp] theorem acquireCore_th (s : State) (c : Nat) (sc : Scope) : (acquireCore s c sc).th = s.th := by
  unfold acquireCore; dsimp only
  rw [onMem_th]; split <;> simp

@[simp] theorem releaseCore_th (s : State) (c : Nat) (sc : Scope) : (releaseCore s c sc).th = s.th := by
  unfold releaseCore; split
  · rfl
  · dsimp only
    have f := foldl_eq State.th (f := fun s (x : Copy1) => if x.core = c && !x.hc then writeBack s x else s)
      (fun s r => by split <;> simp) s.mem.l1 s
    split
    · rw [carryOut_th]; exact f
    · exact f

/-! ### Engine operations -/

@[simp] theorem enginePut_th (core te : Nat) (l : List Span) : ∀ (s : State) (bs : List Byte),
    (enginePut s core te l bs).th = s.th := by
  induction l with
  | nil => intro s bs; rfl
  | cons x t ih => intro s bs; unfold enginePut; dsimp only; rw [ih]; split <;> simp

@[simp] theorem engineWrite_th (s : State) (core te : Nat) (l : List Span) (bs : List Byte) :
    (engineWrite s core te l bs).th = s.th := by unfold engineWrite; simp

@[simp] theorem engineLease_th (s : State) (te : Nat) (l : List Span) : (engineLease s te l).th = s.th := by
  unfold engineLease; exact foldl_eq State.th (fun s x => by dsimp only; split <;> rfl) _ _

theorem engineOp_th {s s' : State} {core tenant ti te : Nat} {src dst : List (Nat × Nat)} {f : List Byte → List Byte}
    (he : engineOp s core tenant ti src dst f = .done s' te) : s'.th = s.th := by
  unfold engineOp at he
  split at he
  · cases he
  · cases he
  · split at he
    · cases he
    · cases he
    · cases he; simp

theorem engineStore_th {s s' : State} {core tenant ti a te : Nat} {bs : List Byte}
    (he : engineStore s core tenant ti a bs = some (s', te)) : s'.th = s.th := by
  unfold engineStore at he
  split at he
  · cases he; exact engineOp_th ‹_›
  · cases he

@[simp] theorem devWrite_th (s : State) (a : Nat) (bs : List Byte) : (devWrite s a bs).th = s.th := engineWrite_th ..

theorem record_th {s s' : State} {core tenant ti a te : Nat} {bs : List Byte}
    (he : record s core tenant ti a bs = .done s' te) : s'.th = s.th := by
  unfold record at he
  split at he <;> cases he
  rw [engineOp_th ‹_›, settle_th]

/-! ### Reports, logs and releases -/

@[simp] theorem traceFor_th (s : State) (c sl ty q a b : Nat) : (traceFor s c sl ty q a b).th = s.th := by
  unfold traceFor
  split
  · rfl
  · split
    · dsimp only
      by_cases h : 0 < ‹Trace›.lost ∧ ‹Trace›.wr + 32 - ‹Trace›.rd ≤ ‹Trace›.size
      · simp only [h, decide_true, Bool.and_self, if_true]
        split <;> simp
      · have : (decide (0 < ‹Trace›.lost) && decide (‹Trace›.wr + 32 - ‹Trace›.rd ≤ ‹Trace›.size)) = false := by
          simpa using h
        simp only [this, Bool.false_eq_true, if_false]
        split <;> simp
    · rfl

@[simp] theorem trace_th (s : State) (ty a b : Nat) : (s.trace ty a b).th = s.th := traceFor_th _ _ _ _ _ _ _

@[simp] theorem branch_th (s : State) (a b : Nat) : (s.branch a b).th = s.th := by unfold State.branch; split <;> rfl

theorem tryAppend_th {s s' : State} {l : Launch} (h : tryAppend s l = .done s') : s'.th = s.th := by
  unfold tryAppend at h
  split at h
  · cases h
  · dsimp only at h
    split at h
    · cases h
    · cases h
    · split at h
      · cases h
      · cases h; simp

@[simp] theorem appendLog_th (s : State) (l : Nat) : (appendLog s l).2.th = s.th := by
  unfold appendLog; split
  · rfl
  · split
    · exact tryAppend_th ‹_›
    · rfl
    · rfl

@[simp] theorem logWait_th (s : State) (l t : Nat) (st : Word) (ts : Nat) : (logWait s l t st ts).th = s.th := by
  simp [logWait]

/-- A release leaves a current thread that it does not select. -/
theorem release_th {s : State} {p : Thread → Bool} {st : Word} {ts : Nat} {acq : Option Scope}
    (h : (s.th.live && p s.th) = false) : (s.release p st ts acq).th = s.th := by
  unfold State.release
  dsimp only
  rw [foldl_eq State.th (fun s e => logWait_th _ _ _ _ _)]
  split
  · rw [foldl_eq State.th (fun s e => acquireCore_th _ _ _)]; simp [h]
  · simp [h]

@[simp] theorem dieEnqueue_th (s : State) (d : Nat) (r : Rec) (p : Nat) : (dieEnqueue s d r p).th = s.th := rfl

theorem enqueue_th {s s' : State} {f : Nat} {r : Rec} {p : Nat} (h : enqueue s f r p = some s') : s'.th = s.th := by
  unfold enqueue at h; dsimp only at h
  split at h
  · cases h; rfl
  · split at h
    · cases h; rfl
    · cases h

@[simp] theorem enqueueAnyway_th (s : State) (r : Rec) (p : Nat) : (enqueueAnyway s r p).th = s.th := by
  unfold enqueueAnyway; split
  · exact enqueue_th ‹_›
  · rfl

@[simp] theorem unpark_th (s : State) (p : Parked → Bool) (r t : Nat) : (unpark s p r t).th = s.th := by
  unfold unpark; dsimp only
  rw [foldl_eq State.th (fun s e => enqueueAnyway_th _ _ _)]

@[simp] theorem raiseIrq_th (s : State) (r : Nat) : (raiseIrq s r).th = s.th := by unfold raiseIrq; split <;> rfl

@[simp] theorem completePacket_th (s : State) (r q : Nat) : (completePacket s r q).th = s.th := by
  unfold completePacket; dsimp only; split
  · rfl
  · split <;> simp

@[simp] theorem releaseRings_th (s : State) (p : RingWait → Bool) : (releaseRings s p).th = s.th := by
  unfold releaseRings
  refine foldl_eq State.th (fun s e => ?_) _ _
  dsimp only; split
  · split <;> simp
  · rfl

@[simp] theorem setKind_th (s : State) (h : Nat) (k : Kind) : (s.setKind h k).th = s.th := by
  unfold State.setKind; split <;> rfl

@[simp] theorem setMtx_th (s : State) (h : Nat) (m : Mtx) : (s.setMtx h m).th = s.th := by
  unfold State.setMtx; split <;> rfl

theorem waitsBar_none {t : Thread} (h : t.wait = .none) (a : Nat) (p : Nat → Bool) : waitsBar a p t = false := by
  unfold waitsBar; rw [h]

theorem barRelease_th {s : State} (hw : s.th.wait = .none) (h : Nat) (p : Nat → Bool) (b : Bool) (ts : Nat) :
    (barRelease s h p b ts).th = s.th := by
  unfold barRelease; dsimp only
  rw [releaseRings_th, unpark_th, release_th]; rw [waitsBar_none hw]; simp

theorem barBreak_th {s : State} (hw : s.th.wait = .none) (h : Nat) : (barBreak s h).th = s.th := by
  unfold barBreak; split
  · rfl
  · rw [barRelease_th] <;> simp [hw]

theorem barComplete_th {s : State} (hw : s.th.wait = .none) (h : Nat) : (barComplete s h).th = s.th := by
  unfold barComplete; split
  · rfl
  · dsimp only
    split
    · rw [barBreak_th] <;> simp [barRelease_th hw, hw]
    · simp [barRelease_th hw]

theorem barCount_th {s : State} (hw : s.th.wait = .none) (h : Nat) (b : Bar) : (barCount s h b).th = s.th := by
  unfold barCount; dsimp only; split
  · rw [barComplete_th] <;> simp [hw]
  · simp

theorem barArrive_th {s : State} (hw : s.th.wait = .none) (h i t : Nat) (q : Option Nat) (p : Nat) :
    (barArrive s h i t q p).2.th = s.th := by
  unfold barArrive; split
  · rfl
  · split
    · rfl
    · split
      · rfl
      · split
        · rfl
        · exact barCount_th hw _ _

theorem engineBreak_th {s : State} (hw : s.th.wait = .none) (h i : Nat) : (engineBreak s h i).th = s.th := by
  unfold engineBreak; split
  · rfl
  · split
    · exact barBreak_th hw _
    · rfl

theorem barEnd_th {s : State} (hw : s.th.wait = .none) (h t : Nat) : (barEnd s h t).th = s.th := by
  unfold barEnd; split
  · rfl
  · split
    · rfl
    · dsimp only; split
      · simp
      · split
        · rw [barCount_th] <;> simp [hw]
        · rw [barBreak_th] <;> simp [hw]

theorem mtxPass_th {s : State} (hw : s.th.wait = .none) (h p : Nat) (a : Bool) : (mtxPass s h p a).th = s.th := by
  unfold mtxPass; split
  · simp
  · dsimp only; rw [release_th]
    · simp
    · simp [mtxSeq, hw]

theorem cntSet_th {s : State} (hw : s.th.wait = .none) (h : Nat) (v : Word) (p : Nat) : (cntSet s h v p).th = s.th := by
  unfold cntSet; dsimp only; rw [releaseRings_th, release_th]
  · simp
  · simp [hw]

theorem lineFire_th {s : State} (hw : s.th.wait = .none) (h p : Nat) : (lineFire s h p).th = s.th := by
  unfold lineFire; dsimp only; rw [unpark_th, release_th]; simp [hw]

/-! ### The global barrier and the end of a thread -/

theorem gbarPass_th {s : State} (hw : s.th.wait = .none) (l : Launch) : (gbarPass s l).th = s.th := by
  unfold gbarPass; dsimp only
  rw [release_th]
  · simp
  · simp [hw]

theorem gbarRecord_th {s s' : State} {l : Launch} {te : Nat} (h : gbarRecord s l = .done s' te) : s'.th = s.th := by
  unfold gbarRecord at h
  split at h
  · cases h
  · split at h
    · split at h
      · cases h
      · rw [record_th h, noteRange_th]
    · rw [record_th h, noteRange_th]

theorem gbarCheck_th {s : State} (hw : s.th.wait = .none) (l : Nat) : (gbarCheck s l).th = s.th := by
  unfold gbarCheck; split
  · rfl
  · split
    · rfl
    · split
      · split
        · next e => have := gbarRecord_th e; rw [gbarPass_th (by rw [this]; exact hw), this]
        · exact gbarPass_th hw _
        · rfl
      · exact gbarPass_th hw _

/-- The end of a thread leaves a current thread that does not wait (R253, R255, R257). -/
theorem threadGone_th {s : State} (hw : s.th.wait = .none) (t c l p : Nat) : (threadGone s t c l p).th = s.th := by
  have f1 : ∀ (hs : List Nat) (x : State), x.th = s.th → (hs.foldl (fun s h => barEnd s h t) x).th = s.th := by
    intro hs; induction hs with
    | nil => intro x hx; exact hx
    | cons h r ih => intro x hx; exact ih _ ((barEnd_th (by rw [hx]; exact hw) _ _).trans hx)
  have f2 : ∀ (hs : List Nat) (x : State), x.th = s.th → (hs.foldl (fun s h => mtxPass s h p true) x).th = s.th := by
    intro hs; induction hs with
    | nil => intro x hx; exact hx
    | cons h r ih => intro x hx; exact ih _ ((mtxPass_th (by rw [hx]; exact hw) _ _ _).trans hx)
  have rel : ∀ x : State, x.th = s.th → (if heldBy x t = [] then x else releaseCore x c .pkg).th = s.th := by
    intro x hx; split <;> simp [hx]
  unfold threadGone; dsimp only
  have h1 := f1 (s.sync.objs.map (·.1))
    { s with fab := { s.fab with forms := s.fab.forms.filter fun f => f.src ≠ (Sum.inl t : Nat ⊕ Nat) } } rfl
  have h2 := fun hs => f2 hs _ (rel _ h1)
  rw [gbarCheck_th]
  · rw [onLaunch_th]; exact h2 _
  · rw [onLaunch_th, h2]; exact hw

/-- A thread that ends with no stream port bound frees its slot (R196). -/
theorem endCurrent_slot {s : State} (hp : s.th.ports = []) (hl : s.th.live = true) :
    ∃ t, endCurrent s = some t ∧ t.th = Thread.idle s.th.core s.th.slot := by
  refine ⟨threadGone (s.freeSlot s.th) s.th.tid s.th.core s.th.lid s.th.pts, ?_, ?_⟩
  · unfold endCurrent portsEnd; rw [hp]; rfl
  · have e : (s.freeSlot s.th).th = Thread.idle s.th.core s.th.slot := by
      unfold State.freeSlot; simp [State.keepClock, hl]
    rw [threadGone_th] <;> rw [e]; rfl

end Sys2Proof.Machine
end

