-- ==== Sys2Proof/Laws/Ops.lean ====
section
/-! SUPPORT. What each shared operation of the machine does: reading settled operands, the checks before an instruction and
before an access, completing, waiting, and taking a trap. -/

namespace Sys2Proof.Machine

set_option linter.unusedVariables false

/-! ### Operands -/

theorem pending_none {t : Thread} {r : Nat} (h : ∀ p ∈ t.pend, p.reg ≠ r) : t.pending r = none := by
  simp [Thread.pending]; exact h

/-- A settled x register reads as its value (R141). -/
theorem opX_settled {s : State} {k : Nat} {a : Reg} {rs : List Nat} (h : Settled s.th rs) (ha : xr a ∈ rs) :
    s.opX k a = s.th.getX a := by
  unfold State.opX; rw [pending_none (r := a.val) (h _ ha)]

/-- A settled vector register reads as its value (R141). -/
theorem opV_settled {s : State} {k : Nat} {a : Reg} {rs : List Nat} (h : Settled s.th rs) (ha : vr a ∈ rs) :
    s.opV k a = s.th.getV a := by
  unfold State.opV; rw [pending_none (r := 32 + a.val) (h _ ha)]

theorem stalled_settled {t : Thread} {rs : List Nat} (h : Settled t rs) : t.stalled rs = none := by
  unfold Thread.stalled; split
  · simp [Thread.uncovered, List.find?_eq_none]; intro r hr p hp; exact h r hr p hp
  · rfl

theorem Settled.mono {t : Thread} {l k : List Nat} (h : Settled t l) (hs : ∀ r ∈ k, r ∈ l) : Settled t k :=
  fun r hr => h r (hs r hr)

/-! ### The checks before an instruction -/

/-- A scalar instruction whose sources have settled has its effect (R141, R170). -/
theorem attempt_settled {s k : State} {rs : List Nat} (h : Settled s.th rs) : attempt s false rs false k = k := by
  simp [attempt, stalled_settled h]

/-- A vector instruction whose sources have settled, in a slot that holds lanes, has its effect (R208). -/
theorem attempt_vector {s k : State} {rs : List Nat} (h : Settled s.th rs) (hg : s.th.gran ≠ 0) :
    attempt s false rs true k = k := by
  simp [attempt, stalled_settled h, hg]

/-- ILLEGAL comes before everything (R170). -/
theorem attempt_illegal (s k : State) (rs : List Nat) (v : Bool) : attempt s true rs v k = trapIllegal s := by
  simp [attempt]

/-! ### Completing -/

/-- Completing with a new thread state that issues as before. -/
theorem done_retire (s : State) (u : Thread) (hi : u.ir = s.th.ir) (hr : u.rep = s.th.rep) (hp : u.pc = s.th.pc) :
    Done s (retire { s with th := u }) u := by
  refine ⟨rfl, complete_issueOnly u, ?_, fun h => ?_⟩
  · show u.complete.stall = _; rw [complete_stall, hi]
  · show u.complete.pc = _ ∧ u.complete.rep = _
    have := complete_pc u (hr.trans h); rwa [hp] at this

/-- The outstanding results of the thread that completed do not matter to `Done`. -/
theorem Done.of_pend {s t : State} {u w : Thread} (h : Done s t u) (hp : u = { w with pend := u.pend }) : Done s t w := by
  obtain ⟨a, b, c⟩ := h
  refine ⟨a, ?_, c⟩
  unfold IssueOnly at *
  rw [b]; rw [hp]

/-- An interlocked result in an x register, from a state that differs from the first in its thread alone. -/
theorem done_retX {s s1 : State} (d : Reg) (v : Word) (h0 : ThreadOnly s s1) (hi : s1.th.ir = s.th.ir)
    (hr : s1.th.rep = s.th.rep) (hp : s1.th.pc = s.th.pc) : Done s (retX s1 d v) (s1.th.setX d v) := by
  have h := done_retire s ((s1.th.setX d v).forget d.val) (by simp [Thread.forget, hi]) (by simp [Thread.forget, hr])
    (by simp [Thread.forget, hp])
  have e : retX s1 d v = retire { s with th := (s1.th.setX d v).forget d.val } := by unfold retX State.wrX; rw [h0]
  rw [e]; exact h.of_pend rfl

/-- A fixed-latency result in an x register, likewise (R139). -/
theorem done_retXFix {s s1 : State} (l : Nat) (d : Reg) (v : Word) (h0 : ThreadOnly s s1) (hi : s1.th.ir = s.th.ir)
    (hr : s1.th.rep = s.th.rep) (hp : s1.th.pc = s.th.pc) : Done s (retXFix s1 l d v) (s1.th.setX d v) := by
  unfold retXFix State.wrXFix
  split
  · exact done_retX d v h0 hi hr hp
  · have h := done_retire s
      { (s1.th.setX d v).forget d.val with
        pend := ⟨d.val, l, (s1.th.getX d).setWidth 2048, false⟩ :: ((s1.th.setX d v).forget d.val).pend }
      (by simp [Thread.forget, hi]) (by simp [Thread.forget, hr]) (by simp [Thread.forget, hp])
    have e : ∀ x : Thread, ({ s1 with th := x } : State) = { s with th := x } := by intro x; rw [h0]
    rw [e]; exact h.of_pend rfl

/-- An interlocked form with two settled sources. -/
theorem opXX_done {s : State} {d a b : Reg} {f : Word → Word → Word} {v : Word} (h : Settled s.th [xr a, xr b])
    (hv : f (s.th.getX a) (s.th.getX b) = v) : Done s (opXX s d a b f) (s.th.setX d v) := by
  unfold opXX
  rw [attempt_settled h, opX_settled h (by simp), opX_settled h (by simp), hv]
  exact done_retX d v rfl rfl rfl rfl

/-- A fixed-latency form with two settled sources. -/
theorem opXXFix_done {s : State} {l : Nat} {d a b : Reg} {f : Word → Word → Word} {v : Word}
    (h : Settled s.th [xr a, xr b]) (hv : f (s.th.getX a) (s.th.getX b) = v) :
    Done s (opXXFix s l d a b f) (s.th.setX d v) := by
  unfold opXXFix
  rw [attempt_settled h, opX_settled h (by simp), opX_settled h (by simp), hv]
  exact done_retXFix l d v rfl rfl rfl rfl

/-- An interlocked form with one settled source. -/
theorem opX1_done {s : State} {d a : Reg} {f : Word → Word} {v : Word} (h : Settled s.th [xr a])
    (hv : f (s.th.getX a) = v) : Done s (opX1 s d a f) (s.th.setX d v) := by
  unfold opX1
  rw [attempt_settled h, opX_settled h (by simp), hv]
  exact done_retX d v rfl rfl rfl rfl

/-- A rounding form whose mode is legal and whose sources have settled (R174): its draw, its flags, then `k`. -/
theorem fpRound_settled {s : State} {r m : RM} {srcs : List Nat} {f : Mode → Rnd} {k : State → Word → State}
    (hm : rmEff r s.th.frm = some m) (h : Settled s.th srcs) :
    fpRound s r srcs f k = rounded s m (f (s.th.mode m 0 1 0)) k := by
  unfold fpRound; rw [hm]; exact attempt_settled h

/-! ### Accesses -/

/-- With no debug comparator on the core an access goes on (R336). -/
theorem watched_none {s : State} {acc : List Nat} {w : Bool} {k : State} (h : ∀ d ∈ s.host.dbg, d.core ≠ s.th.core) :
    watched s acc w k = k := by
  have : (s.host.dbg.find? fun d => decide (d.core = s.th.core)) = none := by
    rw [List.find?_eq_none]; intro d hd; simpa using h d hd
  unfold watched; simp [this]

/-- An access that resolves does what follows it, when it finds what it needs unpoisoned (R170, R183, R367). -/
theorem access_resolved {s : State} {nd : Need} {a n key : Nat} {cls : Cls} {k : Nat → Cls → State} {home : Cls → Bool}
    (h : Resolves s nd a n key cls) (hh : home cls = true → needsHome s a key cls = false)
    (hb : nd = .rd → (if home cls then badHome s a key n else badRead s a key n cls) = false) :
    access s nd a n k home = k key cls := by
  obtain ⟨h1, h2, h4⟩ := h
  unfold access
  simp only [h1, ne_eq, not_true_eq_false, if_false, h2]
  rw [if_neg, if_neg, watched_none h4]
  · intro hc
    simp only [Bool.and_eq_true, decide_eq_true_eq] at hc
    rw [hb hc.1] at hc; simp at hc
  · intro hc
    simp only [Bool.and_eq_true] at hc
    rw [hh hc.1] at hc; simp at hc

/-- An access whose checks pass does what follows it. -/
theorem access_ok {s : State} {nd : Need} {a n key : Nat} {cls : Cls} {k : Nat → Cls → State}
    (h : CanAccess s nd a n key cls) : access s nd a n k = k key cls :=
  access_resolved h.1 (by simp) (by simpa using h.2)

/-- An access at its home whose checks pass does what follows it. -/
theorem access_home {s : State} {nd : Need} {a n key : Nat} {cls : Cls} {k : Nat → Cls → State} {home : Cls → Bool}
    (h : CanAccessHome s nd a n key cls) (hc : home cls = true) : access s nd a n k home = k key cls :=
  access_resolved h.1 (fun _ => h.2.1) (by simpa [hc] using h.2.2)

theorem accessRW_ok {s : State} {a n key : Nat} {cls : Cls} {k : Nat → Cls → State} (h : CanAccessRW s a n key cls) :
    accessRW s a n k = k key cls := by
  unfold accessRW; rw [access_ok h.1, access_home h.2 rfl]

/-- A misaligned access traps before anything else is looked at (R170, R183). -/
theorem access_misaligned {s : State} {nd : Need} {a n : Nat} {k : Nat → Cls → State} {home : Cls → Bool} (h : a % n ≠ 0) :
    access s nd a n k home = trap s .misalign a 0 := by
  unfold access; rw [if_pos h]

/-- A usable handle lets an instruction have its effect (R235). -/
theorem onHandle_ok {s k : State} {h : Nat} {kd : HKind} {o : Obj} (hu : CanUse s h kd o) : onHandle s h kd k = k := by
  obtain ⟨h1, h2, h3, h4, h5, h6⟩ := hu
  have : handleCheck s h kd = none := by
    have hr : region h ≠ .reserved := by intro hc; simp [inSync, hc] at h3
    simp [handleCheck, h1, h3, h4, h5, h6, hr]; omega
  unfold onHandle; rw [this]

end Sys2Proof.Machine
end

