-- ==== Sys2Proof/Laws/PerInstr.lean ====
section
/-! SUPPORT. One lemma per constructor: the decoder reads an instruction's word back as that instruction. -/

namespace Sys2Proof.Laws.RoundTrip

set_option linter.unusedSimpArgs false
set_option linter.unusedVariables false

/-- The word of a well-formed instruction has 32 bits, and decoding it gives the instruction back, with its stall count (R136 to R168). -/
def Statement (i : Instr) : Prop :=
  ∀ (ver : Nat) (w : Fin 4) (n : Nat),
    wellFormed ver ⟨w, i⟩ = true → encode ⟨w, i⟩ = some n → n < 2 ^ 32 ∧ decode ver n = some ⟨w, i⟩

/-- An event has no word. -/
theorem of_none {i : Instr} (h : encodeRaw i = none) : Statement i := by
  intro ver w n _ hn
  simp [encode, h] at hn

/-- It is enough that the low 30 bits decode to the instruction. -/
theorem of_raw {i : Instr} {m : Nat} (h : encodeRaw i = some m) (hm : m < 2 ^ 30)
    (hd : formOk i = true → ∀ N, fld N 0 30 = m → decodeRaw N = some i) : Statement i := by
  intro ver w n hw hn
  simp only [encode, h, Option.map_some, Option.some.injEq] at hn
  have hf : formOk i = true := by simp [wellFormed] at hw; exact hw.1.1
  have hr := hd hf n (by rw [← hn]; simp only [fld]; omega)
  have hfw : fldW n = w := by
    apply Fin.ext; rw [← hn]; simp only [fldW, fld, Fin.ofNat]; omega
  have hlt : n < 2 ^ 32 := by rw [← hn]; have := w.isLt; omega
  exact ⟨hlt, by simp [decode, hr, hfw, hw]⟩

theorem fin_ofNat {n : Nat} [NeZero n] (x : Fin n) : Fin.ofNat n x.val = x := by
  apply Fin.ext; simp [Fin.ofNat, Nat.mod_eq_of_lt x.isLt]

theorem bv_ofNat {n : Nat} (x : BitVec n) : BitVec.ofNat n x.toNat = x := by simp

theorem rM_lt (x : RM) : x.code < 8 := by cases x <;> decide
theorem fT_lt (x : FT) : x.code < 4 := by cases x <;> decide
theorem numT_lt (x : NumT) : x.code < 8 := by cases x <;> decide
theorem iT_lt (x : IT) : x.code < 8 := by cases x <;> decide
theorem rT_lt (x : RT) : x.code < 8 := by cases x <;> decide
theorem hint_lt (x : Hint) : x.code < 4 := by cases x <;> decide
theorem scope_lt (x : Scope) : x.code < 5 := by cases x <;> decide
theorem ldK_lt (x : LdK) : x.code < 7 := by cases x <;> decide
theorem stK_lt (x : StK) : x.code < 4 := by cases x <;> decide
theorem aqZ_lt (x : AqZ) : x.code < 3 := by cases x <;> decide
theorem amZ_lt (x : AmZ) : x.code < 2 := by cases x <;> decide
theorem faZ_lt (x : FaZ) : x.code < 4 := by cases x <;> decide
theorem eW_lt (x : EW) : x.code < 4 := by cases x <;> decide
theorem fmt_lt (x : Fmt) : x.code < 15 := by cases x <;> decide
theorem decodeRaw_vfp (N : Nat) (t : FT) (h : fld N 24 6 = 36 + t.code) : decodeRaw N = decodeVFp N := by
  cases t <;> simp only [FT.code] at h <;> simp only [decodeRaw, h]

theorem fld_fld (N lo n k : Nat) (h : lo + n ≤ k) : fld N lo n = fld N 0 k / 2 ^ lo % 2 ^ n := by
  obtain ⟨j, rfl⟩ := Nat.exists_eq_add_of_le h
  simp only [fld, pow_zero, Nat.div_one]
  rw [show 2 ^ (lo + n + j) = 2 ^ lo * (2 ^ n * 2 ^ j) by ring, Nat.mod_mul_right_div_self, Nat.mod_mul_right_mod]

/-- The fields of a word of shape 19_14_9_0, and the parts of its lowest field. -/
theorem shape_19_14_9_0 (N f0 f1 f2 f3 f4 : Nat) (h0 : f0 < 2 ^ 6) (h1 : f1 < 2 ^ 5) (h2 : f2 < 2 ^ 5) (h3 : f3 < 2 ^ 5) (h4 : f4 < 2 ^ 9)
    (h : fld N 0 30 = f0 * 2 ^ 24 + f1 * 2 ^ 19 + f2 * 2 ^ 14 + f3 * 2 ^ 9 + f4) :
    (fld N 24 6 = f0 ∧ fld N 19 5 = f1 ∧ fld N 14 5 = f2 ∧ fld N 9 5 = f3 ∧ fld N 0 9 = f4) ∧ ∀ lo n, lo + n ≤ 9 → fld N lo n = f4 / 2 ^ lo % 2 ^ n := by
  have hl : fld N 0 9 = f4 := by simp only [fld] at h ⊢; omega
  refine ⟨by simp only [fld] at h ⊢; omega, fun lo n hle => ?_⟩
  rw [← hl, fld_fld N lo n 9 hle]

/-- A word of shape 19_14_9_0 from its fields. -/
theorem of_19_14_9_0 {i : Instr} {m : Nat} (h : encodeRaw i = some m) (f0 f1 f2 f3 f4 : Nat) (h0 : f0 < 2 ^ 6) (h1 : f1 < 2 ^ 5) (h2 : f2 < 2 ^ 5) (h3 : f3 < 2 ^ 5) (h4 : f4 < 2 ^ 9)
    (hm : m = f0 * 2 ^ 24 + f1 * 2 ^ 19 + f2 * 2 ^ 14 + f3 * 2 ^ 9 + f4)
    (hd : formOk i = true → ∀ N, fld N 0 30 = f0 * 2 ^ 24 + f1 * 2 ^ 19 + f2 * 2 ^ 14 + f3 * 2 ^ 9 + f4 →
      ((fld N 24 6 = f0 ∧ fld N 19 5 = f1 ∧ fld N 14 5 = f2 ∧ fld N 9 5 = f3 ∧ fld N 0 9 = f4) ∧ ∀ lo n, lo + n ≤ 9 → fld N lo n = f4 / 2 ^ lo % 2 ^ n) → decodeRaw N = some i) :
    Statement i := by
  refine of_raw h (by omega) fun hf N hN => hd hf N (by omega) (shape_19_14_9_0 N f0 f1 f2 f3 f4 h0 h1 h2 h3 h4 (by omega))

/-- The fields of a word of shape 19_14_0, and the parts of its lowest field. -/
theorem shape_19_14_0 (N f0 f1 f2 f3 : Nat) (h0 : f0 < 2 ^ 6) (h1 : f1 < 2 ^ 5) (h2 : f2 < 2 ^ 5) (h3 : f3 < 2 ^ 14)
    (h : fld N 0 30 = f0 * 2 ^ 24 + f1 * 2 ^ 19 + f2 * 2 ^ 14 + f3) :
    (fld N 24 6 = f0 ∧ fld N 19 5 = f1 ∧ fld N 14 5 = f2 ∧ fld N 0 14 = f3) ∧ ∀ lo n, lo + n ≤ 14 → fld N lo n = f3 / 2 ^ lo % 2 ^ n := by
  have hl : fld N 0 14 = f3 := by simp only [fld] at h ⊢; omega
  refine ⟨by simp only [fld] at h ⊢; omega, fun lo n hle => ?_⟩
  rw [← hl, fld_fld N lo n 14 hle]

/-- A word of shape 19_14_0 from its fields. -/
theorem of_19_14_0 {i : Instr} {m : Nat} (h : encodeRaw i = some m) (f0 f1 f2 f3 : Nat) (h0 : f0 < 2 ^ 6) (h1 : f1 < 2 ^ 5) (h2 : f2 < 2 ^ 5) (h3 : f3 < 2 ^ 14)
    (hm : m = f0 * 2 ^ 24 + f1 * 2 ^ 19 + f2 * 2 ^ 14 + f3)
    (hd : formOk i = true → ∀ N, fld N 0 30 = f0 * 2 ^ 24 + f1 * 2 ^ 19 + f2 * 2 ^ 14 + f3 →
      ((fld N 24 6 = f0 ∧ fld N 19 5 = f1 ∧ fld N 14 5 = f2 ∧ fld N 0 14 = f3) ∧ ∀ lo n, lo + n ≤ 14 → fld N lo n = f3 / 2 ^ lo % 2 ^ n) → decodeRaw N = some i) :
    Statement i := by
  refine of_raw h (by omega) fun hf N hN => hd hf N (by omega) (shape_19_14_0 N f0 f1 f2 f3 h0 h1 h2 h3 (by omega))

/-- The fields of a word of shape 19_14_12_0, and the parts of its lowest field. -/
theorem shape_19_14_12_0 (N f0 f1 f2 f3 f4 : Nat) (h0 : f0 < 2 ^ 6) (h1 : f1 < 2 ^ 5) (h2 : f2 < 2 ^ 5) (h3 : f3 < 2 ^ 2) (h4 : f4 < 2 ^ 12)
    (h : fld N 0 30 = f0 * 2 ^ 24 + f1 * 2 ^ 19 + f2 * 2 ^ 14 + f3 * 2 ^ 12 + f4) :
    (fld N 24 6 = f0 ∧ fld N 19 5 = f1 ∧ fld N 14 5 = f2 ∧ fld N 12 2 = f3 ∧ fld N 0 12 = f4) ∧ ∀ lo n, lo + n ≤ 12 → fld N lo n = f4 / 2 ^ lo % 2 ^ n := by
  have hl : fld N 0 12 = f4 := by simp only [fld] at h ⊢; omega
  refine ⟨by simp only [fld] at h ⊢; omega, fun lo n hle => ?_⟩
  rw [← hl, fld_fld N lo n 12 hle]

/-- A word of shape 19_14_12_0 from its fields. -/
theorem of_19_14_12_0 {i : Instr} {m : Nat} (h : encodeRaw i = some m) (f0 f1 f2 f3 f4 : Nat) (h0 : f0 < 2 ^ 6) (h1 : f1 < 2 ^ 5) (h2 : f2 < 2 ^ 5) (h3 : f3 < 2 ^ 2) (h4 : f4 < 2 ^ 12)
    (hm : m = f0 * 2 ^ 24 + f1 * 2 ^ 19 + f2 * 2 ^ 14 + f3 * 2 ^ 12 + f4)
    (hd : formOk i = true → ∀ N, fld N 0 30 = f0 * 2 ^ 24 + f1 * 2 ^ 19 + f2 * 2 ^ 14 + f3 * 2 ^ 12 + f4 →
      ((fld N 24 6 = f0 ∧ fld N 19 5 = f1 ∧ fld N 14 5 = f2 ∧ fld N 12 2 = f3 ∧ fld N 0 12 = f4) ∧ ∀ lo n, lo + n ≤ 12 → fld N lo n = f4 / 2 ^ lo % 2 ^ n) → decodeRaw N = some i) :
    Statement i := by
  refine of_raw h (by omega) fun hf N hN => hd hf N (by omega) (shape_19_14_12_0 N f0 f1 f2 f3 f4 h0 h1 h2 h3 h4 (by omega))

/-- The fields of a word of shape 0, and the parts of its lowest field. -/
theorem shape_0 (N f0 f1 : Nat) (h0 : f0 < 2 ^ 6) (h1 : f1 < 2 ^ 24)
    (h : fld N 0 30 = f0 * 2 ^ 24 + f1) :
    (fld N 24 6 = f0 ∧ fld N 0 24 = f1) ∧ ∀ lo n, lo + n ≤ 24 → fld N lo n = f1 / 2 ^ lo % 2 ^ n := by
  have hl : fld N 0 24 = f1 := by simp only [fld] at h ⊢; omega
  refine ⟨by simp only [fld] at h ⊢; omega, fun lo n hle => ?_⟩
  rw [← hl, fld_fld N lo n 24 hle]

/-- A word of shape 0 from its fields. -/
theorem of_0 {i : Instr} {m : Nat} (h : encodeRaw i = some m) (f0 f1 : Nat) (h0 : f0 < 2 ^ 6) (h1 : f1 < 2 ^ 24)
    (hm : m = f0 * 2 ^ 24 + f1)
    (hd : formOk i = true → ∀ N, fld N 0 30 = f0 * 2 ^ 24 + f1 →
      ((fld N 24 6 = f0 ∧ fld N 0 24 = f1) ∧ ∀ lo n, lo + n ≤ 24 → fld N lo n = f1 / 2 ^ lo % 2 ^ n) → decodeRaw N = some i) :
    Statement i := by
  refine of_raw h (by omega) fun hf N hN => hd hf N (by omega) (shape_0 N f0 f1 h0 h1 (by omega))

/-- The fields of a word of shape 19_13_12_0, and the parts of its lowest field. -/
theorem shape_19_13_12_0 (N f0 f1 f2 f3 f4 : Nat) (h0 : f0 < 2 ^ 6) (h1 : f1 < 2 ^ 5) (h2 : f2 < 2 ^ 6) (h3 : f3 < 2 ^ 1) (h4 : f4 < 2 ^ 12)
    (h : fld N 0 30 = f0 * 2 ^ 24 + f1 * 2 ^ 19 + f2 * 2 ^ 13 + f3 * 2 ^ 12 + f4) :
    (fld N 24 6 = f0 ∧ fld N 19 5 = f1 ∧ fld N 13 6 = f2 ∧ fld N 12 1 = f3 ∧ fld N 0 12 = f4) ∧ ∀ lo n, lo + n ≤ 12 → fld N lo n = f4 / 2 ^ lo % 2 ^ n := by
  have hl : fld N 0 12 = f4 := by simp only [fld] at h ⊢; omega
  refine ⟨by simp only [fld] at h ⊢; omega, fun lo n hle => ?_⟩
  rw [← hl, fld_fld N lo n 12 hle]

/-- A word of shape 19_13_12_0 from its fields. -/
theorem of_19_13_12_0 {i : Instr} {m : Nat} (h : encodeRaw i = some m) (f0 f1 f2 f3 f4 : Nat) (h0 : f0 < 2 ^ 6) (h1 : f1 < 2 ^ 5) (h2 : f2 < 2 ^ 6) (h3 : f3 < 2 ^ 1) (h4 : f4 < 2 ^ 12)
    (hm : m = f0 * 2 ^ 24 + f1 * 2 ^ 19 + f2 * 2 ^ 13 + f3 * 2 ^ 12 + f4)
    (hd : formOk i = true → ∀ N, fld N 0 30 = f0 * 2 ^ 24 + f1 * 2 ^ 19 + f2 * 2 ^ 13 + f3 * 2 ^ 12 + f4 →
      ((fld N 24 6 = f0 ∧ fld N 19 5 = f1 ∧ fld N 13 6 = f2 ∧ fld N 12 1 = f3 ∧ fld N 0 12 = f4) ∧ ∀ lo n, lo + n ≤ 12 → fld N lo n = f4 / 2 ^ lo % 2 ^ n) → decodeRaw N = some i) :
    Statement i := by
  refine of_raw h (by omega) fun hf N hN => hd hf N (by omega) (shape_19_13_12_0 N f0 f1 f2 f3 f4 h0 h1 h2 h3 h4 (by omega))

/-- The fields of a word of shape 19_14_12_6_0, and the parts of its lowest field. -/
theorem shape_19_14_12_6_0 (N f0 f1 f2 f3 f4 f5 : Nat) (h0 : f0 < 2 ^ 6) (h1 : f1 < 2 ^ 5) (h2 : f2 < 2 ^ 5) (h3 : f3 < 2 ^ 2) (h4 : f4 < 2 ^ 6) (h5 : f5 < 2 ^ 6)
    (h : fld N 0 30 = f0 * 2 ^ 24 + f1 * 2 ^ 19 + f2 * 2 ^ 14 + f3 * 2 ^ 12 + f4 * 2 ^ 6 + f5) :
    (fld N 24 6 = f0 ∧ fld N 19 5 = f1 ∧ fld N 14 5 = f2 ∧ fld N 12 2 = f3 ∧ fld N 6 6 = f4 ∧ fld N 0 6 = f5) ∧ ∀ lo n, lo + n ≤ 6 → fld N lo n = f5 / 2 ^ lo % 2 ^ n := by
  have hl : fld N 0 6 = f5 := by simp only [fld] at h ⊢; omega
  refine ⟨by simp only [fld] at h ⊢; omega, fun lo n hle => ?_⟩
  rw [← hl, fld_fld N lo n 6 hle]

/-- A word of shape 19_14_12_6_0 from its fields. -/
theorem of_19_14_12_6_0 {i : Instr} {m : Nat} (h : encodeRaw i = some m) (f0 f1 f2 f3 f4 f5 : Nat) (h0 : f0 < 2 ^ 6) (h1 : f1 < 2 ^ 5) (h2 : f2 < 2 ^ 5) (h3 : f3 < 2 ^ 2) (h4 : f4 < 2 ^ 6) (h5 : f5 < 2 ^ 6)
    (hm : m = f0 * 2 ^ 24 + f1 * 2 ^ 19 + f2 * 2 ^ 14 + f3 * 2 ^ 12 + f4 * 2 ^ 6 + f5)
    (hd : formOk i = true → ∀ N, fld N 0 30 = f0 * 2 ^ 24 + f1 * 2 ^ 19 + f2 * 2 ^ 14 + f3 * 2 ^ 12 + f4 * 2 ^ 6 + f5 →
      ((fld N 24 6 = f0 ∧ fld N 19 5 = f1 ∧ fld N 14 5 = f2 ∧ fld N 12 2 = f3 ∧ fld N 6 6 = f4 ∧ fld N 0 6 = f5) ∧ ∀ lo n, lo + n ≤ 6 → fld N lo n = f5 / 2 ^ lo % 2 ^ n) → decodeRaw N = some i) :
    Statement i := by
  refine of_raw h (by omega) fun hf N hN => hd hf N (by omega) (shape_19_14_12_6_0 N f0 f1 f2 f3 f4 f5 h0 h1 h2 h3 h4 h5 (by omega))

/-- The fields of a word of shape 19_0, and the parts of its lowest field. -/
theorem shape_19_0 (N f0 f1 f2 : Nat) (h0 : f0 < 2 ^ 6) (h1 : f1 < 2 ^ 5) (h2 : f2 < 2 ^ 19)
    (h : fld N 0 30 = f0 * 2 ^ 24 + f1 * 2 ^ 19 + f2) :
    (fld N 24 6 = f0 ∧ fld N 19 5 = f1 ∧ fld N 0 19 = f2) ∧ ∀ lo n, lo + n ≤ 19 → fld N lo n = f2 / 2 ^ lo % 2 ^ n := by
  have hl : fld N 0 19 = f2 := by simp only [fld] at h ⊢; omega
  refine ⟨by simp only [fld] at h ⊢; omega, fun lo n hle => ?_⟩
  rw [← hl, fld_fld N lo n 19 hle]

/-- A word of shape 19_0 from its fields. -/
theorem of_19_0 {i : Instr} {m : Nat} (h : encodeRaw i = some m) (f0 f1 f2 : Nat) (h0 : f0 < 2 ^ 6) (h1 : f1 < 2 ^ 5) (h2 : f2 < 2 ^ 19)
    (hm : m = f0 * 2 ^ 24 + f1 * 2 ^ 19 + f2)
    (hd : formOk i = true → ∀ N, fld N 0 30 = f0 * 2 ^ 24 + f1 * 2 ^ 19 + f2 →
      ((fld N 24 6 = f0 ∧ fld N 19 5 = f1 ∧ fld N 0 19 = f2) ∧ ∀ lo n, lo + n ≤ 19 → fld N lo n = f2 / 2 ^ lo % 2 ^ n) → decodeRaw N = some i) :
    Statement i := by
  refine of_raw h (by omega) fun hf N hN => hd hf N (by omega) (shape_19_0 N f0 f1 f2 h0 h1 h2 (by omega))

/-- The fields of a word of shape 19_14_9_6_3_0, and the parts of its lowest field. -/
theorem shape_19_14_9_6_3_0 (N f0 f1 f2 f3 f4 f5 f6 : Nat) (h0 : f0 < 2 ^ 6) (h1 : f1 < 2 ^ 5) (h2 : f2 < 2 ^ 5) (h3 : f3 < 2 ^ 5) (h4 : f4 < 2 ^ 3) (h5 : f5 < 2 ^ 3) (h6 : f6 < 2 ^ 3)
    (h : fld N 0 30 = f0 * 2 ^ 24 + f1 * 2 ^ 19 + f2 * 2 ^ 14 + f3 * 2 ^ 9 + f4 * 2 ^ 6 + f5 * 2 ^ 3 + f6) :
    (fld N 24 6 = f0 ∧ fld N 19 5 = f1 ∧ fld N 14 5 = f2 ∧ fld N 9 5 = f3 ∧ fld N 6 3 = f4 ∧ fld N 3 3 = f5 ∧ fld N 0 3 = f6) ∧ ∀ lo n, lo + n ≤ 3 → fld N lo n = f6 / 2 ^ lo % 2 ^ n := by
  have hl : fld N 0 3 = f6 := by simp only [fld] at h ⊢; omega
  refine ⟨by simp only [fld] at h ⊢; omega, fun lo n hle => ?_⟩
  rw [← hl, fld_fld N lo n 3 hle]

/-- A word of shape 19_14_9_6_3_0 from its fields. -/
theorem of_19_14_9_6_3_0 {i : Instr} {m : Nat} (h : encodeRaw i = some m) (f0 f1 f2 f3 f4 f5 f6 : Nat) (h0 : f0 < 2 ^ 6) (h1 : f1 < 2 ^ 5) (h2 : f2 < 2 ^ 5) (h3 : f3 < 2 ^ 5) (h4 : f4 < 2 ^ 3) (h5 : f5 < 2 ^ 3) (h6 : f6 < 2 ^ 3)
    (hm : m = f0 * 2 ^ 24 + f1 * 2 ^ 19 + f2 * 2 ^ 14 + f3 * 2 ^ 9 + f4 * 2 ^ 6 + f5 * 2 ^ 3 + f6)
    (hd : formOk i = true → ∀ N, fld N 0 30 = f0 * 2 ^ 24 + f1 * 2 ^ 19 + f2 * 2 ^ 14 + f3 * 2 ^ 9 + f4 * 2 ^ 6 + f5 * 2 ^ 3 + f6 →
      ((fld N 24 6 = f0 ∧ fld N 19 5 = f1 ∧ fld N 14 5 = f2 ∧ fld N 9 5 = f3 ∧ fld N 6 3 = f4 ∧ fld N 3 3 = f5 ∧ fld N 0 3 = f6) ∧ ∀ lo n, lo + n ≤ 3 → fld N lo n = f6 / 2 ^ lo % 2 ^ n) → decodeRaw N = some i) :
    Statement i := by
  refine of_raw h (by omega) fun hf N hN => hd hf N (by omega) (shape_19_14_9_6_3_0 N f0 f1 f2 f3 f4 f5 f6 h0 h1 h2 h3 h4 h5 h6 (by omega))

/-- The fields of a word of shape 19_14_12_9_6_3_0, and the parts of its lowest field. -/
theorem shape_19_14_12_9_6_3_0 (N f0 f1 f2 f3 f4 f5 f6 f7 : Nat) (h0 : f0 < 2 ^ 6) (h1 : f1 < 2 ^ 5) (h2 : f2 < 2 ^ 5) (h3 : f3 < 2 ^ 2) (h4 : f4 < 2 ^ 3) (h5 : f5 < 2 ^ 3) (h6 : f6 < 2 ^ 3) (h7 : f7 < 2 ^ 3)
    (h : fld N 0 30 = f0 * 2 ^ 24 + f1 * 2 ^ 19 + f2 * 2 ^ 14 + f3 * 2 ^ 12 + f4 * 2 ^ 9 + f5 * 2 ^ 6 + f6 * 2 ^ 3 + f7) :
    (fld N 24 6 = f0 ∧ fld N 19 5 = f1 ∧ fld N 14 5 = f2 ∧ fld N 12 2 = f3 ∧ fld N 9 3 = f4 ∧ fld N 6 3 = f5 ∧ fld N 3 3 = f6 ∧ fld N 0 3 = f7) ∧ ∀ lo n, lo + n ≤ 3 → fld N lo n = f7 / 2 ^ lo % 2 ^ n := by
  have hl : fld N 0 3 = f7 := by simp only [fld] at h ⊢; omega
  refine ⟨by simp only [fld] at h ⊢; omega, fun lo n hle => ?_⟩
  rw [← hl, fld_fld N lo n 3 hle]

/-- A word of shape 19_14_12_9_6_3_0 from its fields. -/
theorem of_19_14_12_9_6_3_0 {i : Instr} {m : Nat} (h : encodeRaw i = some m) (f0 f1 f2 f3 f4 f5 f6 f7 : Nat) (h0 : f0 < 2 ^ 6) (h1 : f1 < 2 ^ 5) (h2 : f2 < 2 ^ 5) (h3 : f3 < 2 ^ 2) (h4 : f4 < 2 ^ 3) (h5 : f5 < 2 ^ 3) (h6 : f6 < 2 ^ 3) (h7 : f7 < 2 ^ 3)
    (hm : m = f0 * 2 ^ 24 + f1 * 2 ^ 19 + f2 * 2 ^ 14 + f3 * 2 ^ 12 + f4 * 2 ^ 9 + f5 * 2 ^ 6 + f6 * 2 ^ 3 + f7)
    (hd : formOk i = true → ∀ N, fld N 0 30 = f0 * 2 ^ 24 + f1 * 2 ^ 19 + f2 * 2 ^ 14 + f3 * 2 ^ 12 + f4 * 2 ^ 9 + f5 * 2 ^ 6 + f6 * 2 ^ 3 + f7 →
      ((fld N 24 6 = f0 ∧ fld N 19 5 = f1 ∧ fld N 14 5 = f2 ∧ fld N 12 2 = f3 ∧ fld N 9 3 = f4 ∧ fld N 6 3 = f5 ∧ fld N 3 3 = f6 ∧ fld N 0 3 = f7) ∧ ∀ lo n, lo + n ≤ 3 → fld N lo n = f7 / 2 ^ lo % 2 ^ n) → decodeRaw N = some i) :
    Statement i := by
  refine of_raw h (by omega) fun hf N hN => hd hf N (by omega) (shape_19_14_12_9_6_3_0 N f0 f1 f2 f3 f4 f5 f6 f7 h0 h1 h2 h3 h4 h5 h6 h7 (by omega))

/-- The fields of a word of shape 19_14_11_9_0, and the parts of its lowest field. -/
theorem shape_19_14_11_9_0 (N f0 f1 f2 f3 f4 f5 : Nat) (h0 : f0 < 2 ^ 6) (h1 : f1 < 2 ^ 5) (h2 : f2 < 2 ^ 5) (h3 : f3 < 2 ^ 3) (h4 : f4 < 2 ^ 2) (h5 : f5 < 2 ^ 9)
    (h : fld N 0 30 = f0 * 2 ^ 24 + f1 * 2 ^ 19 + f2 * 2 ^ 14 + f3 * 2 ^ 11 + f4 * 2 ^ 9 + f5) :
    (fld N 24 6 = f0 ∧ fld N 19 5 = f1 ∧ fld N 14 5 = f2 ∧ fld N 11 3 = f3 ∧ fld N 9 2 = f4 ∧ fld N 0 9 = f5) ∧ ∀ lo n, lo + n ≤ 9 → fld N lo n = f5 / 2 ^ lo % 2 ^ n := by
  have hl : fld N 0 9 = f5 := by simp only [fld] at h ⊢; omega
  refine ⟨by simp only [fld] at h ⊢; omega, fun lo n hle => ?_⟩
  rw [← hl, fld_fld N lo n 9 hle]

/-- A word of shape 19_14_11_9_0 from its fields. -/
theorem of_19_14_11_9_0 {i : Instr} {m : Nat} (h : encodeRaw i = some m) (f0 f1 f2 f3 f4 f5 : Nat) (h0 : f0 < 2 ^ 6) (h1 : f1 < 2 ^ 5) (h2 : f2 < 2 ^ 5) (h3 : f3 < 2 ^ 3) (h4 : f4 < 2 ^ 2) (h5 : f5 < 2 ^ 9)
    (hm : m = f0 * 2 ^ 24 + f1 * 2 ^ 19 + f2 * 2 ^ 14 + f3 * 2 ^ 11 + f4 * 2 ^ 9 + f5)
    (hd : formOk i = true → ∀ N, fld N 0 30 = f0 * 2 ^ 24 + f1 * 2 ^ 19 + f2 * 2 ^ 14 + f3 * 2 ^ 11 + f4 * 2 ^ 9 + f5 →
      ((fld N 24 6 = f0 ∧ fld N 19 5 = f1 ∧ fld N 14 5 = f2 ∧ fld N 11 3 = f3 ∧ fld N 9 2 = f4 ∧ fld N 0 9 = f5) ∧ ∀ lo n, lo + n ≤ 9 → fld N lo n = f5 / 2 ^ lo % 2 ^ n) → decodeRaw N = some i) :
    Statement i := by
  refine of_raw h (by omega) fun hf N hN => hd hf N (by omega) (shape_19_14_11_9_0 N f0 f1 f2 f3 f4 f5 h0 h1 h2 h3 h4 h5 (by omega))

/-- The fields of a word of shape 19_14_13_11_9_0, and the parts of its lowest field. -/
theorem shape_19_14_13_11_9_0 (N f0 f1 f2 f3 f4 f5 f6 : Nat) (h0 : f0 < 2 ^ 6) (h1 : f1 < 2 ^ 5) (h2 : f2 < 2 ^ 5) (h3 : f3 < 2 ^ 1) (h4 : f4 < 2 ^ 2) (h5 : f5 < 2 ^ 2) (h6 : f6 < 2 ^ 9)
    (h : fld N 0 30 = f0 * 2 ^ 24 + f1 * 2 ^ 19 + f2 * 2 ^ 14 + f3 * 2 ^ 13 + f4 * 2 ^ 11 + f5 * 2 ^ 9 + f6) :
    (fld N 24 6 = f0 ∧ fld N 19 5 = f1 ∧ fld N 14 5 = f2 ∧ fld N 13 1 = f3 ∧ fld N 11 2 = f4 ∧ fld N 9 2 = f5 ∧ fld N 0 9 = f6) ∧ ∀ lo n, lo + n ≤ 9 → fld N lo n = f6 / 2 ^ lo % 2 ^ n := by
  have hl : fld N 0 9 = f6 := by simp only [fld] at h ⊢; omega
  refine ⟨by simp only [fld] at h ⊢; omega, fun lo n hle => ?_⟩
  rw [← hl, fld_fld N lo n 9 hle]

/-- A word of shape 19_14_13_11_9_0 from its fields. -/
theorem of_19_14_13_11_9_0 {i : Instr} {m : Nat} (h : encodeRaw i = some m) (f0 f1 f2 f3 f4 f5 f6 : Nat) (h0 : f0 < 2 ^ 6) (h1 : f1 < 2 ^ 5) (h2 : f2 < 2 ^ 5) (h3 : f3 < 2 ^ 1) (h4 : f4 < 2 ^ 2) (h5 : f5 < 2 ^ 2) (h6 : f6 < 2 ^ 9)
    (hm : m = f0 * 2 ^ 24 + f1 * 2 ^ 19 + f2 * 2 ^ 14 + f3 * 2 ^ 13 + f4 * 2 ^ 11 + f5 * 2 ^ 9 + f6)
    (hd : formOk i = true → ∀ N, fld N 0 30 = f0 * 2 ^ 24 + f1 * 2 ^ 19 + f2 * 2 ^ 14 + f3 * 2 ^ 13 + f4 * 2 ^ 11 + f5 * 2 ^ 9 + f6 →
      ((fld N 24 6 = f0 ∧ fld N 19 5 = f1 ∧ fld N 14 5 = f2 ∧ fld N 13 1 = f3 ∧ fld N 11 2 = f4 ∧ fld N 9 2 = f5 ∧ fld N 0 9 = f6) ∧ ∀ lo n, lo + n ≤ 9 → fld N lo n = f6 / 2 ^ lo % 2 ^ n) → decodeRaw N = some i) :
    Statement i := by
  refine of_raw h (by omega) fun hf N hN => hd hf N (by omega) (shape_19_14_13_11_9_0 N f0 f1 f2 f3 f4 f5 f6 h0 h1 h2 h3 h4 h5 h6 (by omega))

/-- The fields of a word of shape 19_14_9_7_5_3_0, and the parts of its lowest field. -/
theorem shape_19_14_9_7_5_3_0 (N f0 f1 f2 f3 f4 f5 f6 f7 : Nat) (h0 : f0 < 2 ^ 6) (h1 : f1 < 2 ^ 5) (h2 : f2 < 2 ^ 5) (h3 : f3 < 2 ^ 5) (h4 : f4 < 2 ^ 2) (h5 : f5 < 2 ^ 2) (h6 : f6 < 2 ^ 2) (h7 : f7 < 2 ^ 3)
    (h : fld N 0 30 = f0 * 2 ^ 24 + f1 * 2 ^ 19 + f2 * 2 ^ 14 + f3 * 2 ^ 9 + f4 * 2 ^ 7 + f5 * 2 ^ 5 + f6 * 2 ^ 3 + f7) :
    (fld N 24 6 = f0 ∧ fld N 19 5 = f1 ∧ fld N 14 5 = f2 ∧ fld N 9 5 = f3 ∧ fld N 7 2 = f4 ∧ fld N 5 2 = f5 ∧ fld N 3 2 = f6 ∧ fld N 0 3 = f7) ∧ ∀ lo n, lo + n ≤ 3 → fld N lo n = f7 / 2 ^ lo % 2 ^ n := by
  have hl : fld N 0 3 = f7 := by simp only [fld] at h ⊢; omega
  refine ⟨by simp only [fld] at h ⊢; omega, fun lo n hle => ?_⟩
  rw [← hl, fld_fld N lo n 3 hle]

/-- A word of shape 19_14_9_7_5_3_0 from its fields. -/
theorem of_19_14_9_7_5_3_0 {i : Instr} {m : Nat} (h : encodeRaw i = some m) (f0 f1 f2 f3 f4 f5 f6 f7 : Nat) (h0 : f0 < 2 ^ 6) (h1 : f1 < 2 ^ 5) (h2 : f2 < 2 ^ 5) (h3 : f3 < 2 ^ 5) (h4 : f4 < 2 ^ 2) (h5 : f5 < 2 ^ 2) (h6 : f6 < 2 ^ 2) (h7 : f7 < 2 ^ 3)
    (hm : m = f0 * 2 ^ 24 + f1 * 2 ^ 19 + f2 * 2 ^ 14 + f3 * 2 ^ 9 + f4 * 2 ^ 7 + f5 * 2 ^ 5 + f6 * 2 ^ 3 + f7)
    (hd : formOk i = true → ∀ N, fld N 0 30 = f0 * 2 ^ 24 + f1 * 2 ^ 19 + f2 * 2 ^ 14 + f3 * 2 ^ 9 + f4 * 2 ^ 7 + f5 * 2 ^ 5 + f6 * 2 ^ 3 + f7 →
      ((fld N 24 6 = f0 ∧ fld N 19 5 = f1 ∧ fld N 14 5 = f2 ∧ fld N 9 5 = f3 ∧ fld N 7 2 = f4 ∧ fld N 5 2 = f5 ∧ fld N 3 2 = f6 ∧ fld N 0 3 = f7) ∧ ∀ lo n, lo + n ≤ 3 → fld N lo n = f7 / 2 ^ lo % 2 ^ n) → decodeRaw N = some i) :
    Statement i := by
  refine of_raw h (by omega) fun hf N hN => hd hf N (by omega) (shape_19_14_9_7_5_3_0 N f0 f1 f2 f3 f4 f5 f6 f7 h0 h1 h2 h3 h4 h5 h6 h7 (by omega))

/-- The fields of a word of shape 19_14_9_7_6_5_3_2_0, and the parts of its lowest field. -/
theorem shape_19_14_9_7_6_5_3_2_0 (N f0 f1 f2 f3 f4 f5 f6 f7 f8 f9 : Nat) (h0 : f0 < 2 ^ 6) (h1 : f1 < 2 ^ 5) (h2 : f2 < 2 ^ 5) (h3 : f3 < 2 ^ 5) (h4 : f4 < 2 ^ 2) (h5 : f5 < 2 ^ 1) (h6 : f6 < 2 ^ 1) (h7 : f7 < 2 ^ 2) (h8 : f8 < 2 ^ 1) (h9 : f9 < 2 ^ 2)
    (h : fld N 0 30 = f0 * 2 ^ 24 + f1 * 2 ^ 19 + f2 * 2 ^ 14 + f3 * 2 ^ 9 + f4 * 2 ^ 7 + f5 * 2 ^ 6 + f6 * 2 ^ 5 + f7 * 2 ^ 3 + f8 * 2 ^ 2 + f9) :
    (fld N 24 6 = f0 ∧ fld N 19 5 = f1 ∧ fld N 14 5 = f2 ∧ fld N 9 5 = f3 ∧ fld N 7 2 = f4 ∧ fld N 6 1 = f5 ∧ fld N 5 1 = f6 ∧ fld N 3 2 = f7 ∧ fld N 2 1 = f8 ∧ fld N 0 2 = f9) ∧ ∀ lo n, lo + n ≤ 2 → fld N lo n = f9 / 2 ^ lo % 2 ^ n := by
  have hl : fld N 0 2 = f9 := by simp only [fld] at h ⊢; omega
  refine ⟨by simp only [fld] at h ⊢; omega, fun lo n hle => ?_⟩
  rw [← hl, fld_fld N lo n 2 hle]

/-- A word of shape 19_14_9_7_6_5_3_2_0 from its fields. -/
theorem of_19_14_9_7_6_5_3_2_0 {i : Instr} {m : Nat} (h : encodeRaw i = some m) (f0 f1 f2 f3 f4 f5 f6 f7 f8 f9 : Nat) (h0 : f0 < 2 ^ 6) (h1 : f1 < 2 ^ 5) (h2 : f2 < 2 ^ 5) (h3 : f3 < 2 ^ 5) (h4 : f4 < 2 ^ 2) (h5 : f5 < 2 ^ 1) (h6 : f6 < 2 ^ 1) (h7 : f7 < 2 ^ 2) (h8 : f8 < 2 ^ 1) (h9 : f9 < 2 ^ 2)
    (hm : m = f0 * 2 ^ 24 + f1 * 2 ^ 19 + f2 * 2 ^ 14 + f3 * 2 ^ 9 + f4 * 2 ^ 7 + f5 * 2 ^ 6 + f6 * 2 ^ 5 + f7 * 2 ^ 3 + f8 * 2 ^ 2 + f9)
    (hd : formOk i = true → ∀ N, fld N 0 30 = f0 * 2 ^ 24 + f1 * 2 ^ 19 + f2 * 2 ^ 14 + f3 * 2 ^ 9 + f4 * 2 ^ 7 + f5 * 2 ^ 6 + f6 * 2 ^ 5 + f7 * 2 ^ 3 + f8 * 2 ^ 2 + f9 →
      ((fld N 24 6 = f0 ∧ fld N 19 5 = f1 ∧ fld N 14 5 = f2 ∧ fld N 9 5 = f3 ∧ fld N 7 2 = f4 ∧ fld N 6 1 = f5 ∧ fld N 5 1 = f6 ∧ fld N 3 2 = f7 ∧ fld N 2 1 = f8 ∧ fld N 0 2 = f9) ∧ ∀ lo n, lo + n ≤ 2 → fld N lo n = f9 / 2 ^ lo % 2 ^ n) → decodeRaw N = some i) :
    Statement i := by
  refine of_raw h (by omega) fun hf N hN => hd hf N (by omega) (shape_19_14_9_7_6_5_3_2_0 N f0 f1 f2 f3 f4 f5 f6 f7 f8 f9 h0 h1 h2 h3 h4 h5 h6 h7 h8 h9 (by omega))

/-- The fields of a word of shape 19_14_9_7_4_0, and the parts of its lowest field. -/
theorem shape_19_14_9_7_4_0 (N f0 f1 f2 f3 f4 f5 f6 : Nat) (h0 : f0 < 2 ^ 6) (h1 : f1 < 2 ^ 5) (h2 : f2 < 2 ^ 5) (h3 : f3 < 2 ^ 5) (h4 : f4 < 2 ^ 2) (h5 : f5 < 2 ^ 3) (h6 : f6 < 2 ^ 4)
    (h : fld N 0 30 = f0 * 2 ^ 24 + f1 * 2 ^ 19 + f2 * 2 ^ 14 + f3 * 2 ^ 9 + f4 * 2 ^ 7 + f5 * 2 ^ 4 + f6) :
    (fld N 24 6 = f0 ∧ fld N 19 5 = f1 ∧ fld N 14 5 = f2 ∧ fld N 9 5 = f3 ∧ fld N 7 2 = f4 ∧ fld N 4 3 = f5 ∧ fld N 0 4 = f6) ∧ ∀ lo n, lo + n ≤ 4 → fld N lo n = f6 / 2 ^ lo % 2 ^ n := by
  have hl : fld N 0 4 = f6 := by simp only [fld] at h ⊢; omega
  refine ⟨by simp only [fld] at h ⊢; omega, fun lo n hle => ?_⟩
  rw [← hl, fld_fld N lo n 4 hle]

/-- A word of shape 19_14_9_7_4_0 from its fields. -/
theorem of_19_14_9_7_4_0 {i : Instr} {m : Nat} (h : encodeRaw i = some m) (f0 f1 f2 f3 f4 f5 f6 : Nat) (h0 : f0 < 2 ^ 6) (h1 : f1 < 2 ^ 5) (h2 : f2 < 2 ^ 5) (h3 : f3 < 2 ^ 5) (h4 : f4 < 2 ^ 2) (h5 : f5 < 2 ^ 3) (h6 : f6 < 2 ^ 4)
    (hm : m = f0 * 2 ^ 24 + f1 * 2 ^ 19 + f2 * 2 ^ 14 + f3 * 2 ^ 9 + f4 * 2 ^ 7 + f5 * 2 ^ 4 + f6)
    (hd : formOk i = true → ∀ N, fld N 0 30 = f0 * 2 ^ 24 + f1 * 2 ^ 19 + f2 * 2 ^ 14 + f3 * 2 ^ 9 + f4 * 2 ^ 7 + f5 * 2 ^ 4 + f6 →
      ((fld N 24 6 = f0 ∧ fld N 19 5 = f1 ∧ fld N 14 5 = f2 ∧ fld N 9 5 = f3 ∧ fld N 7 2 = f4 ∧ fld N 4 3 = f5 ∧ fld N 0 4 = f6) ∧ ∀ lo n, lo + n ≤ 4 → fld N lo n = f6 / 2 ^ lo % 2 ^ n) → decodeRaw N = some i) :
    Statement i := by
  refine of_raw h (by omega) fun hf N hN => hd hf N (by omega) (shape_19_14_9_7_4_0 N f0 f1 f2 f3 f4 f5 f6 h0 h1 h2 h3 h4 h5 h6 (by omega))

/-- The fields of a word of shape 19_14_9_7_4_3_0, and the parts of its lowest field. -/
theorem shape_19_14_9_7_4_3_0 (N f0 f1 f2 f3 f4 f5 f6 f7 : Nat) (h0 : f0 < 2 ^ 6) (h1 : f1 < 2 ^ 5) (h2 : f2 < 2 ^ 5) (h3 : f3 < 2 ^ 5) (h4 : f4 < 2 ^ 2) (h5 : f5 < 2 ^ 3) (h6 : f6 < 2 ^ 1) (h7 : f7 < 2 ^ 3)
    (h : fld N 0 30 = f0 * 2 ^ 24 + f1 * 2 ^ 19 + f2 * 2 ^ 14 + f3 * 2 ^ 9 + f4 * 2 ^ 7 + f5 * 2 ^ 4 + f6 * 2 ^ 3 + f7) :
    (fld N 24 6 = f0 ∧ fld N 19 5 = f1 ∧ fld N 14 5 = f2 ∧ fld N 9 5 = f3 ∧ fld N 7 2 = f4 ∧ fld N 4 3 = f5 ∧ fld N 3 1 = f6 ∧ fld N 0 3 = f7) ∧ ∀ lo n, lo + n ≤ 3 → fld N lo n = f7 / 2 ^ lo % 2 ^ n := by
  have hl : fld N 0 3 = f7 := by simp only [fld] at h ⊢; omega
  refine ⟨by simp only [fld] at h ⊢; omega, fun lo n hle => ?_⟩
  rw [← hl, fld_fld N lo n 3 hle]

/-- A word of shape 19_14_9_7_4_3_0 from its fields. -/
theorem of_19_14_9_7_4_3_0 {i : Instr} {m : Nat} (h : encodeRaw i = some m) (f0 f1 f2 f3 f4 f5 f6 f7 : Nat) (h0 : f0 < 2 ^ 6) (h1 : f1 < 2 ^ 5) (h2 : f2 < 2 ^ 5) (h3 : f3 < 2 ^ 5) (h4 : f4 < 2 ^ 2) (h5 : f5 < 2 ^ 3) (h6 : f6 < 2 ^ 1) (h7 : f7 < 2 ^ 3)
    (hm : m = f0 * 2 ^ 24 + f1 * 2 ^ 19 + f2 * 2 ^ 14 + f3 * 2 ^ 9 + f4 * 2 ^ 7 + f5 * 2 ^ 4 + f6 * 2 ^ 3 + f7)
    (hd : formOk i = true → ∀ N, fld N 0 30 = f0 * 2 ^ 24 + f1 * 2 ^ 19 + f2 * 2 ^ 14 + f3 * 2 ^ 9 + f4 * 2 ^ 7 + f5 * 2 ^ 4 + f6 * 2 ^ 3 + f7 →
      ((fld N 24 6 = f0 ∧ fld N 19 5 = f1 ∧ fld N 14 5 = f2 ∧ fld N 9 5 = f3 ∧ fld N 7 2 = f4 ∧ fld N 4 3 = f5 ∧ fld N 3 1 = f6 ∧ fld N 0 3 = f7) ∧ ∀ lo n, lo + n ≤ 3 → fld N lo n = f7 / 2 ^ lo % 2 ^ n) → decodeRaw N = some i) :
    Statement i := by
  refine of_raw h (by omega) fun hf N hN => hd hf N (by omega) (shape_19_14_9_7_4_3_0 N f0 f1 f2 f3 f4 f5 f6 f7 h0 h1 h2 h3 h4 h5 h6 h7 (by omega))

/-- The fields of a word of shape 19_14_9_6_4_2_0, and the parts of its lowest field. -/
theorem shape_19_14_9_6_4_2_0 (N f0 f1 f2 f3 f4 f5 f6 f7 : Nat) (h0 : f0 < 2 ^ 6) (h1 : f1 < 2 ^ 5) (h2 : f2 < 2 ^ 5) (h3 : f3 < 2 ^ 5) (h4 : f4 < 2 ^ 3) (h5 : f5 < 2 ^ 2) (h6 : f6 < 2 ^ 2) (h7 : f7 < 2 ^ 2)
    (h : fld N 0 30 = f0 * 2 ^ 24 + f1 * 2 ^ 19 + f2 * 2 ^ 14 + f3 * 2 ^ 9 + f4 * 2 ^ 6 + f5 * 2 ^ 4 + f6 * 2 ^ 2 + f7) :
    (fld N 24 6 = f0 ∧ fld N 19 5 = f1 ∧ fld N 14 5 = f2 ∧ fld N 9 5 = f3 ∧ fld N 6 3 = f4 ∧ fld N 4 2 = f5 ∧ fld N 2 2 = f6 ∧ fld N 0 2 = f7) ∧ ∀ lo n, lo + n ≤ 2 → fld N lo n = f7 / 2 ^ lo % 2 ^ n := by
  have hl : fld N 0 2 = f7 := by simp only [fld] at h ⊢; omega
  refine ⟨by simp only [fld] at h ⊢; omega, fun lo n hle => ?_⟩
  rw [← hl, fld_fld N lo n 2 hle]

/-- A word of shape 19_14_9_6_4_2_0 from its fields. -/
theorem of_19_14_9_6_4_2_0 {i : Instr} {m : Nat} (h : encodeRaw i = some m) (f0 f1 f2 f3 f4 f5 f6 f7 : Nat) (h0 : f0 < 2 ^ 6) (h1 : f1 < 2 ^ 5) (h2 : f2 < 2 ^ 5) (h3 : f3 < 2 ^ 5) (h4 : f4 < 2 ^ 3) (h5 : f5 < 2 ^ 2) (h6 : f6 < 2 ^ 2) (h7 : f7 < 2 ^ 2)
    (hm : m = f0 * 2 ^ 24 + f1 * 2 ^ 19 + f2 * 2 ^ 14 + f3 * 2 ^ 9 + f4 * 2 ^ 6 + f5 * 2 ^ 4 + f6 * 2 ^ 2 + f7)
    (hd : formOk i = true → ∀ N, fld N 0 30 = f0 * 2 ^ 24 + f1 * 2 ^ 19 + f2 * 2 ^ 14 + f3 * 2 ^ 9 + f4 * 2 ^ 6 + f5 * 2 ^ 4 + f6 * 2 ^ 2 + f7 →
      ((fld N 24 6 = f0 ∧ fld N 19 5 = f1 ∧ fld N 14 5 = f2 ∧ fld N 9 5 = f3 ∧ fld N 6 3 = f4 ∧ fld N 4 2 = f5 ∧ fld N 2 2 = f6 ∧ fld N 0 2 = f7) ∧ ∀ lo n, lo + n ≤ 2 → fld N lo n = f7 / 2 ^ lo % 2 ^ n) → decodeRaw N = some i) :
    Statement i := by
  refine of_raw h (by omega) fun hf N hN => hd hf N (by omega) (shape_19_14_9_6_4_2_0 N f0 f1 f2 f3 f4 f5 f6 f7 h0 h1 h2 h3 h4 h5 h6 h7 (by omega))

/-- The fields of a word of shape 19_14_10_9_6_2_0, and the parts of its lowest field. -/
theorem shape_19_14_10_9_6_2_0 (N f0 f1 f2 f3 f4 f5 f6 f7 : Nat) (h0 : f0 < 2 ^ 6) (h1 : f1 < 2 ^ 5) (h2 : f2 < 2 ^ 5) (h3 : f3 < 2 ^ 4) (h4 : f4 < 2 ^ 1) (h5 : f5 < 2 ^ 3) (h6 : f6 < 2 ^ 4) (h7 : f7 < 2 ^ 2)
    (h : fld N 0 30 = f0 * 2 ^ 24 + f1 * 2 ^ 19 + f2 * 2 ^ 14 + f3 * 2 ^ 10 + f4 * 2 ^ 9 + f5 * 2 ^ 6 + f6 * 2 ^ 2 + f7) :
    (fld N 24 6 = f0 ∧ fld N 19 5 = f1 ∧ fld N 14 5 = f2 ∧ fld N 10 4 = f3 ∧ fld N 9 1 = f4 ∧ fld N 6 3 = f5 ∧ fld N 2 4 = f6 ∧ fld N 0 2 = f7) ∧ ∀ lo n, lo + n ≤ 2 → fld N lo n = f7 / 2 ^ lo % 2 ^ n := by
  have hl : fld N 0 2 = f7 := by simp only [fld] at h ⊢; omega
  refine ⟨by simp only [fld] at h ⊢; omega, fun lo n hle => ?_⟩
  rw [← hl, fld_fld N lo n 2 hle]

/-- A word of shape 19_14_10_9_6_2_0 from its fields. -/
theorem of_19_14_10_9_6_2_0 {i : Instr} {m : Nat} (h : encodeRaw i = some m) (f0 f1 f2 f3 f4 f5 f6 f7 : Nat) (h0 : f0 < 2 ^ 6) (h1 : f1 < 2 ^ 5) (h2 : f2 < 2 ^ 5) (h3 : f3 < 2 ^ 4) (h4 : f4 < 2 ^ 1) (h5 : f5 < 2 ^ 3) (h6 : f6 < 2 ^ 4) (h7 : f7 < 2 ^ 2)
    (hm : m = f0 * 2 ^ 24 + f1 * 2 ^ 19 + f2 * 2 ^ 14 + f3 * 2 ^ 10 + f4 * 2 ^ 9 + f5 * 2 ^ 6 + f6 * 2 ^ 2 + f7)
    (hd : formOk i = true → ∀ N, fld N 0 30 = f0 * 2 ^ 24 + f1 * 2 ^ 19 + f2 * 2 ^ 14 + f3 * 2 ^ 10 + f4 * 2 ^ 9 + f5 * 2 ^ 6 + f6 * 2 ^ 2 + f7 →
      ((fld N 24 6 = f0 ∧ fld N 19 5 = f1 ∧ fld N 14 5 = f2 ∧ fld N 10 4 = f3 ∧ fld N 9 1 = f4 ∧ fld N 6 3 = f5 ∧ fld N 2 4 = f6 ∧ fld N 0 2 = f7) ∧ ∀ lo n, lo + n ≤ 2 → fld N lo n = f7 / 2 ^ lo % 2 ^ n) → decodeRaw N = some i) :
    Statement i := by
  refine of_raw h (by omega) fun hf N hN => hd hf N (by omega) (shape_19_14_10_9_6_2_0 N f0 f1 f2 f3 f4 f5 f6 f7 h0 h1 h2 h3 h4 h5 h6 h7 (by omega))

/-- The fields of a word of shape 19_14_9_6_4_0, and the parts of its lowest field. -/
theorem shape_19_14_9_6_4_0 (N f0 f1 f2 f3 f4 f5 f6 : Nat) (h0 : f0 < 2 ^ 6) (h1 : f1 < 2 ^ 5) (h2 : f2 < 2 ^ 5) (h3 : f3 < 2 ^ 5) (h4 : f4 < 2 ^ 3) (h5 : f5 < 2 ^ 2) (h6 : f6 < 2 ^ 4)
    (h : fld N 0 30 = f0 * 2 ^ 24 + f1 * 2 ^ 19 + f2 * 2 ^ 14 + f3 * 2 ^ 9 + f4 * 2 ^ 6 + f5 * 2 ^ 4 + f6) :
    (fld N 24 6 = f0 ∧ fld N 19 5 = f1 ∧ fld N 14 5 = f2 ∧ fld N 9 5 = f3 ∧ fld N 6 3 = f4 ∧ fld N 4 2 = f5 ∧ fld N 0 4 = f6) ∧ ∀ lo n, lo + n ≤ 4 → fld N lo n = f6 / 2 ^ lo % 2 ^ n := by
  have hl : fld N 0 4 = f6 := by simp only [fld] at h ⊢; omega
  refine ⟨by simp only [fld] at h ⊢; omega, fun lo n hle => ?_⟩
  rw [← hl, fld_fld N lo n 4 hle]

/-- A word of shape 19_14_9_6_4_0 from its fields. -/
theorem of_19_14_9_6_4_0 {i : Instr} {m : Nat} (h : encodeRaw i = some m) (f0 f1 f2 f3 f4 f5 f6 : Nat) (h0 : f0 < 2 ^ 6) (h1 : f1 < 2 ^ 5) (h2 : f2 < 2 ^ 5) (h3 : f3 < 2 ^ 5) (h4 : f4 < 2 ^ 3) (h5 : f5 < 2 ^ 2) (h6 : f6 < 2 ^ 4)
    (hm : m = f0 * 2 ^ 24 + f1 * 2 ^ 19 + f2 * 2 ^ 14 + f3 * 2 ^ 9 + f4 * 2 ^ 6 + f5 * 2 ^ 4 + f6)
    (hd : formOk i = true → ∀ N, fld N 0 30 = f0 * 2 ^ 24 + f1 * 2 ^ 19 + f2 * 2 ^ 14 + f3 * 2 ^ 9 + f4 * 2 ^ 6 + f5 * 2 ^ 4 + f6 →
      ((fld N 24 6 = f0 ∧ fld N 19 5 = f1 ∧ fld N 14 5 = f2 ∧ fld N 9 5 = f3 ∧ fld N 6 3 = f4 ∧ fld N 4 2 = f5 ∧ fld N 0 4 = f6) ∧ ∀ lo n, lo + n ≤ 4 → fld N lo n = f6 / 2 ^ lo % 2 ^ n) → decodeRaw N = some i) :
    Statement i := by
  refine of_raw h (by omega) fun hf N hN => hd hf N (by omega) (shape_19_14_9_6_4_0 N f0 f1 f2 f3 f4 f5 f6 h0 h1 h2 h3 h4 h5 h6 (by omega))

/-- The fields of a word of shape 22_19_14_9_0, and the parts of its lowest field. -/
theorem shape_22_19_14_9_0 (N f0 f1 f2 f3 f4 f5 : Nat) (h0 : f0 < 2 ^ 6) (h1 : f1 < 2 ^ 2) (h2 : f2 < 2 ^ 3) (h3 : f3 < 2 ^ 5) (h4 : f4 < 2 ^ 5) (h5 : f5 < 2 ^ 9)
    (h : fld N 0 30 = f0 * 2 ^ 24 + f1 * 2 ^ 22 + f2 * 2 ^ 19 + f3 * 2 ^ 14 + f4 * 2 ^ 9 + f5) :
    (fld N 24 6 = f0 ∧ fld N 22 2 = f1 ∧ fld N 19 3 = f2 ∧ fld N 14 5 = f3 ∧ fld N 9 5 = f4 ∧ fld N 0 9 = f5) ∧ ∀ lo n, lo + n ≤ 9 → fld N lo n = f5 / 2 ^ lo % 2 ^ n := by
  have hl : fld N 0 9 = f5 := by simp only [fld] at h ⊢; omega
  refine ⟨by simp only [fld] at h ⊢; omega, fun lo n hle => ?_⟩
  rw [← hl, fld_fld N lo n 9 hle]

/-- A word of shape 22_19_14_9_0 from its fields. -/
theorem of_22_19_14_9_0 {i : Instr} {m : Nat} (h : encodeRaw i = some m) (f0 f1 f2 f3 f4 f5 : Nat) (h0 : f0 < 2 ^ 6) (h1 : f1 < 2 ^ 2) (h2 : f2 < 2 ^ 3) (h3 : f3 < 2 ^ 5) (h4 : f4 < 2 ^ 5) (h5 : f5 < 2 ^ 9)
    (hm : m = f0 * 2 ^ 24 + f1 * 2 ^ 22 + f2 * 2 ^ 19 + f3 * 2 ^ 14 + f4 * 2 ^ 9 + f5)
    (hd : formOk i = true → ∀ N, fld N 0 30 = f0 * 2 ^ 24 + f1 * 2 ^ 22 + f2 * 2 ^ 19 + f3 * 2 ^ 14 + f4 * 2 ^ 9 + f5 →
      ((fld N 24 6 = f0 ∧ fld N 22 2 = f1 ∧ fld N 19 3 = f2 ∧ fld N 14 5 = f3 ∧ fld N 9 5 = f4 ∧ fld N 0 9 = f5) ∧ ∀ lo n, lo + n ≤ 9 → fld N lo n = f5 / 2 ^ lo % 2 ^ n) → decodeRaw N = some i) :
    Statement i := by
  refine of_raw h (by omega) fun hf N hN => hd hf N (by omega) (shape_22_19_14_9_0 N f0 f1 f2 f3 f4 f5 h0 h1 h2 h3 h4 h5 (by omega))

/-- The fields of a word of shape 18_13_12_8_3_0, and the parts of its lowest field. -/
theorem shape_18_13_12_8_3_0 (N f0 f1 f2 f3 f4 f5 f6 : Nat) (h0 : f0 < 2 ^ 6) (h1 : f1 < 2 ^ 6) (h2 : f2 < 2 ^ 5) (h3 : f3 < 2 ^ 1) (h4 : f4 < 2 ^ 4) (h5 : f5 < 2 ^ 5) (h6 : f6 < 2 ^ 3)
    (h : fld N 0 30 = f0 * 2 ^ 24 + f1 * 2 ^ 18 + f2 * 2 ^ 13 + f3 * 2 ^ 12 + f4 * 2 ^ 8 + f5 * 2 ^ 3 + f6) :
    (fld N 24 6 = f0 ∧ fld N 18 6 = f1 ∧ fld N 13 5 = f2 ∧ fld N 12 1 = f3 ∧ fld N 8 4 = f4 ∧ fld N 3 5 = f5 ∧ fld N 0 3 = f6) ∧ ∀ lo n, lo + n ≤ 3 → fld N lo n = f6 / 2 ^ lo % 2 ^ n := by
  have hl : fld N 0 3 = f6 := by simp only [fld] at h ⊢; omega
  refine ⟨by simp only [fld] at h ⊢; omega, fun lo n hle => ?_⟩
  rw [← hl, fld_fld N lo n 3 hle]

/-- A word of shape 18_13_12_8_3_0 from its fields. -/
theorem of_18_13_12_8_3_0 {i : Instr} {m : Nat} (h : encodeRaw i = some m) (f0 f1 f2 f3 f4 f5 f6 : Nat) (h0 : f0 < 2 ^ 6) (h1 : f1 < 2 ^ 6) (h2 : f2 < 2 ^ 5) (h3 : f3 < 2 ^ 1) (h4 : f4 < 2 ^ 4) (h5 : f5 < 2 ^ 5) (h6 : f6 < 2 ^ 3)
    (hm : m = f0 * 2 ^ 24 + f1 * 2 ^ 18 + f2 * 2 ^ 13 + f3 * 2 ^ 12 + f4 * 2 ^ 8 + f5 * 2 ^ 3 + f6)
    (hd : formOk i = true → ∀ N, fld N 0 30 = f0 * 2 ^ 24 + f1 * 2 ^ 18 + f2 * 2 ^ 13 + f3 * 2 ^ 12 + f4 * 2 ^ 8 + f5 * 2 ^ 3 + f6 →
      ((fld N 24 6 = f0 ∧ fld N 18 6 = f1 ∧ fld N 13 5 = f2 ∧ fld N 12 1 = f3 ∧ fld N 8 4 = f4 ∧ fld N 3 5 = f5 ∧ fld N 0 3 = f6) ∧ ∀ lo n, lo + n ≤ 3 → fld N lo n = f6 / 2 ^ lo % 2 ^ n) → decodeRaw N = some i) :
    Statement i := by
  refine of_raw h (by omega) fun hf N hN => hd hf N (by omega) (shape_18_13_12_8_3_0 N f0 f1 f2 f3 f4 f5 f6 h0 h1 h2 h3 h4 h5 h6 (by omega))

/-- The fields of a word of shape 18_13_8_3_0, and the parts of its lowest field. -/
theorem shape_18_13_8_3_0 (N f0 f1 f2 f3 f4 f5 : Nat) (h0 : f0 < 2 ^ 6) (h1 : f1 < 2 ^ 6) (h2 : f2 < 2 ^ 5) (h3 : f3 < 2 ^ 5) (h4 : f4 < 2 ^ 5) (h5 : f5 < 2 ^ 3)
    (h : fld N 0 30 = f0 * 2 ^ 24 + f1 * 2 ^ 18 + f2 * 2 ^ 13 + f3 * 2 ^ 8 + f4 * 2 ^ 3 + f5) :
    (fld N 24 6 = f0 ∧ fld N 18 6 = f1 ∧ fld N 13 5 = f2 ∧ fld N 8 5 = f3 ∧ fld N 3 5 = f4 ∧ fld N 0 3 = f5) ∧ ∀ lo n, lo + n ≤ 3 → fld N lo n = f5 / 2 ^ lo % 2 ^ n := by
  have hl : fld N 0 3 = f5 := by simp only [fld] at h ⊢; omega
  refine ⟨by simp only [fld] at h ⊢; omega, fun lo n hle => ?_⟩
  rw [← hl, fld_fld N lo n 3 hle]

/-- A word of shape 18_13_8_3_0 from its fields. -/
theorem of_18_13_8_3_0 {i : Instr} {m : Nat} (h : encodeRaw i = some m) (f0 f1 f2 f3 f4 f5 : Nat) (h0 : f0 < 2 ^ 6) (h1 : f1 < 2 ^ 6) (h2 : f2 < 2 ^ 5) (h3 : f3 < 2 ^ 5) (h4 : f4 < 2 ^ 5) (h5 : f5 < 2 ^ 3)
    (hm : m = f0 * 2 ^ 24 + f1 * 2 ^ 18 + f2 * 2 ^ 13 + f3 * 2 ^ 8 + f4 * 2 ^ 3 + f5)
    (hd : formOk i = true → ∀ N, fld N 0 30 = f0 * 2 ^ 24 + f1 * 2 ^ 18 + f2 * 2 ^ 13 + f3 * 2 ^ 8 + f4 * 2 ^ 3 + f5 →
      ((fld N 24 6 = f0 ∧ fld N 18 6 = f1 ∧ fld N 13 5 = f2 ∧ fld N 8 5 = f3 ∧ fld N 3 5 = f4 ∧ fld N 0 3 = f5) ∧ ∀ lo n, lo + n ≤ 3 → fld N lo n = f5 / 2 ^ lo % 2 ^ n) → decodeRaw N = some i) :
    Statement i := by
  refine of_raw h (by omega) fun hf N hN => hd hf N (by omega) (shape_18_13_8_3_0 N f0 f1 f2 f3 f4 f5 h0 h1 h2 h3 h4 h5 (by omega))

theorem raw_System (N : Nat) (h : fld N 24 6 = 0) : decodeRaw N = decodeSystem N := by rw [decodeRaw, h]; rfl
theorem raw_Immediate (N : Nat) (h : fld N 24 6 = 1) : decodeRaw N = decodeImmediate N := by rw [decodeRaw, h]; rfl
theorem raw_Csr (N : Nat) (h : fld N 24 6 = 2) : decodeRaw N = decodeCsr N := by rw [decodeRaw, h]; rfl
theorem raw_J (N : Nat) (h : fld N 24 6 = 3) : decodeRaw N = decodeJ N := by rw [decodeRaw, h]; rfl
theorem raw_Jal (N : Nat) (h : fld N 24 6 = 4) : decodeRaw N = decodeJal N := by rw [decodeRaw, h]; rfl
theorem raw_Jalr (N : Nat) (h : fld N 24 6 = 5) : decodeRaw N = decodeJalr N := by rw [decodeRaw, h]; rfl
theorem raw_Beq (N : Nat) (h : fld N 24 6 = 6) : decodeRaw N = decodeBeq N := by rw [decodeRaw, h]; rfl
theorem raw_Bne (N : Nat) (h : fld N 24 6 = 7) : decodeRaw N = decodeBne N := by rw [decodeRaw, h]; rfl
theorem raw_Blt (N : Nat) (h : fld N 24 6 = 8) : decodeRaw N = decodeBlt N := by rw [decodeRaw, h]; rfl
theorem raw_Bge (N : Nat) (h : fld N 24 6 = 9) : decodeRaw N = decodeBge N := by rw [decodeRaw, h]; rfl
theorem raw_Bltu (N : Nat) (h : fld N 24 6 = 10) : decodeRaw N = decodeBltu N := by rw [decodeRaw, h]; rfl
theorem raw_Bgeu (N : Nat) (h : fld N 24 6 = 11) : decodeRaw N = decodeBgeu N := by rw [decodeRaw, h]; rfl
theorem raw_BitTest (N : Nat) (h : fld N 24 6 = 12) : decodeRaw N = decodeBitTest N := by rw [decodeRaw, h]; rfl
theorem raw_Rep (N : Nat) (h : fld N 24 6 = 13) : decodeRaw N = decodeRep N := by rw [decodeRaw, h]; rfl
theorem raw_Int (N : Nat) (h : fld N 24 6 = 16) : decodeRaw N = decodeInt N := by rw [decodeRaw, h]; rfl
theorem raw_MulDiv (N : Nat) (h : fld N 24 6 = 17) : decodeRaw N = decodeMulDiv N := by rw [decodeRaw, h]; rfl
theorem raw_Addi (N : Nat) (h : fld N 24 6 = 18) : decodeRaw N = decodeAddi N := by rw [decodeRaw, h]; rfl
theorem raw_Andi (N : Nat) (h : fld N 24 6 = 19) : decodeRaw N = decodeAndi N := by rw [decodeRaw, h]; rfl
theorem raw_Ori (N : Nat) (h : fld N 24 6 = 20) : decodeRaw N = decodeOri N := by rw [decodeRaw, h]; rfl
theorem raw_Xori (N : Nat) (h : fld N 24 6 = 21) : decodeRaw N = decodeXori N := by rw [decodeRaw, h]; rfl
theorem raw_Slti (N : Nat) (h : fld N 24 6 = 22) : decodeRaw N = decodeSlti N := by rw [decodeRaw, h]; rfl
theorem raw_ShiftImm (N : Nat) (h : fld N 24 6 = 23) : decodeRaw N = decodeShiftImm N := by rw [decodeRaw, h]; rfl
theorem raw_Lui (N : Nat) (h : fld N 24 6 = 24) : decodeRaw N = decodeLui N := by rw [decodeRaw, h]; rfl
theorem raw_Auipc (N : Nat) (h : fld N 24 6 = 25) : decodeRaw N = decodeAuipc N := by rw [decodeRaw, h]; rfl
theorem raw_Fp (N : Nat) (h : fld N 24 6 = 26) : decodeRaw N = decodeFp N := by rw [decodeRaw, h]; rfl
theorem raw_Load (N : Nat) (h : fld N 24 6 = 28) : decodeRaw N = decodeLoad N := by rw [decodeRaw, h]; rfl
theorem raw_Store (N : Nat) (h : fld N 24 6 = 29) : decodeRaw N = decodeStore N := by rw [decodeRaw, h]; rfl
theorem raw_Atomic (N : Nat) (h : fld N 24 6 = 30) : decodeRaw N = decodeAtomic N := by rw [decodeRaw, h]; rfl
theorem raw_Reduce (N : Nat) (h : fld N 24 6 = 31) : decodeRaw N = decodeReduce N := by rw [decodeRaw, h]; rfl
theorem raw_VLoad (N : Nat) (h : fld N 24 6 = 32) : decodeRaw N = decodeVLoad N := by rw [decodeRaw, h]; rfl
theorem raw_VStore (N : Nat) (h : fld N 24 6 = 33) : decodeRaw N = decodeVStore N := by rw [decodeRaw, h]; rfl
theorem raw_VInt (N : Nat) (h : fld N 24 6 = 34) : decodeRaw N = decodeVInt N := by rw [decodeRaw, h]; rfl
theorem raw_VLogic (N : Nat) (h : fld N 24 6 = 35) : decodeRaw N = decodeVLogic N := by rw [decodeRaw, h]; rfl
theorem raw_VFun (N : Nat) (h : fld N 24 6 = 40) : decodeRaw N = decodeVFun N := by rw [decodeRaw, h]; rfl
theorem raw_VRed (N : Nat) (h : fld N 24 6 = 41) : decodeRaw N = decodeVRed N := by rw [decodeRaw, h]; rfl
theorem raw_VSeg (N : Nat) (h : fld N 24 6 = 42) : decodeRaw N = decodeVSeg N := by rw [decodeRaw, h]; rfl
theorem raw_VPerm (N : Nat) (h : fld N 24 6 = 43) : decodeRaw N = decodeVPerm N := by rw [decodeRaw, h]; rfl
theorem raw_Cvt (N : Nat) (h : fld N 24 6 = 44) : decodeRaw N = decodeCvt N := by rw [decodeRaw, h]; rfl
theorem raw_CvtNsat (N : Nat) (h : fld N 24 6 = 45) : decodeRaw N = decodeCvtNsat N := by rw [decodeRaw, h]; rfl
theorem raw_VBlock (N : Nat) (h : fld N 24 6 = 46) : decodeRaw N = decodeVBlock N := by rw [decodeRaw, h]; rfl
theorem raw_VCmp (N : Nat) (h : fld N 24 6 = 47) : decodeRaw N = decodeVCmp N := by rw [decodeRaw, h]; rfl
theorem raw_VCtl (N : Nat) (h : fld N 24 6 = 48) : decodeRaw N = decodeVCtl N := by rw [decodeRaw, h]; rfl
theorem raw_Matrix (N : Nat) (h : fld N 24 6 = 56) : decodeRaw N = decodeMatrix N := by rw [decodeRaw, h]; rfl
theorem raw_Copy (N : Nat) (h : fld N 24 6 = 57) : decodeRaw N = decodeCopy N := by rw [decodeRaw, h]; rfl
theorem raw_Sync (N : Nat) (h : fld N 24 6 = 58) : decodeRaw N = decodeSync N := by rw [decodeRaw, h]; rfl
theorem raw_Rime (N : Nat) (h : fld N 24 6 = 59) : decodeRaw N = decodeRime N := by rw [decodeRaw, h]; rfl
theorem raw_Fabric (N : Nat) (h : fld N 24 6 = 60) : decodeRaw N = decodeFabric N := by rw [decodeRaw, h]; rfl
theorem raw_Router (N : Nat) (h : fld N 24 6 = 61) : decodeRaw N = decodeRouter N := by rw [decodeRaw, h]; rfl
theorem rel_lt (x : AmZ) : x.relCode < 3 := by cases x <;> decide

theorem susp (a b : Reg) : Statement (.susp a b) := by
  refine of_19_14_9_0 rfl 0 0 a.val b.val 3 (by decide) (by decide) (a.isLt) (b.isLt) (by decide) (by simp only [asm]; omega) fun hform N hN E => ?_
  rw [raw_System N E.1.1, decodeSystem, E.1.2.2.2.2]
  simp only [zeros, fldReg, fin_ofNat, bv_ofNat, E.1, reduceIte]

theorem spawn (d a : Reg) : Statement (.spawn d a) := by
  refine of_19_14_9_0 rfl 0 d.val a.val 0 4 (by decide) (d.isLt) (a.isLt) (by decide) (by decide) (by simp only [asm]; omega) fun hform N hN E => ?_
  rw [raw_System N E.1.1, decodeSystem, E.1.2.2.2.2]
  simp only [zeros, fldReg, fin_ofNat, bv_ofNat, E.1, reduceIte]

theorem pause (n : BitVec 14) : Statement (.pause n) := by
  refine of_19_14_0 rfl 1 0 0 n.toNat (by decide) (by decide) (by decide) (n.isLt) (by simp only [asm]; omega) fun hform N hN E => ?_
  rw [raw_Immediate N E.1.1, decodeImmediate, E.1.2.1]
  simp only [zeros, fin_ofNat, bv_ofNat, E.1, reduceIte]

theorem sys (n : BitVec 14) : Statement (.sys n) := by
  refine of_19_14_0 rfl 1 1 0 n.toNat (by decide) (by decide) (by decide) (n.isLt) (by simp only [asm]; omega) fun hform N hN E => ?_
  rw [raw_Immediate N E.1.1, decodeImmediate, E.1.2.1]
  simp only [zeros, fin_ofNat, bv_ofNat, E.1, reduceIte]

theorem csrrw (d a : Reg) (c : BitVec 12) : Statement (.csrrw d a c) := by
  refine of_19_14_12_0 rfl 2 d.val a.val 0 c.toNat (by decide) (d.isLt) (a.isLt) (by decide) (c.isLt) (by simp only [asm]; omega) fun hform N hN E => ?_
  rw [raw_Csr N E.1.1, decodeCsr, E.1.2.2.2.1]
  simp only [fldReg, fin_ofNat, bv_ofNat, E.1, reduceIte]

theorem csrrs (d a : Reg) (c : BitVec 12) : Statement (.csrrs d a c) := by
  refine of_19_14_12_0 rfl 2 d.val a.val 1 c.toNat (by decide) (d.isLt) (a.isLt) (by decide) (c.isLt) (by simp only [asm]; omega) fun hform N hN E => ?_
  rw [raw_Csr N E.1.1, decodeCsr, E.1.2.2.2.1]
  simp only [fldReg, fin_ofNat, bv_ofNat, E.1, reduceIte]

theorem csrrc (d a : Reg) (c : BitVec 12) : Statement (.csrrc d a c) := by
  refine of_19_14_12_0 rfl 2 d.val a.val 2 c.toNat (by decide) (d.isLt) (a.isLt) (by decide) (c.isLt) (by simp only [asm]; omega) fun hform N hN E => ?_
  rw [raw_Csr N E.1.1, decodeCsr, E.1.2.2.2.1]
  simp only [fldReg, fin_ofNat, bv_ofNat, E.1, reduceIte]

theorem j (o : BitVec 24) : Statement (.j o) := by
  refine of_0 rfl 3 o.toNat (by decide) (o.isLt) (by simp only [asm]; omega) fun hform N hN E => ?_
  rw [raw_J N E.1.1, decodeJ]
  simp only [fin_ofNat, bv_ofNat, E.1, reduceIte]

theorem jal (o : BitVec 24) : Statement (.jal o) := by
  refine of_0 rfl 4 o.toNat (by decide) (o.isLt) (by simp only [asm]; omega) fun hform N hN E => ?_
  rw [raw_Jal N E.1.1, decodeJal]
  simp only [fin_ofNat, bv_ofNat, E.1, reduceIte]

theorem jalr (d a : Reg) (i : BitVec 14) : Statement (.jalr d a i) := by
  refine of_19_14_0 rfl 5 d.val a.val i.toNat (by decide) (d.isLt) (a.isLt) (i.isLt) (by simp only [asm]; omega) fun hform N hN E => ?_
  rw [raw_Jalr N E.1.1, decodeJalr]
  simp only [fldReg, fin_ofNat, bv_ofNat, E.1, reduceIte]

theorem beq (a b : Reg) (o : BitVec 14) : Statement (.beq a b o) := by
  refine of_19_14_0 rfl 6 a.val b.val o.toNat (by decide) (a.isLt) (b.isLt) (o.isLt) (by simp only [asm]; omega) fun hform N hN E => ?_
  rw [raw_Beq N E.1.1, decodeBeq]
  simp only [fldReg, fin_ofNat, bv_ofNat, E.1, reduceIte]

theorem bne (a b : Reg) (o : BitVec 14) : Statement (.bne a b o) := by
  refine of_19_14_0 rfl 7 a.val b.val o.toNat (by decide) (a.isLt) (b.isLt) (o.isLt) (by simp only [asm]; omega) fun hform N hN E => ?_
  rw [raw_Bne N E.1.1, decodeBne]
  simp only [fldReg, fin_ofNat, bv_ofNat, E.1, reduceIte]

theorem blt (a b : Reg) (o : BitVec 14) : Statement (.blt a b o) := by
  refine of_19_14_0 rfl 8 a.val b.val o.toNat (by decide) (a.isLt) (b.isLt) (o.isLt) (by simp only [asm]; omega) fun hform N hN E => ?_
  rw [raw_Blt N E.1.1, decodeBlt]
  simp only [fldReg, fin_ofNat, bv_ofNat, E.1, reduceIte]

theorem bge (a b : Reg) (o : BitVec 14) : Statement (.bge a b o) := by
  refine of_19_14_0 rfl 9 a.val b.val o.toNat (by decide) (a.isLt) (b.isLt) (o.isLt) (by simp only [asm]; omega) fun hform N hN E => ?_
  rw [raw_Bge N E.1.1, decodeBge]
  simp only [fldReg, fin_ofNat, bv_ofNat, E.1, reduceIte]

theorem bltu (a b : Reg) (o : BitVec 14) : Statement (.bltu a b o) := by
  refine of_19_14_0 rfl 10 a.val b.val o.toNat (by decide) (a.isLt) (b.isLt) (o.isLt) (by simp only [asm]; omega) fun hform N hN E => ?_
  rw [raw_Bltu N E.1.1, decodeBltu]
  simp only [fldReg, fin_ofNat, bv_ofNat, E.1, reduceIte]

theorem bgeu (a b : Reg) (o : BitVec 14) : Statement (.bgeu a b o) := by
  refine of_19_14_0 rfl 11 a.val b.val o.toNat (by decide) (a.isLt) (b.isLt) (o.isLt) (by simp only [asm]; omega) fun hform N hN E => ?_
  rw [raw_Bgeu N E.1.1, decodeBgeu]
  simp only [fldReg, fin_ofNat, bv_ofNat, E.1, reduceIte]

theorem bbs (a : Reg) (n : BitVec 6) (o : BitVec 12) : Statement (.bbs a n o) := by
  refine of_19_13_12_0 rfl 12 a.val n.toNat 1 o.toNat (by decide) (a.isLt) (n.isLt) (by decide) (o.isLt) (by simp only [asm]; omega) fun hform N hN E => ?_
  rw [raw_BitTest N E.1.1, decodeBitTest, E.1.2.2.2.1]
  simp only [fldReg, fin_ofNat, bv_ofNat, E.1, reduceIte]

theorem bbc (a : Reg) (n : BitVec 6) (o : BitVec 12) : Statement (.bbc a n o) := by
  refine of_19_13_12_0 rfl 12 a.val n.toNat 0 o.toNat (by decide) (a.isLt) (n.isLt) (by decide) (o.isLt) (by simp only [asm]; omega) fun hform N hN E => ?_
  rw [raw_BitTest N E.1.1, decodeBitTest, E.1.2.2.2.1]
  simp only [fldReg, fin_ofNat, bv_ofNat, E.1, reduceIte]

theorem rep (a : Reg) (n : BitVec 12) : Statement (.rep a n) := by
  refine of_19_14_12_0 rfl 13 0 a.val 0 n.toNat (by decide) (by decide) (a.isLt) (by decide) (n.isLt) (by simp only [asm]; omega) fun hform N hN E => ?_
  rw [raw_Rep N E.1.1, decodeRep, E.1.2.2.2.1]
  simp only [zeros, fldReg, fin_ofNat, bv_ofNat, E.1, reduceIte]

theorem lpin (n : BitVec 12) : Statement (.lpin n) := by
  refine of_19_14_12_0 rfl 13 0 0 1 n.toNat (by decide) (by decide) (by decide) (by decide) (n.isLt) (by simp only [asm]; omega) fun hform N hN E => ?_
  have s0 := (fld_fld N 14 10 30 (by decide)).trans (show _ = 0 from by rw [hN]; omega)
  rw [raw_Rep N E.1.1, decodeRep, E.1.2.2.2.1]
  simp only [zeros, fldReg, fin_ofNat, bv_ofNat, E.1, s0, reduceIte]

theorem add (d a b : Reg) : Statement (.add d a b) := by
  refine of_19_14_9_0 rfl 16 d.val a.val b.val 0 (by decide) (d.isLt) (a.isLt) (b.isLt) (by decide) (by simp only [asm]; omega) fun hform N hN E => ?_
  rw [raw_Int N E.1.1, decodeInt, E.1.2.2.2.2]
  simp only [zeros, fldReg, fin_ofNat, bv_ofNat, E.1, reduceIte]

theorem sub (d a b : Reg) : Statement (.sub d a b) := by
  refine of_19_14_9_0 rfl 16 d.val a.val b.val 1 (by decide) (d.isLt) (a.isLt) (b.isLt) (by decide) (by simp only [asm]; omega) fun hform N hN E => ?_
  rw [raw_Int N E.1.1, decodeInt, E.1.2.2.2.2]
  simp only [zeros, fldReg, fin_ofNat, bv_ofNat, E.1, reduceIte]

theorem and (d a b : Reg) : Statement (.and d a b) := by
  refine of_19_14_9_0 rfl 16 d.val a.val b.val 2 (by decide) (d.isLt) (a.isLt) (b.isLt) (by decide) (by simp only [asm]; omega) fun hform N hN E => ?_
  rw [raw_Int N E.1.1, decodeInt, E.1.2.2.2.2]
  simp only [zeros, fldReg, fin_ofNat, bv_ofNat, E.1, reduceIte]

theorem or (d a b : Reg) : Statement (.or d a b) := by
  refine of_19_14_9_0 rfl 16 d.val a.val b.val 3 (by decide) (d.isLt) (a.isLt) (b.isLt) (by decide) (by simp only [asm]; omega) fun hform N hN E => ?_
  rw [raw_Int N E.1.1, decodeInt, E.1.2.2.2.2]
  simp only [zeros, fldReg, fin_ofNat, bv_ofNat, E.1, reduceIte]

theorem xor (d a b : Reg) : Statement (.xor d a b) := by
  refine of_19_14_9_0 rfl 16 d.val a.val b.val 4 (by decide) (d.isLt) (a.isLt) (b.isLt) (by decide) (by simp only [asm]; omega) fun hform N hN E => ?_
  rw [raw_Int N E.1.1, decodeInt, E.1.2.2.2.2]
  simp only [zeros, fldReg, fin_ofNat, bv_ofNat, E.1, reduceIte]

theorem sll (d a b : Reg) : Statement (.sll d a b) := by
  refine of_19_14_9_0 rfl 16 d.val a.val b.val 5 (by decide) (d.isLt) (a.isLt) (b.isLt) (by decide) (by simp only [asm]; omega) fun hform N hN E => ?_
  rw [raw_Int N E.1.1, decodeInt, E.1.2.2.2.2]
  simp only [zeros, fldReg, fin_ofNat, bv_ofNat, E.1, reduceIte]

theorem srl (d a b : Reg) : Statement (.srl d a b) := by
  refine of_19_14_9_0 rfl 16 d.val a.val b.val 6 (by decide) (d.isLt) (a.isLt) (b.isLt) (by decide) (by simp only [asm]; omega) fun hform N hN E => ?_
  rw [raw_Int N E.1.1, decodeInt, E.1.2.2.2.2]
  simp only [zeros, fldReg, fin_ofNat, bv_ofNat, E.1, reduceIte]

theorem sra (d a b : Reg) : Statement (.sra d a b) := by
  refine of_19_14_9_0 rfl 16 d.val a.val b.val 7 (by decide) (d.isLt) (a.isLt) (b.isLt) (by decide) (by simp only [asm]; omega) fun hform N hN E => ?_
  rw [raw_Int N E.1.1, decodeInt, E.1.2.2.2.2]
  simp only [zeros, fldReg, fin_ofNat, bv_ofNat, E.1, reduceIte]

theorem slt (d a b : Reg) : Statement (.slt d a b) := by
  refine of_19_14_9_0 rfl 16 d.val a.val b.val 8 (by decide) (d.isLt) (a.isLt) (b.isLt) (by decide) (by simp only [asm]; omega) fun hform N hN E => ?_
  rw [raw_Int N E.1.1, decodeInt, E.1.2.2.2.2]
  simp only [zeros, fldReg, fin_ofNat, bv_ofNat, E.1, reduceIte]

theorem sltu (d a b : Reg) : Statement (.sltu d a b) := by
  refine of_19_14_9_0 rfl 16 d.val a.val b.val 9 (by decide) (d.isLt) (a.isLt) (b.isLt) (by decide) (by simp only [asm]; omega) fun hform N hN E => ?_
  rw [raw_Int N E.1.1, decodeInt, E.1.2.2.2.2]
  simp only [zeros, fldReg, fin_ofNat, bv_ofNat, E.1, reduceIte]

theorem min (d a b : Reg) : Statement (.min d a b) := by
  refine of_19_14_9_0 rfl 16 d.val a.val b.val 10 (by decide) (d.isLt) (a.isLt) (b.isLt) (by decide) (by simp only [asm]; omega) fun hform N hN E => ?_
  rw [raw_Int N E.1.1, decodeInt, E.1.2.2.2.2]
  simp only [zeros, fldReg, fin_ofNat, bv_ofNat, E.1, reduceIte]

theorem max (d a b : Reg) : Statement (.max d a b) := by
  refine of_19_14_9_0 rfl 16 d.val a.val b.val 11 (by decide) (d.isLt) (a.isLt) (b.isLt) (by decide) (by simp only [asm]; omega) fun hform N hN E => ?_
  rw [raw_Int N E.1.1, decodeInt, E.1.2.2.2.2]
  simp only [zeros, fldReg, fin_ofNat, bv_ofNat, E.1, reduceIte]

theorem minu (d a b : Reg) : Statement (.minu d a b) := by
  refine of_19_14_9_0 rfl 16 d.val a.val b.val 12 (by decide) (d.isLt) (a.isLt) (b.isLt) (by decide) (by simp only [asm]; omega) fun hform N hN E => ?_
  rw [raw_Int N E.1.1, decodeInt, E.1.2.2.2.2]
  simp only [zeros, fldReg, fin_ofNat, bv_ofNat, E.1, reduceIte]

theorem maxu (d a b : Reg) : Statement (.maxu d a b) := by
  refine of_19_14_9_0 rfl 16 d.val a.val b.val 13 (by decide) (d.isLt) (a.isLt) (b.isLt) (by decide) (by simp only [asm]; omega) fun hform N hN E => ?_
  rw [raw_Int N E.1.1, decodeInt, E.1.2.2.2.2]
  simp only [zeros, fldReg, fin_ofNat, bv_ofNat, E.1, reduceIte]

theorem addw (d a b : Reg) : Statement (.addw d a b) := by
  refine of_19_14_9_0 rfl 16 d.val a.val b.val 16 (by decide) (d.isLt) (a.isLt) (b.isLt) (by decide) (by simp only [asm]; omega) fun hform N hN E => ?_
  rw [raw_Int N E.1.1, decodeInt, E.1.2.2.2.2]
  simp only [zeros, fldReg, fin_ofNat, bv_ofNat, E.1, reduceIte]

theorem subw (d a b : Reg) : Statement (.subw d a b) := by
  refine of_19_14_9_0 rfl 16 d.val a.val b.val 17 (by decide) (d.isLt) (a.isLt) (b.isLt) (by decide) (by simp only [asm]; omega) fun hform N hN E => ?_
  rw [raw_Int N E.1.1, decodeInt, E.1.2.2.2.2]
  simp only [zeros, fldReg, fin_ofNat, bv_ofNat, E.1, reduceIte]

theorem sllw (d a b : Reg) : Statement (.sllw d a b) := by
  refine of_19_14_9_0 rfl 16 d.val a.val b.val 18 (by decide) (d.isLt) (a.isLt) (b.isLt) (by decide) (by simp only [asm]; omega) fun hform N hN E => ?_
  rw [raw_Int N E.1.1, decodeInt, E.1.2.2.2.2]
  simp only [zeros, fldReg, fin_ofNat, bv_ofNat, E.1, reduceIte]

theorem srlw (d a b : Reg) : Statement (.srlw d a b) := by
  refine of_19_14_9_0 rfl 16 d.val a.val b.val 19 (by decide) (d.isLt) (a.isLt) (b.isLt) (by decide) (by simp only [asm]; omega) fun hform N hN E => ?_
  rw [raw_Int N E.1.1, decodeInt, E.1.2.2.2.2]
  simp only [zeros, fldReg, fin_ofNat, bv_ofNat, E.1, reduceIte]

theorem sraw (d a b : Reg) : Statement (.sraw d a b) := by
  refine of_19_14_9_0 rfl 16 d.val a.val b.val 20 (by decide) (d.isLt) (a.isLt) (b.isLt) (by decide) (by simp only [asm]; omega) fun hform N hN E => ?_
  rw [raw_Int N E.1.1, decodeInt, E.1.2.2.2.2]
  simp only [zeros, fldReg, fin_ofNat, bv_ofNat, E.1, reduceIte]

theorem clz (d a : Reg) : Statement (.clz d a) := by
  refine of_19_14_9_0 rfl 16 d.val a.val 0 32 (by decide) (d.isLt) (a.isLt) (by decide) (by decide) (by simp only [asm]; omega) fun hform N hN E => ?_
  rw [raw_Int N E.1.1, decodeInt, E.1.2.2.2.2]
  simp only [zeros, fldReg, fin_ofNat, bv_ofNat, E.1, reduceIte]

theorem ctz (d a : Reg) : Statement (.ctz d a) := by
  refine of_19_14_9_0 rfl 16 d.val a.val 0 33 (by decide) (d.isLt) (a.isLt) (by decide) (by decide) (by simp only [asm]; omega) fun hform N hN E => ?_
  rw [raw_Int N E.1.1, decodeInt, E.1.2.2.2.2]
  simp only [zeros, fldReg, fin_ofNat, bv_ofNat, E.1, reduceIte]

theorem popc (d a : Reg) : Statement (.popc d a) := by
  refine of_19_14_9_0 rfl 16 d.val a.val 0 34 (by decide) (d.isLt) (a.isLt) (by decide) (by decide) (by simp only [asm]; omega) fun hform N hN E => ?_
  rw [raw_Int N E.1.1, decodeInt, E.1.2.2.2.2]
  simp only [zeros, fldReg, fin_ofNat, bv_ofNat, E.1, reduceIte]

theorem mul (d a b : Reg) : Statement (.mul d a b) := by
  refine of_19_14_9_0 rfl 17 d.val a.val b.val 0 (by decide) (d.isLt) (a.isLt) (b.isLt) (by decide) (by simp only [asm]; omega) fun hform N hN E => ?_
  rw [raw_MulDiv N E.1.1, decodeMulDiv, E.1.2.2.2.2]
  simp only [fldReg, fin_ofNat, bv_ofNat, E.1, reduceIte]

theorem mulh (d a b : Reg) : Statement (.mulh d a b) := by
  refine of_19_14_9_0 rfl 17 d.val a.val b.val 1 (by decide) (d.isLt) (a.isLt) (b.isLt) (by decide) (by simp only [asm]; omega) fun hform N hN E => ?_
  rw [raw_MulDiv N E.1.1, decodeMulDiv, E.1.2.2.2.2]
  simp only [fldReg, fin_ofNat, bv_ofNat, E.1, reduceIte]

theorem mulhu (d a b : Reg) : Statement (.mulhu d a b) := by
  refine of_19_14_9_0 rfl 17 d.val a.val b.val 2 (by decide) (d.isLt) (a.isLt) (b.isLt) (by decide) (by simp only [asm]; omega) fun hform N hN E => ?_
  rw [raw_MulDiv N E.1.1, decodeMulDiv, E.1.2.2.2.2]
  simp only [fldReg, fin_ofNat, bv_ofNat, E.1, reduceIte]

theorem mulhsu (d a b : Reg) : Statement (.mulhsu d a b) := by
  refine of_19_14_9_0 rfl 17 d.val a.val b.val 3 (by decide) (d.isLt) (a.isLt) (b.isLt) (by decide) (by simp only [asm]; omega) fun hform N hN E => ?_
  rw [raw_MulDiv N E.1.1, decodeMulDiv, E.1.2.2.2.2]
  simp only [fldReg, fin_ofNat, bv_ofNat, E.1, reduceIte]

theorem div (d a b : Reg) : Statement (.div d a b) := by
  refine of_19_14_9_0 rfl 17 d.val a.val b.val 4 (by decide) (d.isLt) (a.isLt) (b.isLt) (by decide) (by simp only [asm]; omega) fun hform N hN E => ?_
  rw [raw_MulDiv N E.1.1, decodeMulDiv, E.1.2.2.2.2]
  simp only [fldReg, fin_ofNat, bv_ofNat, E.1, reduceIte]

theorem divu (d a b : Reg) : Statement (.divu d a b) := by
  refine of_19_14_9_0 rfl 17 d.val a.val b.val 5 (by decide) (d.isLt) (a.isLt) (b.isLt) (by decide) (by simp only [asm]; omega) fun hform N hN E => ?_
  rw [raw_MulDiv N E.1.1, decodeMulDiv, E.1.2.2.2.2]
  simp only [fldReg, fin_ofNat, bv_ofNat, E.1, reduceIte]

theorem rem (d a b : Reg) : Statement (.rem d a b) := by
  refine of_19_14_9_0 rfl 17 d.val a.val b.val 6 (by decide) (d.isLt) (a.isLt) (b.isLt) (by decide) (by simp only [asm]; omega) fun hform N hN E => ?_
  rw [raw_MulDiv N E.1.1, decodeMulDiv, E.1.2.2.2.2]
  simp only [fldReg, fin_ofNat, bv_ofNat, E.1, reduceIte]

theorem remu (d a b : Reg) : Statement (.remu d a b) := by
  refine of_19_14_9_0 rfl 17 d.val a.val b.val 7 (by decide) (d.isLt) (a.isLt) (b.isLt) (by decide) (by simp only [asm]; omega) fun hform N hN E => ?_
  rw [raw_MulDiv N E.1.1, decodeMulDiv, E.1.2.2.2.2]
  simp only [fldReg, fin_ofNat, bv_ofNat, E.1, reduceIte]

theorem mulw (d a b : Reg) : Statement (.mulw d a b) := by
  refine of_19_14_9_0 rfl 17 d.val a.val b.val 8 (by decide) (d.isLt) (a.isLt) (b.isLt) (by decide) (by simp only [asm]; omega) fun hform N hN E => ?_
  rw [raw_MulDiv N E.1.1, decodeMulDiv, E.1.2.2.2.2]
  simp only [fldReg, fin_ofNat, bv_ofNat, E.1, reduceIte]

theorem divw (d a b : Reg) : Statement (.divw d a b) := by
  refine of_19_14_9_0 rfl 17 d.val a.val b.val 12 (by decide) (d.isLt) (a.isLt) (b.isLt) (by decide) (by simp only [asm]; omega) fun hform N hN E => ?_
  rw [raw_MulDiv N E.1.1, decodeMulDiv, E.1.2.2.2.2]
  simp only [fldReg, fin_ofNat, bv_ofNat, E.1, reduceIte]

theorem divuw (d a b : Reg) : Statement (.divuw d a b) := by
  refine of_19_14_9_0 rfl 17 d.val a.val b.val 13 (by decide) (d.isLt) (a.isLt) (b.isLt) (by decide) (by simp only [asm]; omega) fun hform N hN E => ?_
  rw [raw_MulDiv N E.1.1, decodeMulDiv, E.1.2.2.2.2]
  simp only [fldReg, fin_ofNat, bv_ofNat, E.1, reduceIte]

theorem remw (d a b : Reg) : Statement (.remw d a b) := by
  refine of_19_14_9_0 rfl 17 d.val a.val b.val 14 (by decide) (d.isLt) (a.isLt) (b.isLt) (by decide) (by simp only [asm]; omega) fun hform N hN E => ?_
  rw [raw_MulDiv N E.1.1, decodeMulDiv, E.1.2.2.2.2]
  simp only [fldReg, fin_ofNat, bv_ofNat, E.1, reduceIte]

theorem remuw (d a b : Reg) : Statement (.remuw d a b) := by
  refine of_19_14_9_0 rfl 17 d.val a.val b.val 15 (by decide) (d.isLt) (a.isLt) (b.isLt) (by decide) (by simp only [asm]; omega) fun hform N hN E => ?_
  rw [raw_MulDiv N E.1.1, decodeMulDiv, E.1.2.2.2.2]
  simp only [fldReg, fin_ofNat, bv_ofNat, E.1, reduceIte]

theorem addi (d a : Reg) (i : BitVec 14) : Statement (.addi d a i) := by
  refine of_19_14_0 rfl 18 d.val a.val i.toNat (by decide) (d.isLt) (a.isLt) (i.isLt) (by simp only [asm]; omega) fun hform N hN E => ?_
  rw [raw_Addi N E.1.1, decodeAddi]
  simp only [fldReg, fin_ofNat, bv_ofNat, E.1, reduceIte]

theorem andi (d a : Reg) (i : BitVec 14) : Statement (.andi d a i) := by
  refine of_19_14_0 rfl 19 d.val a.val i.toNat (by decide) (d.isLt) (a.isLt) (i.isLt) (by simp only [asm]; omega) fun hform N hN E => ?_
  rw [raw_Andi N E.1.1, decodeAndi]
  simp only [fldReg, fin_ofNat, bv_ofNat, E.1, reduceIte]

theorem ori (d a : Reg) (i : BitVec 14) : Statement (.ori d a i) := by
  refine of_19_14_0 rfl 20 d.val a.val i.toNat (by decide) (d.isLt) (a.isLt) (i.isLt) (by simp only [asm]; omega) fun hform N hN E => ?_
  rw [raw_Ori N E.1.1, decodeOri]
  simp only [fldReg, fin_ofNat, bv_ofNat, E.1, reduceIte]

theorem xori (d a : Reg) (i : BitVec 14) : Statement (.xori d a i) := by
  refine of_19_14_0 rfl 21 d.val a.val i.toNat (by decide) (d.isLt) (a.isLt) (i.isLt) (by simp only [asm]; omega) fun hform N hN E => ?_
  rw [raw_Xori N E.1.1, decodeXori]
  simp only [fldReg, fin_ofNat, bv_ofNat, E.1, reduceIte]

theorem slti (d a : Reg) (i : BitVec 14) : Statement (.slti d a i) := by
  refine of_19_14_0 rfl 22 d.val a.val i.toNat (by decide) (d.isLt) (a.isLt) (i.isLt) (by simp only [asm]; omega) fun hform N hN E => ?_
  rw [raw_Slti N E.1.1, decodeSlti]
  simp only [fldReg, fin_ofNat, bv_ofNat, E.1, reduceIte]

theorem slli (d a : Reg) (n : BitVec 6) : Statement (.slli d a n) := by
  refine of_19_14_12_6_0 rfl 23 d.val a.val 0 0 n.toNat (by decide) (d.isLt) (a.isLt) (by decide) (by decide) (n.isLt) (by simp only [asm]; omega) fun hform N hN E => ?_
  rw [raw_ShiftImm N E.1.1, decodeShiftImm, E.1.2.2.2.1]
  simp only [zeros, fldReg, fin_ofNat, bv_ofNat, E.1, reduceIte]

theorem srli (d a : Reg) (n : BitVec 6) : Statement (.srli d a n) := by
  refine of_19_14_12_6_0 rfl 23 d.val a.val 1 0 n.toNat (by decide) (d.isLt) (a.isLt) (by decide) (by decide) (n.isLt) (by simp only [asm]; omega) fun hform N hN E => ?_
  rw [raw_ShiftImm N E.1.1, decodeShiftImm, E.1.2.2.2.1]
  simp only [zeros, fldReg, fin_ofNat, bv_ofNat, E.1, reduceIte]

theorem srai (d a : Reg) (n : BitVec 6) : Statement (.srai d a n) := by
  refine of_19_14_12_6_0 rfl 23 d.val a.val 2 0 n.toNat (by decide) (d.isLt) (a.isLt) (by decide) (by decide) (n.isLt) (by simp only [asm]; omega) fun hform N hN E => ?_
  rw [raw_ShiftImm N E.1.1, decodeShiftImm, E.1.2.2.2.1]
  simp only [zeros, fldReg, fin_ofNat, bv_ofNat, E.1, reduceIte]

theorem lui (d : Reg) (i : BitVec 19) : Statement (.lui d i) := by
  refine of_19_0 rfl 24 d.val i.toNat (by decide) (d.isLt) (i.isLt) (by simp only [asm]; omega) fun hform N hN E => ?_
  rw [raw_Lui N E.1.1, decodeLui]
  simp only [fldReg, fin_ofNat, bv_ofNat, E.1, reduceIte]

theorem auipc (d : Reg) (i : BitVec 19) : Statement (.auipc d i) := by
  refine of_19_0 rfl 25 d.val i.toNat (by decide) (d.isLt) (i.isLt) (by simp only [asm]; omega) fun hform N hN E => ?_
  rw [raw_Auipc N E.1.1, decodeAuipc]
  simp only [fldReg, fin_ofNat, bv_ofNat, E.1, reduceIte]

theorem fadd (d a b : Reg) (r : RM) (t : FT) : Statement (.fadd d a b r t) := by
  have hr := rM_lt r
  have ht := fT_lt t
  refine of_19_14_9_6_3_0 rfl 26 d.val a.val b.val r.code t.code 0 (by decide) (d.isLt) (a.isLt) (b.isLt) (hr) (Nat.lt_of_lt_of_le ht (by decide)) (by decide) (by simp only [asm]; omega) fun hform N hN E => ?_
  rw [raw_Fp N E.1.1, decodeFp, E.1.2.2.2.2.2.2]
  simp only [zeros, fldReg, fin_ofNat, bv_ofNat, E.1, RM.ofCode_code, FT.ofCode_code, Option.bind_some, reduceIte]

theorem fsub (d a b : Reg) (r : RM) (t : FT) : Statement (.fsub d a b r t) := by
  have hr := rM_lt r
  have ht := fT_lt t
  refine of_19_14_9_6_3_0 rfl 26 d.val a.val b.val r.code t.code 1 (by decide) (d.isLt) (a.isLt) (b.isLt) (hr) (Nat.lt_of_lt_of_le ht (by decide)) (by decide) (by simp only [asm]; omega) fun hform N hN E => ?_
  rw [raw_Fp N E.1.1, decodeFp, E.1.2.2.2.2.2.2]
  simp only [zeros, fldReg, fin_ofNat, bv_ofNat, E.1, RM.ofCode_code, FT.ofCode_code, Option.bind_some, reduceIte]

theorem fmul (d a b : Reg) (r : RM) (t : FT) : Statement (.fmul d a b r t) := by
  have hr := rM_lt r
  have ht := fT_lt t
  refine of_19_14_9_6_3_0 rfl 26 d.val a.val b.val r.code t.code 2 (by decide) (d.isLt) (a.isLt) (b.isLt) (hr) (Nat.lt_of_lt_of_le ht (by decide)) (by decide) (by simp only [asm]; omega) fun hform N hN E => ?_
  rw [raw_Fp N E.1.1, decodeFp, E.1.2.2.2.2.2.2]
  simp only [zeros, fldReg, fin_ofNat, bv_ofNat, E.1, RM.ofCode_code, FT.ofCode_code, Option.bind_some, reduceIte]

theorem fdiv (d a b : Reg) (r : RM) (t : FT) : Statement (.fdiv d a b r t) := by
  have hr := rM_lt r
  have ht := fT_lt t
  refine of_19_14_9_6_3_0 rfl 26 d.val a.val b.val r.code t.code 3 (by decide) (d.isLt) (a.isLt) (b.isLt) (hr) (Nat.lt_of_lt_of_le ht (by decide)) (by decide) (by simp only [asm]; omega) fun hform N hN E => ?_
  rw [raw_Fp N E.1.1, decodeFp, E.1.2.2.2.2.2.2]
  simp only [zeros, fldReg, fin_ofNat, bv_ofNat, E.1, RM.ofCode_code, FT.ofCode_code, Option.bind_some, reduceIte]

theorem fsqrt (d a : Reg) (r : RM) (t : FT) : Statement (.fsqrt d a r t) := by
  have hr := rM_lt r
  have ht := fT_lt t
  refine of_19_14_12_9_6_3_0 rfl 26 d.val a.val 0 0 r.code t.code 4 (by decide) (d.isLt) (a.isLt) (by decide) (by decide) (hr) (Nat.lt_of_lt_of_le ht (by decide)) (by decide) (by simp only [asm]; omega) fun hform N hN E => ?_
  have s0 := (fld_fld N 9 5 30 (by decide)).trans (show _ = 0 from by rw [hN]; omega)
  rw [raw_Fp N E.1.1, decodeFp, E.1.2.2.2.2.2.2.2]
  simp only [zeros, fldReg, fin_ofNat, bv_ofNat, E.1, s0, RM.ofCode_code, FT.ofCode_code, Option.bind_some, reduceIte]

theorem fma (d a b : Reg) (r : RM) (t : FT) : Statement (.fma d a b r t) := by
  have hr := rM_lt r
  have ht := fT_lt t
  refine of_19_14_9_6_3_0 rfl 26 d.val a.val b.val r.code t.code 5 (by decide) (d.isLt) (a.isLt) (b.isLt) (hr) (Nat.lt_of_lt_of_le ht (by decide)) (by decide) (by simp only [asm]; omega) fun hform N hN E => ?_
  rw [raw_Fp N E.1.1, decodeFp, E.1.2.2.2.2.2.2]
  simp only [zeros, fldReg, fin_ofNat, bv_ofNat, E.1, RM.ofCode_code, FT.ofCode_code, Option.bind_some, reduceIte]

theorem fmin (d a b : Reg) (t : FT) : Statement (.fmin d a b t) := by
  have ht := fT_lt t
  refine of_19_14_9_6_3_0 rfl 26 d.val a.val b.val 0 t.code 6 (by decide) (d.isLt) (a.isLt) (b.isLt) (by decide) (Nat.lt_of_lt_of_le ht (by decide)) (by decide) (by simp only [asm]; omega) fun hform N hN E => ?_
  rw [raw_Fp N E.1.1, decodeFp, E.1.2.2.2.2.2.2]
  simp only [zeros, fldReg, fin_ofNat, bv_ofNat, E.1, FT.ofCode_code, Option.bind_some, reduceIte]

theorem fmax (d a b : Reg) (t : FT) : Statement (.fmax d a b t) := by
  have ht := fT_lt t
  refine of_19_14_9_6_3_0 rfl 26 d.val a.val b.val 1 t.code 6 (by decide) (d.isLt) (a.isLt) (b.isLt) (by decide) (Nat.lt_of_lt_of_le ht (by decide)) (by decide) (by simp only [asm]; omega) fun hform N hN E => ?_
  rw [raw_Fp N E.1.1, decodeFp, E.1.2.2.2.2.2.2]
  simp only [zeros, fldReg, fin_ofNat, bv_ofNat, E.1, FT.ofCode_code, Option.bind_some, reduceIte]

theorem feq (d a b : Reg) (t : FT) : Statement (.feq d a b t) := by
  have ht := fT_lt t
  refine of_19_14_9_6_3_0 rfl 26 d.val a.val b.val 2 t.code 6 (by decide) (d.isLt) (a.isLt) (b.isLt) (by decide) (Nat.lt_of_lt_of_le ht (by decide)) (by decide) (by simp only [asm]; omega) fun hform N hN E => ?_
  rw [raw_Fp N E.1.1, decodeFp, E.1.2.2.2.2.2.2]
  simp only [zeros, fldReg, fin_ofNat, bv_ofNat, E.1, FT.ofCode_code, Option.bind_some, reduceIte]

theorem flt (d a b : Reg) (t : FT) : Statement (.flt d a b t) := by
  have ht := fT_lt t
  refine of_19_14_9_6_3_0 rfl 26 d.val a.val b.val 3 t.code 6 (by decide) (d.isLt) (a.isLt) (b.isLt) (by decide) (Nat.lt_of_lt_of_le ht (by decide)) (by decide) (by simp only [asm]; omega) fun hform N hN E => ?_
  rw [raw_Fp N E.1.1, decodeFp, E.1.2.2.2.2.2.2]
  simp only [zeros, fldReg, fin_ofNat, bv_ofNat, E.1, FT.ofCode_code, Option.bind_some, reduceIte]

theorem fle (d a b : Reg) (t : FT) : Statement (.fle d a b t) := by
  have ht := fT_lt t
  refine of_19_14_9_6_3_0 rfl 26 d.val a.val b.val 4 t.code 6 (by decide) (d.isLt) (a.isLt) (b.isLt) (by decide) (Nat.lt_of_lt_of_le ht (by decide)) (by decide) (by simp only [asm]; omega) fun hform N hN E => ?_
  rw [raw_Fp N E.1.1, decodeFp, E.1.2.2.2.2.2.2]
  simp only [zeros, fldReg, fin_ofNat, bv_ofNat, E.1, FT.ofCode_code, Option.bind_some, reduceIte]

theorem fcvt (d a : Reg) (u : NumT) (r : RM) (t : NumT) : Statement (.fcvt d a u r t) := by
  have hu := numT_lt u
  have hr := rM_lt r
  have ht := numT_lt t
  refine of_19_14_12_9_6_3_0 rfl 26 d.val a.val 0 u.code r.code t.code 7 (by decide) (d.isLt) (a.isLt) (by decide) (hu) (hr) (ht) (by decide) (by simp only [asm]; omega) fun hform N hN E => ?_
  rw [raw_Fp N E.1.1, decodeFp, E.1.2.2.2.2.2.2.2]
  simp only [zeros, fldReg, fin_ofNat, bv_ofNat, E.1, NumT.ofCode_code, RM.ofCode_code, Option.bind_some, reduceIte]

theorem ld (d a : Reg) (k : LdK) (h : Hint) (o : BitVec 9) : Statement (.ld d a k h o) := by
  have hk := ldK_lt k
  have hh := hint_lt h
  refine of_19_14_11_9_0 rfl 28 d.val a.val k.code h.code o.toNat (by decide) (d.isLt) (a.isLt) (Nat.lt_of_lt_of_le hk (by decide)) (hh) (o.isLt) (by simp only [asm]; omega) fun hform N hN E => ?_
  rw [raw_Load N E.1.1, decodeLoad]
  simp only [zeros, fldReg, fin_ofNat, bv_ofNat, E.1, LdK.ofCode_code, Hint.ofCode_code, Option.bind_some, Nat.ne_of_lt hk, reduceIte]

theorem pf (a : Reg) (h : Hint) (o : BitVec 9) : Statement (.pf a h o) := by
  have hh := hint_lt h
  refine of_19_14_11_9_0 rfl 28 0 a.val 7 h.code o.toNat (by decide) (by decide) (a.isLt) (by decide) (hh) (o.isLt) (by simp only [asm]; omega) fun hform N hN E => ?_
  rw [raw_Load N E.1.1, decodeLoad]
  simp only [zeros, fldReg, fin_ofNat, bv_ofNat, E.1, Hint.ofCode_code, Option.bind_some, reduceIte]

theorem st (s a : Reg) (k : StK) (h : Hint) (o : BitVec 9) : Statement (.st s a k h o) := by
  have hk := stK_lt k
  have hh := hint_lt h
  refine of_19_14_13_11_9_0 rfl 29 s.val a.val 0 k.code h.code o.toNat (by decide) (s.isLt) (a.isLt) (by decide) (hk) (hh) (o.isLt) (by simp only [asm]; omega) fun hform N hN E => ?_
  rw [raw_Store N E.1.1, decodeStore]
  simp only [zeros, fldReg, fin_ofNat, bv_ofNat, E.1, StK.ofCode_code, Hint.ofCode_code, Option.bind_some, reduceIte]

theorem ldAcq (d a : Reg) (h : Hint) (z : AqZ) (s : Scope) : Statement (.ldAcq d a h z s) := by
  have hh := hint_lt h
  have hz := aqZ_lt z
  have hs := scope_lt s
  refine of_19_14_9_7_5_3_0 rfl 30 d.val a.val 0 h.code 0 z.code s.code (by decide) (d.isLt) (a.isLt) (by decide) (hh) (by decide) (Nat.lt_of_lt_of_le hz (by decide)) (Nat.lt_of_lt_of_le hs (by decide)) (by simp only [asm]; omega) fun hform N hN E => ?_
  rw [raw_Atomic N E.1.1, decodeAtomic, E.1.2.2.2.2.2.1]
  simp only [zeros, fldReg, fin_ofNat, bv_ofNat, E.1, Hint.ofCode_code, AqZ.ofCode_code, Scope.ofCode_code, Option.bind_some, reduceIte]

theorem stRel (a b : Reg) (h : Hint) (z : AmZ) (s : Scope) : Statement (.stRel a b h z s) := by
  have hh := hint_lt h
  have hz := rel_lt z
  have hs := scope_lt s
  refine of_19_14_9_7_5_3_0 rfl 30 0 a.val b.val h.code 1 z.relCode s.code (by decide) (by decide) (a.isLt) (b.isLt) (hh) (by decide) (Nat.lt_of_lt_of_le hz (by decide)) (Nat.lt_of_lt_of_le hs (by decide)) (by simp only [asm]; omega) fun hform N hN E => ?_
  rw [raw_Atomic N E.1.1, decodeAtomic, E.1.2.2.2.2.2.1]
  simp only [zeros, fldReg, fin_ofNat, bv_ofNat, E.1, Hint.ofCode_code, AmZ.ofRelCode_relCode, Scope.ofCode_code, Option.bind_some, reduceIte]

theorem amoadd (d a b : Reg) (h : Hint) (z : AmZ) : Statement (.amoadd d a b h z) := by
  have hh := hint_lt h
  have hz := amZ_lt z
  refine of_19_14_9_7_6_5_3_2_0 rfl 30 d.val a.val b.val h.code 1 0 0 0 z.code (by decide) (d.isLt) (a.isLt) (b.isLt) (hh) (by decide) (by decide) (by decide) (by decide) (Nat.lt_of_lt_of_le hz (by decide)) (by simp only [asm]; omega) fun hform N hN E => ?_
  have s0 := (fld_fld N 5 2 30 (by decide)).trans (show _ = 2 from by rw [hN]; omega)
  have s1 := (fld_fld N 2 4 30 (by decide)).trans (show _ = 0 from by rw [hN]; omega)
  rw [raw_Atomic N E.1.1, decodeAtomic, s0]
  simp only [zeros, fldReg, fin_ofNat, bv_ofNat, E.1, s0, s1, Hint.ofCode_code, AmZ.ofCode_code, Option.bind_some, reduceIte]

theorem amoand (d a b : Reg) (h : Hint) (z : AmZ) : Statement (.amoand d a b h z) := by
  have hh := hint_lt h
  have hz := amZ_lt z
  refine of_19_14_9_7_6_5_3_2_0 rfl 30 d.val a.val b.val h.code 1 0 0 1 z.code (by decide) (d.isLt) (a.isLt) (b.isLt) (hh) (by decide) (by decide) (by decide) (by decide) (Nat.lt_of_lt_of_le hz (by decide)) (by simp only [asm]; omega) fun hform N hN E => ?_
  have s0 := (fld_fld N 5 2 30 (by decide)).trans (show _ = 2 from by rw [hN]; omega)
  have s1 := (fld_fld N 2 4 30 (by decide)).trans (show _ = 1 from by rw [hN]; omega)
  rw [raw_Atomic N E.1.1, decodeAtomic, s0]
  simp only [zeros, fldReg, fin_ofNat, bv_ofNat, E.1, s0, s1, Hint.ofCode_code, AmZ.ofCode_code, Option.bind_some, reduceIte]

theorem amoor (d a b : Reg) (h : Hint) (z : AmZ) : Statement (.amoor d a b h z) := by
  have hh := hint_lt h
  have hz := amZ_lt z
  refine of_19_14_9_7_6_5_3_2_0 rfl 30 d.val a.val b.val h.code 1 0 1 0 z.code (by decide) (d.isLt) (a.isLt) (b.isLt) (hh) (by decide) (by decide) (by decide) (by decide) (Nat.lt_of_lt_of_le hz (by decide)) (by simp only [asm]; omega) fun hform N hN E => ?_
  have s0 := (fld_fld N 5 2 30 (by decide)).trans (show _ = 2 from by rw [hN]; omega)
  have s1 := (fld_fld N 2 4 30 (by decide)).trans (show _ = 2 from by rw [hN]; omega)
  rw [raw_Atomic N E.1.1, decodeAtomic, s0]
  simp only [zeros, fldReg, fin_ofNat, bv_ofNat, E.1, s0, s1, Hint.ofCode_code, AmZ.ofCode_code, Option.bind_some, reduceIte]

theorem amoxor (d a b : Reg) (h : Hint) (z : AmZ) : Statement (.amoxor d a b h z) := by
  have hh := hint_lt h
  have hz := amZ_lt z
  refine of_19_14_9_7_6_5_3_2_0 rfl 30 d.val a.val b.val h.code 1 0 1 1 z.code (by decide) (d.isLt) (a.isLt) (b.isLt) (hh) (by decide) (by decide) (by decide) (by decide) (Nat.lt_of_lt_of_le hz (by decide)) (by simp only [asm]; omega) fun hform N hN E => ?_
  have s0 := (fld_fld N 5 2 30 (by decide)).trans (show _ = 2 from by rw [hN]; omega)
  have s1 := (fld_fld N 2 4 30 (by decide)).trans (show _ = 3 from by rw [hN]; omega)
  rw [raw_Atomic N E.1.1, decodeAtomic, s0]
  simp only [zeros, fldReg, fin_ofNat, bv_ofNat, E.1, s0, s1, Hint.ofCode_code, AmZ.ofCode_code, Option.bind_some, reduceIte]

theorem amomin (d a b : Reg) (h : Hint) (z : AmZ) : Statement (.amomin d a b h z) := by
  have hh := hint_lt h
  have hz := amZ_lt z
  refine of_19_14_9_7_6_5_3_2_0 rfl 30 d.val a.val b.val h.code 1 0 2 0 z.code (by decide) (d.isLt) (a.isLt) (b.isLt) (hh) (by decide) (by decide) (by decide) (by decide) (Nat.lt_of_lt_of_le hz (by decide)) (by simp only [asm]; omega) fun hform N hN E => ?_
  have s0 := (fld_fld N 5 2 30 (by decide)).trans (show _ = 2 from by rw [hN]; omega)
  have s1 := (fld_fld N 2 4 30 (by decide)).trans (show _ = 4 from by rw [hN]; omega)
  rw [raw_Atomic N E.1.1, decodeAtomic, s0]
  simp only [zeros, fldReg, fin_ofNat, bv_ofNat, E.1, s0, s1, Hint.ofCode_code, AmZ.ofCode_code, Option.bind_some, reduceIte]

theorem amomax (d a b : Reg) (h : Hint) (z : AmZ) : Statement (.amomax d a b h z) := by
  have hh := hint_lt h
  have hz := amZ_lt z
  refine of_19_14_9_7_6_5_3_2_0 rfl 30 d.val a.val b.val h.code 1 0 2 1 z.code (by decide) (d.isLt) (a.isLt) (b.isLt) (hh) (by decide) (by decide) (by decide) (by decide) (Nat.lt_of_lt_of_le hz (by decide)) (by simp only [asm]; omega) fun hform N hN E => ?_
  have s0 := (fld_fld N 5 2 30 (by decide)).trans (show _ = 2 from by rw [hN]; omega)
  have s1 := (fld_fld N 2 4 30 (by decide)).trans (show _ = 5 from by rw [hN]; omega)
  rw [raw_Atomic N E.1.1, decodeAtomic, s0]
  simp only [zeros, fldReg, fin_ofNat, bv_ofNat, E.1, s0, s1, Hint.ofCode_code, AmZ.ofCode_code, Option.bind_some, reduceIte]

theorem amominu (d a b : Reg) (h : Hint) (z : AmZ) : Statement (.amominu d a b h z) := by
  have hh := hint_lt h
  have hz := amZ_lt z
  refine of_19_14_9_7_6_5_3_2_0 rfl 30 d.val a.val b.val h.code 1 0 3 0 z.code (by decide) (d.isLt) (a.isLt) (b.isLt) (hh) (by decide) (by decide) (by decide) (by decide) (Nat.lt_of_lt_of_le hz (by decide)) (by simp only [asm]; omega) fun hform N hN E => ?_
  have s0 := (fld_fld N 5 2 30 (by decide)).trans (show _ = 2 from by rw [hN]; omega)
  have s1 := (fld_fld N 2 4 30 (by decide)).trans (show _ = 6 from by rw [hN]; omega)
  rw [raw_Atomic N E.1.1, decodeAtomic, s0]
  simp only [zeros, fldReg, fin_ofNat, bv_ofNat, E.1, s0, s1, Hint.ofCode_code, AmZ.ofCode_code, Option.bind_some, reduceIte]

theorem amomaxu (d a b : Reg) (h : Hint) (z : AmZ) : Statement (.amomaxu d a b h z) := by
  have hh := hint_lt h
  have hz := amZ_lt z
  refine of_19_14_9_7_6_5_3_2_0 rfl 30 d.val a.val b.val h.code 1 0 3 1 z.code (by decide) (d.isLt) (a.isLt) (b.isLt) (hh) (by decide) (by decide) (by decide) (by decide) (Nat.lt_of_lt_of_le hz (by decide)) (by simp only [asm]; omega) fun hform N hN E => ?_
  have s0 := (fld_fld N 5 2 30 (by decide)).trans (show _ = 2 from by rw [hN]; omega)
  have s1 := (fld_fld N 2 4 30 (by decide)).trans (show _ = 7 from by rw [hN]; omega)
  rw [raw_Atomic N E.1.1, decodeAtomic, s0]
  simp only [zeros, fldReg, fin_ofNat, bv_ofNat, E.1, s0, s1, Hint.ofCode_code, AmZ.ofCode_code, Option.bind_some, reduceIte]

theorem amoswap (d a b : Reg) (h : Hint) (z : AmZ) : Statement (.amoswap d a b h z) := by
  have hh := hint_lt h
  have hz := amZ_lt z
  refine of_19_14_9_7_6_5_3_2_0 rfl 30 d.val a.val b.val h.code 1 1 0 0 z.code (by decide) (d.isLt) (a.isLt) (b.isLt) (hh) (by decide) (by decide) (by decide) (by decide) (Nat.lt_of_lt_of_le hz (by decide)) (by simp only [asm]; omega) fun hform N hN E => ?_
  have s0 := (fld_fld N 5 2 30 (by decide)).trans (show _ = 3 from by rw [hN]; omega)
  have s1 := (fld_fld N 2 4 30 (by decide)).trans (show _ = 8 from by rw [hN]; omega)
  rw [raw_Atomic N E.1.1, decodeAtomic, s0]
  simp only [zeros, fldReg, fin_ofNat, bv_ofNat, E.1, s0, s1, Hint.ofCode_code, AmZ.ofCode_code, Option.bind_some, reduceIte]

theorem amocas (d a b : Reg) (h : Hint) (z : AmZ) : Statement (.amocas d a b h z) := by
  have hh := hint_lt h
  have hz := amZ_lt z
  refine of_19_14_9_7_6_5_3_2_0 rfl 30 d.val a.val b.val h.code 1 1 0 1 z.code (by decide) (d.isLt) (a.isLt) (b.isLt) (hh) (by decide) (by decide) (by decide) (by decide) (Nat.lt_of_lt_of_le hz (by decide)) (by simp only [asm]; omega) fun hform N hN E => ?_
  have s0 := (fld_fld N 5 2 30 (by decide)).trans (show _ = 3 from by rw [hN]; omega)
  have s1 := (fld_fld N 2 4 30 (by decide)).trans (show _ = 9 from by rw [hN]; omega)
  rw [raw_Atomic N E.1.1, decodeAtomic, s0]
  simp only [zeros, fldReg, fin_ofNat, bv_ofNat, E.1, s0, s1, Hint.ofCode_code, AmZ.ofCode_code, Option.bind_some, reduceIte]

theorem famoadd (d a b : Reg) (h : Hint) (z : FaZ) : Statement (.famoadd d a b h z) := by
  have hh := hint_lt h
  have hz := faZ_lt z
  refine of_19_14_9_7_6_5_3_2_0 rfl 30 d.val a.val b.val h.code 1 1 1 0 z.code (by decide) (d.isLt) (a.isLt) (b.isLt) (hh) (by decide) (by decide) (by decide) (by decide) (hz) (by simp only [asm]; omega) fun hform N hN E => ?_
  have s0 := (fld_fld N 5 2 30 (by decide)).trans (show _ = 3 from by rw [hN]; omega)
  have s1 := (fld_fld N 2 4 30 (by decide)).trans (show _ = 10 from by rw [hN]; omega)
  rw [raw_Atomic N E.1.1, decodeAtomic, s0]
  simp only [zeros, fldReg, fin_ofNat, bv_ofNat, E.1, s0, s1, Hint.ofCode_code, FaZ.ofCode_code, Option.bind_some, reduceIte]

theorem redAdd (a b : Reg) (h : Hint) (f : Fmt) : Statement (.redAdd a b h f) := by
  have hh := hint_lt h
  have hf := fmt_lt f
  refine of_19_14_9_7_4_0 rfl 31 0 a.val b.val h.code 0 f.code (by decide) (by decide) (a.isLt) (b.isLt) (hh) (by decide) (Nat.lt_of_lt_of_le hf (by decide)) (by simp only [asm]; omega) fun hform N hN E => ?_
  rw [raw_Reduce N E.1.1, decodeReduce, E.1.2.2.2.2.2.1]
  simp only [zeros, fldReg, fin_ofNat, bv_ofNat, E.1, Hint.ofCode_code, Fmt.ofCode_code, Option.bind_some, reduceIte]

theorem redMin (a b : Reg) (h : Hint) (f : Fmt) : Statement (.redMin a b h f) := by
  have hh := hint_lt h
  have hf := fmt_lt f
  refine of_19_14_9_7_4_0 rfl 31 0 a.val b.val h.code 1 f.code (by decide) (by decide) (a.isLt) (b.isLt) (hh) (by decide) (Nat.lt_of_lt_of_le hf (by decide)) (by simp only [asm]; omega) fun hform N hN E => ?_
  rw [raw_Reduce N E.1.1, decodeReduce, E.1.2.2.2.2.2.1]
  simp only [zeros, fldReg, fin_ofNat, bv_ofNat, E.1, Hint.ofCode_code, Fmt.ofCode_code, Option.bind_some, reduceIte]

theorem redMax (a b : Reg) (h : Hint) (f : Fmt) : Statement (.redMax a b h f) := by
  have hh := hint_lt h
  have hf := fmt_lt f
  refine of_19_14_9_7_4_0 rfl 31 0 a.val b.val h.code 2 f.code (by decide) (by decide) (a.isLt) (b.isLt) (hh) (by decide) (Nat.lt_of_lt_of_le hf (by decide)) (by simp only [asm]; omega) fun hform N hN E => ?_
  rw [raw_Reduce N E.1.1, decodeReduce, E.1.2.2.2.2.2.1]
  simp only [zeros, fldReg, fin_ofNat, bv_ofNat, E.1, Hint.ofCode_code, Fmt.ofCode_code, Option.bind_some, reduceIte]

theorem cwb (a b : Reg) (s : Scope) : Statement (.cwb a b s) := by
  have hs := scope_lt s
  refine of_19_14_9_7_4_3_0 rfl 31 0 a.val b.val 0 5 0 s.code (by decide) (by decide) (a.isLt) (b.isLt) (by decide) (by decide) (by decide) (Nat.lt_of_lt_of_le hs (by decide)) (by simp only [asm]; omega) fun hform N hN E => ?_
  rw [raw_Reduce N E.1.1, decodeReduce, E.1.2.2.2.2.2.1]
  simp only [zeros, fldReg, fin_ofNat, bv_ofNat, E.1, Scope.ofCode_code, Option.bind_some, reduceIte]

theorem cinv (a b : Reg) (s : Scope) : Statement (.cinv a b s) := by
  have hs := scope_lt s
  refine of_19_14_9_7_4_3_0 rfl 31 0 a.val b.val 0 6 0 s.code (by decide) (by decide) (a.isLt) (b.isLt) (by decide) (by decide) (by decide) (Nat.lt_of_lt_of_le hs (by decide)) (by simp only [asm]; omega) fun hform N hN E => ?_
  rw [raw_Reduce N E.1.1, decodeReduce, E.1.2.2.2.2.2.1]
  simp only [zeros, fldReg, fin_ofNat, bv_ofNat, E.1, Scope.ofCode_code, Option.bind_some, reduceIte]

theorem cwbinv (a b : Reg) (s : Scope) : Statement (.cwbinv a b s) := by
  have hs := scope_lt s
  refine of_19_14_9_7_4_3_0 rfl 31 0 a.val b.val 0 7 0 s.code (by decide) (by decide) (a.isLt) (b.isLt) (by decide) (by decide) (by decide) (Nat.lt_of_lt_of_le hs (by decide)) (by simp only [asm]; omega) fun hform N hN E => ?_
  rw [raw_Reduce N E.1.1, decodeReduce, E.1.2.2.2.2.2.1]
  simp only [zeros, fldReg, fin_ofNat, bv_ofNat, E.1, Scope.ofCode_code, Option.bind_some, reduceIte]

theorem vld (d a : Reg) (m : Mask) (h : Hint) (z : EW) : Statement (.vld d a m h z) := by
  have hh := hint_lt h
  have hz := eW_lt z
  refine of_19_14_9_6_4_2_0 rfl 32 d.val a.val 0 m.val h.code 0 z.code (by decide) (d.isLt) (a.isLt) (by decide) (m.isLt) (hh) (by decide) (hz) (by simp only [asm]; omega) fun hform N hN E => ?_
  rw [raw_VLoad N E.1.1, decodeVLoad, E.1.2.2.2.2.2.2.1]
  simp only [zeros, fldReg, fldM, fin_ofNat, bv_ofNat, E.1, Hint.ofCode_code, EW.ofCode_code, Option.bind_some, reduceIte]

theorem vlds (d a b : Reg) (m : Mask) (h : Hint) (z : EW) : Statement (.vlds d a b m h z) := by
  have hh := hint_lt h
  have hz := eW_lt z
  refine of_19_14_9_6_4_2_0 rfl 32 d.val a.val b.val m.val h.code 1 z.code (by decide) (d.isLt) (a.isLt) (b.isLt) (m.isLt) (hh) (by decide) (hz) (by simp only [asm]; omega) fun hform N hN E => ?_
  rw [raw_VLoad N E.1.1, decodeVLoad, E.1.2.2.2.2.2.2.1]
  simp only [zeros, fldReg, fldM, fin_ofNat, bv_ofNat, E.1, Hint.ofCode_code, EW.ofCode_code, Option.bind_some, reduceIte]

theorem vldx (d a b : Reg) (m : Mask) (h : Hint) (z : EW) : Statement (.vldx d a b m h z) := by
  have hh := hint_lt h
  have hz := eW_lt z
  refine of_19_14_9_6_4_2_0 rfl 32 d.val a.val b.val m.val h.code 2 z.code (by decide) (d.isLt) (a.isLt) (b.isLt) (m.isLt) (hh) (by decide) (hz) (by simp only [asm]; omega) fun hform N hN E => ?_
  rw [raw_VLoad N E.1.1, decodeVLoad, E.1.2.2.2.2.2.2.1]
  simp only [zeros, fldReg, fldM, fin_ofNat, bv_ofNat, E.1, Hint.ofCode_code, EW.ofCode_code, Option.bind_some, reduceIte]

theorem vldl (d a : Reg) (m : Mask) (h : Hint) (z : EW) : Statement (.vldl d a m h z) := by
  have hh := hint_lt h
  have hz := eW_lt z
  refine of_19_14_9_6_4_2_0 rfl 32 d.val a.val 0 m.val h.code 3 z.code (by decide) (d.isLt) (a.isLt) (by decide) (m.isLt) (hh) (by decide) (hz) (by simp only [asm]; omega) fun hform N hN E => ?_
  rw [raw_VLoad N E.1.1, decodeVLoad, E.1.2.2.2.2.2.2.1]
  simp only [zeros, fldReg, fldM, fin_ofNat, bv_ofNat, E.1, Hint.ofCode_code, EW.ofCode_code, Option.bind_some, reduceIte]

theorem vst (d a : Reg) (m : Mask) (h : Hint) (z : EW) : Statement (.vst d a m h z) := by
  have hh := hint_lt h
  have hz := eW_lt z
  refine of_19_14_9_6_4_2_0 rfl 33 d.val a.val 0 m.val h.code 0 z.code (by decide) (d.isLt) (a.isLt) (by decide) (m.isLt) (hh) (by decide) (hz) (by simp only [asm]; omega) fun hform N hN E => ?_
  rw [raw_VStore N E.1.1, decodeVStore, E.1.2.2.2.2.2.2.1]
  simp only [zeros, fldReg, fldM, fin_ofNat, bv_ofNat, E.1, Hint.ofCode_code, EW.ofCode_code, Option.bind_some, reduceIte]

theorem vsts (d a b : Reg) (m : Mask) (h : Hint) (z : EW) : Statement (.vsts d a b m h z) := by
  have hh := hint_lt h
  have hz := eW_lt z
  refine of_19_14_9_6_4_2_0 rfl 33 d.val a.val b.val m.val h.code 1 z.code (by decide) (d.isLt) (a.isLt) (b.isLt) (m.isLt) (hh) (by decide) (hz) (by simp only [asm]; omega) fun hform N hN E => ?_
  rw [raw_VStore N E.1.1, decodeVStore, E.1.2.2.2.2.2.2.1]
  simp only [zeros, fldReg, fldM, fin_ofNat, bv_ofNat, E.1, Hint.ofCode_code, EW.ofCode_code, Option.bind_some, reduceIte]

theorem vstx (d a b : Reg) (m : Mask) (h : Hint) (z : EW) : Statement (.vstx d a b m h z) := by
  have hh := hint_lt h
  have hz := eW_lt z
  refine of_19_14_9_6_4_2_0 rfl 33 d.val a.val b.val m.val h.code 2 z.code (by decide) (d.isLt) (a.isLt) (b.isLt) (m.isLt) (hh) (by decide) (hz) (by simp only [asm]; omega) fun hform N hN E => ?_
  rw [raw_VStore N E.1.1, decodeVStore, E.1.2.2.2.2.2.2.1]
  simp only [zeros, fldReg, fldM, fin_ofNat, bv_ofNat, E.1, Hint.ofCode_code, EW.ofCode_code, Option.bind_some, reduceIte]

theorem vstl (d a : Reg) (m : Mask) (h : Hint) (z : EW) : Statement (.vstl d a m h z) := by
  have hh := hint_lt h
  have hz := eW_lt z
  refine of_19_14_9_6_4_2_0 rfl 33 d.val a.val 0 m.val h.code 3 z.code (by decide) (d.isLt) (a.isLt) (by decide) (m.isLt) (hh) (by decide) (hz) (by simp only [asm]; omega) fun hform N hN E => ?_
  rw [raw_VStore N E.1.1, decodeVStore, E.1.2.2.2.2.2.2.1]
  simp only [zeros, fldReg, fldM, fin_ofNat, bv_ofNat, E.1, Hint.ofCode_code, EW.ofCode_code, Option.bind_some, reduceIte]

theorem vadd (d a b : Reg) (m : Mask) (t : IT) : Statement (.vadd d a b m t) := by
  have ht := iT_lt t
  refine of_19_14_9_6_3_0 rfl 34 d.val a.val b.val m.val 0 t.code (by decide) (d.isLt) (a.isLt) (b.isLt) (m.isLt) (by decide) (ht) (by simp only [asm]; omega) fun hform N hN E => ?_
  rw [raw_VInt N E.1.1, decodeVInt, E.1.2.2.2.2.2.1]
  simp only [fldReg, fldM, fin_ofNat, bv_ofNat, E.1, IT.ofCode_code, Option.bind_some, reduceIte]

theorem vsub (d a b : Reg) (m : Mask) (t : IT) : Statement (.vsub d a b m t) := by
  have ht := iT_lt t
  refine of_19_14_9_6_3_0 rfl 34 d.val a.val b.val m.val 1 t.code (by decide) (d.isLt) (a.isLt) (b.isLt) (m.isLt) (by decide) (ht) (by simp only [asm]; omega) fun hform N hN E => ?_
  rw [raw_VInt N E.1.1, decodeVInt, E.1.2.2.2.2.2.1]
  simp only [fldReg, fldM, fin_ofNat, bv_ofNat, E.1, IT.ofCode_code, Option.bind_some, reduceIte]

theorem vmul (d a b : Reg) (m : Mask) (t : IT) : Statement (.vmul d a b m t) := by
  have ht := iT_lt t
  refine of_19_14_9_6_3_0 rfl 34 d.val a.val b.val m.val 2 t.code (by decide) (d.isLt) (a.isLt) (b.isLt) (m.isLt) (by decide) (ht) (by simp only [asm]; omega) fun hform N hN E => ?_
  rw [raw_VInt N E.1.1, decodeVInt, E.1.2.2.2.2.2.1]
  simp only [fldReg, fldM, fin_ofNat, bv_ofNat, E.1, IT.ofCode_code, Option.bind_some, reduceIte]

theorem vmulh (d a b : Reg) (m : Mask) (t : IT) : Statement (.vmulh d a b m t) := by
  have ht := iT_lt t
  refine of_19_14_9_6_3_0 rfl 34 d.val a.val b.val m.val 3 t.code (by decide) (d.isLt) (a.isLt) (b.isLt) (m.isLt) (by decide) (ht) (by simp only [asm]; omega) fun hform N hN E => ?_
  rw [raw_VInt N E.1.1, decodeVInt, E.1.2.2.2.2.2.1]
  simp only [fldReg, fldM, fin_ofNat, bv_ofNat, E.1, IT.ofCode_code, Option.bind_some, reduceIte]

theorem vmin (d a b : Reg) (m : Mask) (t : IT) : Statement (.vmin d a b m t) := by
  have ht := iT_lt t
  refine of_19_14_9_6_3_0 rfl 34 d.val a.val b.val m.val 4 t.code (by decide) (d.isLt) (a.isLt) (b.isLt) (m.isLt) (by decide) (ht) (by simp only [asm]; omega) fun hform N hN E => ?_
  rw [raw_VInt N E.1.1, decodeVInt, E.1.2.2.2.2.2.1]
  simp only [fldReg, fldM, fin_ofNat, bv_ofNat, E.1, IT.ofCode_code, Option.bind_some, reduceIte]

theorem vmax (d a b : Reg) (m : Mask) (t : IT) : Statement (.vmax d a b m t) := by
  have ht := iT_lt t
  refine of_19_14_9_6_3_0 rfl 34 d.val a.val b.val m.val 5 t.code (by decide) (d.isLt) (a.isLt) (b.isLt) (m.isLt) (by decide) (ht) (by simp only [asm]; omega) fun hform N hN E => ?_
  rw [raw_VInt N E.1.1, decodeVInt, E.1.2.2.2.2.2.1]
  simp only [fldReg, fldM, fin_ofNat, bv_ofNat, E.1, IT.ofCode_code, Option.bind_some, reduceIte]

theorem vadds (d a b : Reg) (m : Mask) (t : IT) : Statement (.vadds d a b m t) := by
  have ht := iT_lt t
  refine of_19_14_9_6_3_0 rfl 34 d.val a.val b.val m.val 6 t.code (by decide) (d.isLt) (a.isLt) (b.isLt) (m.isLt) (by decide) (ht) (by simp only [asm]; omega) fun hform N hN E => ?_
  rw [raw_VInt N E.1.1, decodeVInt, E.1.2.2.2.2.2.1]
  simp only [fldReg, fldM, fin_ofNat, bv_ofNat, E.1, IT.ofCode_code, Option.bind_some, reduceIte]

theorem vsubs (d a b : Reg) (m : Mask) (t : IT) : Statement (.vsubs d a b m t) := by
  have ht := iT_lt t
  refine of_19_14_9_6_3_0 rfl 34 d.val a.val b.val m.val 7 t.code (by decide) (d.isLt) (a.isLt) (b.isLt) (m.isLt) (by decide) (ht) (by simp only [asm]; omega) fun hform N hN E => ?_
  rw [raw_VInt N E.1.1, decodeVInt, E.1.2.2.2.2.2.1]
  simp only [fldReg, fldM, fin_ofNat, bv_ofNat, E.1, IT.ofCode_code, Option.bind_some, reduceIte]

theorem vand (d a b : Reg) (m : Mask) (t : IT) : Statement (.vand d a b m t) := by
  have ht := iT_lt t
  refine of_19_14_9_6_3_0 rfl 35 d.val a.val b.val m.val 0 t.code (by decide) (d.isLt) (a.isLt) (b.isLt) (m.isLt) (by decide) (ht) (by simp only [asm]; omega) fun hform N hN E => ?_
  rw [raw_VLogic N E.1.1, decodeVLogic, E.1.2.2.2.2.2.1]
  simp only [fldReg, fldM, fin_ofNat, bv_ofNat, E.1, IT.ofCode_code, Option.bind_some, reduceIte]

theorem vor (d a b : Reg) (m : Mask) (t : IT) : Statement (.vor d a b m t) := by
  have ht := iT_lt t
  refine of_19_14_9_6_3_0 rfl 35 d.val a.val b.val m.val 1 t.code (by decide) (d.isLt) (a.isLt) (b.isLt) (m.isLt) (by decide) (ht) (by simp only [asm]; omega) fun hform N hN E => ?_
  rw [raw_VLogic N E.1.1, decodeVLogic, E.1.2.2.2.2.2.1]
  simp only [fldReg, fldM, fin_ofNat, bv_ofNat, E.1, IT.ofCode_code, Option.bind_some, reduceIte]

theorem vxor (d a b : Reg) (m : Mask) (t : IT) : Statement (.vxor d a b m t) := by
  have ht := iT_lt t
  refine of_19_14_9_6_3_0 rfl 35 d.val a.val b.val m.val 2 t.code (by decide) (d.isLt) (a.isLt) (b.isLt) (m.isLt) (by decide) (ht) (by simp only [asm]; omega) fun hform N hN E => ?_
  rw [raw_VLogic N E.1.1, decodeVLogic, E.1.2.2.2.2.2.1]
  simp only [fldReg, fldM, fin_ofNat, bv_ofNat, E.1, IT.ofCode_code, Option.bind_some, reduceIte]

theorem vsll (d a b : Reg) (m : Mask) (t : IT) : Statement (.vsll d a b m t) := by
  have ht := iT_lt t
  refine of_19_14_9_6_3_0 rfl 35 d.val a.val b.val m.val 3 t.code (by decide) (d.isLt) (a.isLt) (b.isLt) (m.isLt) (by decide) (ht) (by simp only [asm]; omega) fun hform N hN E => ?_
  rw [raw_VLogic N E.1.1, decodeVLogic, E.1.2.2.2.2.2.1]
  simp only [fldReg, fldM, fin_ofNat, bv_ofNat, E.1, IT.ofCode_code, Option.bind_some, reduceIte]

theorem vsr (d a b : Reg) (m : Mask) (t : IT) : Statement (.vsr d a b m t) := by
  have ht := iT_lt t
  refine of_19_14_9_6_3_0 rfl 35 d.val a.val b.val m.val 4 t.code (by decide) (d.isLt) (a.isLt) (b.isLt) (m.isLt) (by decide) (ht) (by simp only [asm]; omega) fun hform N hN E => ?_
  rw [raw_VLogic N E.1.1, decodeVLogic, E.1.2.2.2.2.2.1]
  simp only [fldReg, fldM, fin_ofNat, bv_ofNat, E.1, IT.ofCode_code, Option.bind_some, reduceIte]

theorem vdiv (d a b : Reg) (m : Mask) (t : IT) : Statement (.vdiv d a b m t) := by
  have ht := iT_lt t
  refine of_19_14_9_6_3_0 rfl 35 d.val a.val b.val m.val 5 t.code (by decide) (d.isLt) (a.isLt) (b.isLt) (m.isLt) (by decide) (ht) (by simp only [asm]; omega) fun hform N hN E => ?_
  rw [raw_VLogic N E.1.1, decodeVLogic, E.1.2.2.2.2.2.1]
  simp only [fldReg, fldM, fin_ofNat, bv_ofNat, E.1, IT.ofCode_code, Option.bind_some, reduceIte]

theorem vrem (d a b : Reg) (m : Mask) (t : IT) : Statement (.vrem d a b m t) := by
  have ht := iT_lt t
  refine of_19_14_9_6_3_0 rfl 35 d.val a.val b.val m.val 6 t.code (by decide) (d.isLt) (a.isLt) (b.isLt) (m.isLt) (by decide) (ht) (by simp only [asm]; omega) fun hform N hN E => ?_
  rw [raw_VLogic N E.1.1, decodeVLogic, E.1.2.2.2.2.2.1]
  simp only [fldReg, fldM, fin_ofNat, bv_ofNat, E.1, IT.ofCode_code, Option.bind_some, reduceIte]

theorem vceq (d a b : Reg) (m : Mask) (t : IT) : Statement (.vceq d a b m t) := by
  have ht := iT_lt t
  refine of_19_14_9_6_3_0 rfl 47 d.val a.val b.val m.val 0 t.code (by decide) (d.isLt) (a.isLt) (b.isLt) (m.isLt) (by decide) (ht) (by simp only [asm]; omega) fun hform N hN E => ?_
  rw [raw_VCmp N E.1.1, decodeVCmp, E.1.2.2.2.2.2.1]
  simp only [fldReg, fldM, fin_ofNat, bv_ofNat, E.1, IT.ofCode_code, Option.bind_some, reduceIte]

theorem vcne (d a b : Reg) (m : Mask) (t : IT) : Statement (.vcne d a b m t) := by
  have ht := iT_lt t
  refine of_19_14_9_6_3_0 rfl 47 d.val a.val b.val m.val 1 t.code (by decide) (d.isLt) (a.isLt) (b.isLt) (m.isLt) (by decide) (ht) (by simp only [asm]; omega) fun hform N hN E => ?_
  rw [raw_VCmp N E.1.1, decodeVCmp, E.1.2.2.2.2.2.1]
  simp only [fldReg, fldM, fin_ofNat, bv_ofNat, E.1, IT.ofCode_code, Option.bind_some, reduceIte]

theorem vclt (d a b : Reg) (m : Mask) (t : IT) : Statement (.vclt d a b m t) := by
  have ht := iT_lt t
  refine of_19_14_9_6_3_0 rfl 47 d.val a.val b.val m.val 2 t.code (by decide) (d.isLt) (a.isLt) (b.isLt) (m.isLt) (by decide) (ht) (by simp only [asm]; omega) fun hform N hN E => ?_
  rw [raw_VCmp N E.1.1, decodeVCmp, E.1.2.2.2.2.2.1]
  simp only [fldReg, fldM, fin_ofNat, bv_ofNat, E.1, IT.ofCode_code, Option.bind_some, reduceIte]

theorem vcge (d a b : Reg) (m : Mask) (t : IT) : Statement (.vcge d a b m t) := by
  have ht := iT_lt t
  refine of_19_14_9_6_3_0 rfl 47 d.val a.val b.val m.val 3 t.code (by decide) (d.isLt) (a.isLt) (b.isLt) (m.isLt) (by decide) (ht) (by simp only [asm]; omega) fun hform N hN E => ?_
  rw [raw_VCmp N E.1.1, decodeVCmp, E.1.2.2.2.2.2.1]
  simp only [fldReg, fldM, fin_ofNat, bv_ofNat, E.1, IT.ofCode_code, Option.bind_some, reduceIte]

theorem vcle (d a b : Reg) (m : Mask) (t : IT) : Statement (.vcle d a b m t) := by
  have ht := iT_lt t
  refine of_19_14_9_6_3_0 rfl 47 d.val a.val b.val m.val 4 t.code (by decide) (d.isLt) (a.isLt) (b.isLt) (m.isLt) (by decide) (ht) (by simp only [asm]; omega) fun hform N hN E => ?_
  rw [raw_VCmp N E.1.1, decodeVCmp, E.1.2.2.2.2.2.1]
  simp only [fldReg, fldM, fin_ofNat, bv_ofNat, E.1, IT.ofCode_code, Option.bind_some, reduceIte]

theorem vcgt (d a b : Reg) (m : Mask) (t : IT) : Statement (.vcgt d a b m t) := by
  have ht := iT_lt t
  refine of_19_14_9_6_3_0 rfl 47 d.val a.val b.val m.val 5 t.code (by decide) (d.isLt) (a.isLt) (b.isLt) (m.isLt) (by decide) (ht) (by simp only [asm]; omega) fun hform N hN E => ?_
  rw [raw_VCmp N E.1.1, decodeVCmp, E.1.2.2.2.2.2.1]
  simp only [fldReg, fldM, fin_ofNat, bv_ofNat, E.1, IT.ofCode_code, Option.bind_some, reduceIte]

theorem vfadd (t : FT) (d a b : Reg) (m : Mask) (r : RM) : Statement (.vfadd t d a b m r) := by
  have ht := fT_lt t
  have hr := rM_lt r
  refine of_19_14_9_6_3_0 rfl (t.code + 36) d.val a.val b.val m.val r.code 0 (by omega) (d.isLt) (a.isLt) (b.isLt) (m.isLt) (hr) (by decide) (by simp only [asm]; omega) fun hform N hN E => ?_
  have s0 := (fld_fld N 24 2 30 (by decide)).trans (show _ = t.code from by rw [hN]; omega)
  rw [decodeRaw_vfp N t (E.1.1.trans (Nat.add_comm _ _)), decodeVFp, E.1.2.2.2.2.2.2]
  simp only [zeros, fldReg, fldM, fin_ofNat, bv_ofNat, E.1, s0, FT.ofCode_code, RM.ofCode_code, Option.bind_some, reduceIte]

theorem vfsub (t : FT) (d a b : Reg) (m : Mask) (r : RM) : Statement (.vfsub t d a b m r) := by
  have ht := fT_lt t
  have hr := rM_lt r
  refine of_19_14_9_6_3_0 rfl (t.code + 36) d.val a.val b.val m.val r.code 1 (by omega) (d.isLt) (a.isLt) (b.isLt) (m.isLt) (hr) (by decide) (by simp only [asm]; omega) fun hform N hN E => ?_
  have s0 := (fld_fld N 24 2 30 (by decide)).trans (show _ = t.code from by rw [hN]; omega)
  rw [decodeRaw_vfp N t (E.1.1.trans (Nat.add_comm _ _)), decodeVFp, E.1.2.2.2.2.2.2]
  simp only [zeros, fldReg, fldM, fin_ofNat, bv_ofNat, E.1, s0, FT.ofCode_code, RM.ofCode_code, Option.bind_some, reduceIte]

theorem vfmul (t : FT) (d a b : Reg) (m : Mask) (r : RM) : Statement (.vfmul t d a b m r) := by
  have ht := fT_lt t
  have hr := rM_lt r
  refine of_19_14_9_6_3_0 rfl (t.code + 36) d.val a.val b.val m.val r.code 2 (by omega) (d.isLt) (a.isLt) (b.isLt) (m.isLt) (hr) (by decide) (by simp only [asm]; omega) fun hform N hN E => ?_
  have s0 := (fld_fld N 24 2 30 (by decide)).trans (show _ = t.code from by rw [hN]; omega)
  rw [decodeRaw_vfp N t (E.1.1.trans (Nat.add_comm _ _)), decodeVFp, E.1.2.2.2.2.2.2]
  simp only [zeros, fldReg, fldM, fin_ofNat, bv_ofNat, E.1, s0, FT.ofCode_code, RM.ofCode_code, Option.bind_some, reduceIte]

theorem vfdiv (t : FT) (d a b : Reg) (m : Mask) (r : RM) : Statement (.vfdiv t d a b m r) := by
  have ht := fT_lt t
  have hr := rM_lt r
  refine of_19_14_9_6_3_0 rfl (t.code + 36) d.val a.val b.val m.val r.code 3 (by omega) (d.isLt) (a.isLt) (b.isLt) (m.isLt) (hr) (by decide) (by simp only [asm]; omega) fun hform N hN E => ?_
  have s0 := (fld_fld N 24 2 30 (by decide)).trans (show _ = t.code from by rw [hN]; omega)
  rw [decodeRaw_vfp N t (E.1.1.trans (Nat.add_comm _ _)), decodeVFp, E.1.2.2.2.2.2.2]
  simp only [zeros, fldReg, fldM, fin_ofNat, bv_ofNat, E.1, s0, FT.ofCode_code, RM.ofCode_code, Option.bind_some, reduceIte]

theorem vfma (t : FT) (d a b : Reg) (m : Mask) (r : RM) : Statement (.vfma t d a b m r) := by
  have ht := fT_lt t
  have hr := rM_lt r
  refine of_19_14_9_6_3_0 rfl (t.code + 36) d.val a.val b.val m.val r.code 4 (by omega) (d.isLt) (a.isLt) (b.isLt) (m.isLt) (hr) (by decide) (by simp only [asm]; omega) fun hform N hN E => ?_
  have s0 := (fld_fld N 24 2 30 (by decide)).trans (show _ = t.code from by rw [hN]; omega)
  rw [decodeRaw_vfp N t (E.1.1.trans (Nat.add_comm _ _)), decodeVFp, E.1.2.2.2.2.2.2]
  simp only [zeros, fldReg, fldM, fin_ofNat, bv_ofNat, E.1, s0, FT.ofCode_code, RM.ofCode_code, Option.bind_some, reduceIte]

theorem vfms (t : FT) (d a b : Reg) (m : Mask) (r : RM) : Statement (.vfms t d a b m r) := by
  have ht := fT_lt t
  have hr := rM_lt r
  refine of_19_14_9_6_3_0 rfl (t.code + 36) d.val a.val b.val m.val r.code 5 (by omega) (d.isLt) (a.isLt) (b.isLt) (m.isLt) (hr) (by decide) (by simp only [asm]; omega) fun hform N hN E => ?_
  have s0 := (fld_fld N 24 2 30 (by decide)).trans (show _ = t.code from by rw [hN]; omega)
  rw [decodeRaw_vfp N t (E.1.1.trans (Nat.add_comm _ _)), decodeVFp, E.1.2.2.2.2.2.2]
  simp only [zeros, fldReg, fldM, fin_ofNat, bv_ofNat, E.1, s0, FT.ofCode_code, RM.ofCode_code, Option.bind_some, reduceIte]

theorem vfnma (t : FT) (d a b : Reg) (m : Mask) (r : RM) : Statement (.vfnma t d a b m r) := by
  have ht := fT_lt t
  have hr := rM_lt r
  refine of_19_14_9_6_3_0 rfl (t.code + 36) d.val a.val b.val m.val r.code 6 (by omega) (d.isLt) (a.isLt) (b.isLt) (m.isLt) (hr) (by decide) (by simp only [asm]; omega) fun hform N hN E => ?_
  have s0 := (fld_fld N 24 2 30 (by decide)).trans (show _ = t.code from by rw [hN]; omega)
  rw [decodeRaw_vfp N t (E.1.1.trans (Nat.add_comm _ _)), decodeVFp, E.1.2.2.2.2.2.2]
  simp only [zeros, fldReg, fldM, fin_ofNat, bv_ofNat, E.1, s0, FT.ofCode_code, RM.ofCode_code, Option.bind_some, reduceIte]

theorem vfmin (t : FT) (d a b : Reg) (m : Mask) : Statement (.vfmin t d a b m) := by
  have ht := fT_lt t
  refine of_19_14_9_6_3_0 rfl (t.code + 36) d.val a.val b.val m.val 0 7 (by omega) (d.isLt) (a.isLt) (b.isLt) (m.isLt) (by decide) (by decide) (by simp only [asm]; omega) fun hform N hN E => ?_
  have s0 := (fld_fld N 24 2 30 (by decide)).trans (show _ = t.code from by rw [hN]; omega)
  rw [decodeRaw_vfp N t (E.1.1.trans (Nat.add_comm _ _)), decodeVFp, E.1.2.2.2.2.2.2]
  simp only [zeros, fldReg, fldM, fin_ofNat, bv_ofNat, E.1, s0, FT.ofCode_code, Option.bind_some, reduceIte]

theorem vfmax (t : FT) (d a b : Reg) (m : Mask) : Statement (.vfmax t d a b m) := by
  have ht := fT_lt t
  refine of_19_14_9_6_3_0 rfl (t.code + 36) d.val a.val b.val m.val 1 7 (by omega) (d.isLt) (a.isLt) (b.isLt) (m.isLt) (by decide) (by decide) (by simp only [asm]; omega) fun hform N hN E => ?_
  have s0 := (fld_fld N 24 2 30 (by decide)).trans (show _ = t.code from by rw [hN]; omega)
  rw [decodeRaw_vfp N t (E.1.1.trans (Nat.add_comm _ _)), decodeVFp, E.1.2.2.2.2.2.2]
  simp only [zeros, fldReg, fldM, fin_ofNat, bv_ofNat, E.1, s0, FT.ofCode_code, Option.bind_some, reduceIte]

theorem vfeq (t : FT) (d a b : Reg) (m : Mask) : Statement (.vfeq t d a b m) := by
  have ht := fT_lt t
  refine of_19_14_9_6_3_0 rfl (t.code + 36) d.val a.val b.val m.val 2 7 (by omega) (d.isLt) (a.isLt) (b.isLt) (m.isLt) (by decide) (by decide) (by simp only [asm]; omega) fun hform N hN E => ?_
  have s0 := (fld_fld N 24 2 30 (by decide)).trans (show _ = t.code from by rw [hN]; omega)
  rw [decodeRaw_vfp N t (E.1.1.trans (Nat.add_comm _ _)), decodeVFp, E.1.2.2.2.2.2.2]
  simp only [zeros, fldReg, fldM, fin_ofNat, bv_ofNat, E.1, s0, FT.ofCode_code, Option.bind_some, reduceIte]

theorem vflt (t : FT) (d a b : Reg) (m : Mask) : Statement (.vflt t d a b m) := by
  have ht := fT_lt t
  refine of_19_14_9_6_3_0 rfl (t.code + 36) d.val a.val b.val m.val 3 7 (by omega) (d.isLt) (a.isLt) (b.isLt) (m.isLt) (by decide) (by decide) (by simp only [asm]; omega) fun hform N hN E => ?_
  have s0 := (fld_fld N 24 2 30 (by decide)).trans (show _ = t.code from by rw [hN]; omega)
  rw [decodeRaw_vfp N t (E.1.1.trans (Nat.add_comm _ _)), decodeVFp, E.1.2.2.2.2.2.2]
  simp only [zeros, fldReg, fldM, fin_ofNat, bv_ofNat, E.1, s0, FT.ofCode_code, Option.bind_some, reduceIte]

theorem vfle (t : FT) (d a b : Reg) (m : Mask) : Statement (.vfle t d a b m) := by
  have ht := fT_lt t
  refine of_19_14_9_6_3_0 rfl (t.code + 36) d.val a.val b.val m.val 4 7 (by omega) (d.isLt) (a.isLt) (b.isLt) (m.isLt) (by decide) (by decide) (by simp only [asm]; omega) fun hform N hN E => ?_
  have s0 := (fld_fld N 24 2 30 (by decide)).trans (show _ = t.code from by rw [hN]; omega)
  rw [decodeRaw_vfp N t (E.1.1.trans (Nat.add_comm _ _)), decodeVFp, E.1.2.2.2.2.2.2]
  simp only [zeros, fldReg, fldM, fin_ofNat, bv_ofNat, E.1, s0, FT.ofCode_code, Option.bind_some, reduceIte]

theorem vfun (t : FT) (d a b : Reg) (m : Mask) : Statement (.vfun t d a b m) := by
  have ht := fT_lt t
  refine of_19_14_9_6_3_0 rfl (t.code + 36) d.val a.val b.val m.val 5 7 (by omega) (d.isLt) (a.isLt) (b.isLt) (m.isLt) (by decide) (by decide) (by simp only [asm]; omega) fun hform N hN E => ?_
  have s0 := (fld_fld N 24 2 30 (by decide)).trans (show _ = t.code from by rw [hN]; omega)
  rw [decodeRaw_vfp N t (E.1.1.trans (Nat.add_comm _ _)), decodeVFp, E.1.2.2.2.2.2.2]
  simp only [zeros, fldReg, fldM, fin_ofNat, bv_ofNat, E.1, s0, FT.ofCode_code, Option.bind_some, reduceIte]

theorem vfabs (t : FT) (d a : Reg) (m : Mask) : Statement (.vfabs t d a m) := by
  have ht := fT_lt t
  refine of_19_14_9_6_3_0 rfl (t.code + 36) d.val a.val 0 m.val 6 7 (by omega) (d.isLt) (a.isLt) (by decide) (m.isLt) (by decide) (by decide) (by simp only [asm]; omega) fun hform N hN E => ?_
  have s0 := (fld_fld N 24 2 30 (by decide)).trans (show _ = t.code from by rw [hN]; omega)
  rw [decodeRaw_vfp N t (E.1.1.trans (Nat.add_comm _ _)), decodeVFp, E.1.2.2.2.2.2.2]
  simp only [zeros, fldReg, fldM, fin_ofNat, bv_ofNat, E.1, s0, FT.ofCode_code, Option.bind_some, reduceIte]

theorem vfneg (t : FT) (d a : Reg) (m : Mask) : Statement (.vfneg t d a m) := by
  have ht := fT_lt t
  refine of_19_14_9_6_3_0 rfl (t.code + 36) d.val a.val 0 m.val 7 7 (by omega) (d.isLt) (a.isLt) (by decide) (m.isLt) (by decide) (by decide) (by simp only [asm]; omega) fun hform N hN E => ?_
  have s0 := (fld_fld N 24 2 30 (by decide)).trans (show _ = t.code from by rw [hN]; omega)
  rw [decodeRaw_vfp N t (E.1.1.trans (Nat.add_comm _ _)), decodeVFp, E.1.2.2.2.2.2.2]
  simp only [zeros, fldReg, fldM, fin_ofNat, bv_ofNat, E.1, s0, FT.ofCode_code, Option.bind_some, reduceIte]

theorem vfsqrt (d a : Reg) (m : Mask) (r : RM) (t : FT) : Statement (.vfsqrt d a m r t) := by
  have hr := rM_lt r
  have ht := fT_lt t
  refine of_19_14_9_6_3_0 rfl 40 d.val a.val 0 m.val r.code t.code (by decide) (d.isLt) (a.isLt) (by decide) (m.isLt) (hr) (Nat.lt_of_lt_of_le ht (by decide)) (by simp only [asm]; omega) fun hform N hN E => ?_
  rw [raw_VFun N E.1.1, decodeVFun, E.1.2.2.2.1]
  simp only [fldReg, fldM, fin_ofNat, bv_ofNat, E.1, RM.ofCode_code, FT.ofCode_code, Option.bind_some, reduceIte]

theorem vfrcp (d a : Reg) (m : Mask) (r : RM) (t : FT) : Statement (.vfrcp d a m r t) := by
  have hr := rM_lt r
  have ht := fT_lt t
  refine of_19_14_9_6_3_0 rfl 40 d.val a.val 1 m.val r.code t.code (by decide) (d.isLt) (a.isLt) (by decide) (m.isLt) (hr) (Nat.lt_of_lt_of_le ht (by decide)) (by simp only [asm]; omega) fun hform N hN E => ?_
  rw [raw_VFun N E.1.1, decodeVFun, E.1.2.2.2.1]
  simp only [fldReg, fldM, fin_ofNat, bv_ofNat, E.1, RM.ofCode_code, FT.ofCode_code, Option.bind_some, reduceIte]

theorem vfrsqrt (d a : Reg) (m : Mask) (r : RM) (t : FT) : Statement (.vfrsqrt d a m r t) := by
  have hr := rM_lt r
  have ht := fT_lt t
  refine of_19_14_9_6_3_0 rfl 40 d.val a.val 2 m.val r.code t.code (by decide) (d.isLt) (a.isLt) (by decide) (m.isLt) (hr) (Nat.lt_of_lt_of_le ht (by decide)) (by simp only [asm]; omega) fun hform N hN E => ?_
  rw [raw_VFun N E.1.1, decodeVFun, E.1.2.2.2.1]
  simp only [fldReg, fldM, fin_ofNat, bv_ofNat, E.1, RM.ofCode_code, FT.ofCode_code, Option.bind_some, reduceIte]

theorem vfexp2 (d a : Reg) (m : Mask) (r : RM) (t : FT) : Statement (.vfexp2 d a m r t) := by
  have hr := rM_lt r
  have ht := fT_lt t
  refine of_19_14_9_6_3_0 rfl 40 d.val a.val 3 m.val r.code t.code (by decide) (d.isLt) (a.isLt) (by decide) (m.isLt) (hr) (Nat.lt_of_lt_of_le ht (by decide)) (by simp only [asm]; omega) fun hform N hN E => ?_
  rw [raw_VFun N E.1.1, decodeVFun, E.1.2.2.2.1]
  simp only [fldReg, fldM, fin_ofNat, bv_ofNat, E.1, RM.ofCode_code, FT.ofCode_code, Option.bind_some, reduceIte]

theorem vflog2 (d a : Reg) (m : Mask) (r : RM) (t : FT) : Statement (.vflog2 d a m r t) := by
  have hr := rM_lt r
  have ht := fT_lt t
  refine of_19_14_9_6_3_0 rfl 40 d.val a.val 4 m.val r.code t.code (by decide) (d.isLt) (a.isLt) (by decide) (m.isLt) (hr) (Nat.lt_of_lt_of_le ht (by decide)) (by simp only [asm]; omega) fun hform N hN E => ?_
  rw [raw_VFun N E.1.1, decodeVFun, E.1.2.2.2.1]
  simp only [fldReg, fldM, fin_ofNat, bv_ofNat, E.1, RM.ofCode_code, FT.ofCode_code, Option.bind_some, reduceIte]

theorem vfexp (d a : Reg) (m : Mask) (r : RM) (t : FT) : Statement (.vfexp d a m r t) := by
  have hr := rM_lt r
  have ht := fT_lt t
  refine of_19_14_9_6_3_0 rfl 40 d.val a.val 5 m.val r.code t.code (by decide) (d.isLt) (a.isLt) (by decide) (m.isLt) (hr) (Nat.lt_of_lt_of_le ht (by decide)) (by simp only [asm]; omega) fun hform N hN E => ?_
  rw [raw_VFun N E.1.1, decodeVFun, E.1.2.2.2.1]
  simp only [fldReg, fldM, fin_ofNat, bv_ofNat, E.1, RM.ofCode_code, FT.ofCode_code, Option.bind_some, reduceIte]

theorem vflog (d a : Reg) (m : Mask) (r : RM) (t : FT) : Statement (.vflog d a m r t) := by
  have hr := rM_lt r
  have ht := fT_lt t
  refine of_19_14_9_6_3_0 rfl 40 d.val a.val 6 m.val r.code t.code (by decide) (d.isLt) (a.isLt) (by decide) (m.isLt) (hr) (Nat.lt_of_lt_of_le ht (by decide)) (by simp only [asm]; omega) fun hform N hN E => ?_
  rw [raw_VFun N E.1.1, decodeVFun, E.1.2.2.2.1]
  simp only [fldReg, fldM, fin_ofNat, bv_ofNat, E.1, RM.ofCode_code, FT.ofCode_code, Option.bind_some, reduceIte]

theorem vftanh (d a : Reg) (m : Mask) (r : RM) (t : FT) : Statement (.vftanh d a m r t) := by
  have hr := rM_lt r
  have ht := fT_lt t
  refine of_19_14_9_6_3_0 rfl 40 d.val a.val 7 m.val r.code t.code (by decide) (d.isLt) (a.isLt) (by decide) (m.isLt) (hr) (Nat.lt_of_lt_of_le ht (by decide)) (by simp only [asm]; omega) fun hform N hN E => ?_
  rw [raw_VFun N E.1.1, decodeVFun, E.1.2.2.2.1]
  simp only [fldReg, fldM, fin_ofNat, bv_ofNat, E.1, RM.ofCode_code, FT.ofCode_code, Option.bind_some, reduceIte]

theorem vfsigm (d a : Reg) (m : Mask) (r : RM) (t : FT) : Statement (.vfsigm d a m r t) := by
  have hr := rM_lt r
  have ht := fT_lt t
  refine of_19_14_9_6_3_0 rfl 40 d.val a.val 8 m.val r.code t.code (by decide) (d.isLt) (a.isLt) (by decide) (m.isLt) (hr) (Nat.lt_of_lt_of_le ht (by decide)) (by simp only [asm]; omega) fun hform N hN E => ?_
  rw [raw_VFun N E.1.1, decodeVFun, E.1.2.2.2.1]
  simp only [fldReg, fldM, fin_ofNat, bv_ofNat, E.1, RM.ofCode_code, FT.ofCode_code, Option.bind_some, reduceIte]

theorem vfsin (d a : Reg) (m : Mask) (r : RM) (t : FT) : Statement (.vfsin d a m r t) := by
  have hr := rM_lt r
  have ht := fT_lt t
  refine of_19_14_9_6_3_0 rfl 40 d.val a.val 9 m.val r.code t.code (by decide) (d.isLt) (a.isLt) (by decide) (m.isLt) (hr) (Nat.lt_of_lt_of_le ht (by decide)) (by simp only [asm]; omega) fun hform N hN E => ?_
  rw [raw_VFun N E.1.1, decodeVFun, E.1.2.2.2.1]
  simp only [fldReg, fldM, fin_ofNat, bv_ofNat, E.1, RM.ofCode_code, FT.ofCode_code, Option.bind_some, reduceIte]

theorem vfcos (d a : Reg) (m : Mask) (r : RM) (t : FT) : Statement (.vfcos d a m r t) := by
  have hr := rM_lt r
  have ht := fT_lt t
  refine of_19_14_9_6_3_0 rfl 40 d.val a.val 10 m.val r.code t.code (by decide) (d.isLt) (a.isLt) (by decide) (m.isLt) (hr) (Nat.lt_of_lt_of_le ht (by decide)) (by simp only [asm]; omega) fun hform N hN E => ?_
  rw [raw_VFun N E.1.1, decodeVFun, E.1.2.2.2.1]
  simp only [fldReg, fldM, fin_ofNat, bv_ofNat, E.1, RM.ofCode_code, FT.ofCode_code, Option.bind_some, reduceIte]

theorem vredsum (d a : Reg) (r : RM) (m : Mask) (t : RT) : Statement (.vredsum d a r m t) := by
  have hr := rM_lt r
  have ht := rT_lt t
  refine of_19_14_12_9_6_3_0 rfl 41 d.val a.val 0 r.code m.val 0 t.code (by decide) (d.isLt) (a.isLt) (by decide) (hr) (m.isLt) (by decide) (ht) (by simp only [asm]; omega) fun hform N hN E => ?_
  rw [raw_VRed N E.1.1, decodeVRed, E.1.2.2.2.2.2.2.1]
  simp only [zeros, fldReg, fldM, fin_ofNat, bv_ofNat, E.1, RM.ofCode_code, RT.ofCode_code, Option.bind_some, reduceIte]

theorem vredmax (d a : Reg) (m : Mask) (t : RT) : Statement (.vredmax d a m t) := by
  have ht := rT_lt t
  refine of_19_14_12_9_6_3_0 rfl 41 d.val a.val 0 0 m.val 1 t.code (by decide) (d.isLt) (a.isLt) (by decide) (by decide) (m.isLt) (by decide) (ht) (by simp only [asm]; omega) fun hform N hN E => ?_
  have s0 := (fld_fld N 9 5 30 (by decide)).trans (show _ = 0 from by rw [hN]; omega)
  rw [raw_VRed N E.1.1, decodeVRed, E.1.2.2.2.2.2.2.1]
  simp only [zeros, fldReg, fldM, fin_ofNat, bv_ofNat, E.1, s0, RT.ofCode_code, Option.bind_some, reduceIte]

theorem vredmin (d a : Reg) (m : Mask) (t : RT) : Statement (.vredmin d a m t) := by
  have ht := rT_lt t
  refine of_19_14_12_9_6_3_0 rfl 41 d.val a.val 0 0 m.val 2 t.code (by decide) (d.isLt) (a.isLt) (by decide) (by decide) (m.isLt) (by decide) (ht) (by simp only [asm]; omega) fun hform N hN E => ?_
  have s0 := (fld_fld N 9 5 30 (by decide)).trans (show _ = 0 from by rw [hN]; omega)
  rw [raw_VRed N E.1.1, decodeVRed, E.1.2.2.2.2.2.2.1]
  simp only [zeros, fldReg, fldM, fin_ofNat, bv_ofNat, E.1, s0, RT.ofCode_code, Option.bind_some, reduceIte]

theorem vscan (d a : Reg) (r : RM) (m : Mask) (t : RT) : Statement (.vscan d a r m t) := by
  have hr := rM_lt r
  have ht := rT_lt t
  refine of_19_14_12_9_6_3_0 rfl 41 d.val a.val 0 r.code m.val 3 t.code (by decide) (d.isLt) (a.isLt) (by decide) (hr) (m.isLt) (by decide) (ht) (by simp only [asm]; omega) fun hform N hN E => ?_
  rw [raw_VRed N E.1.1, decodeVRed, E.1.2.2.2.2.2.2.1]
  simp only [zeros, fldReg, fldM, fin_ofNat, bv_ofNat, E.1, RM.ofCode_code, RT.ofCode_code, Option.bind_some, reduceIte]

theorem vscanx (d a : Reg) (r : RM) (m : Mask) (t : RT) : Statement (.vscanx d a r m t) := by
  have hr := rM_lt r
  have ht := rT_lt t
  refine of_19_14_12_9_6_3_0 rfl 41 d.val a.val 0 r.code m.val 4 t.code (by decide) (d.isLt) (a.isLt) (by decide) (hr) (m.isLt) (by decide) (ht) (by simp only [asm]; omega) fun hform N hN E => ?_
  rw [raw_VRed N E.1.1, decodeVRed, E.1.2.2.2.2.2.2.1]
  simp only [zeros, fldReg, fldM, fin_ofNat, bv_ofNat, E.1, RM.ofCode_code, RT.ofCode_code, Option.bind_some, reduceIte]

theorem vsgsum (d a b : Reg) (m : Mask) (t : RT) : Statement (.vsgsum d a b m t) := by
  have ht := rT_lt t
  refine of_19_14_9_6_3_0 rfl 42 d.val a.val b.val m.val 0 t.code (by decide) (d.isLt) (a.isLt) (b.isLt) (m.isLt) (by decide) (ht) (by simp only [asm]; omega) fun hform N hN E => ?_
  rw [raw_VSeg N E.1.1, decodeVSeg, E.1.2.2.2.2.2.1]
  simp only [zeros, fldReg, fldM, fin_ofNat, bv_ofNat, E.1, RT.ofCode_code, Option.bind_some, reduceIte]

theorem vsgmax (d a b : Reg) (m : Mask) (t : RT) : Statement (.vsgmax d a b m t) := by
  have ht := rT_lt t
  refine of_19_14_9_6_3_0 rfl 42 d.val a.val b.val m.val 1 t.code (by decide) (d.isLt) (a.isLt) (b.isLt) (m.isLt) (by decide) (ht) (by simp only [asm]; omega) fun hform N hN E => ?_
  rw [raw_VSeg N E.1.1, decodeVSeg, E.1.2.2.2.2.2.1]
  simp only [zeros, fldReg, fldM, fin_ofNat, bv_ofNat, E.1, RT.ofCode_code, Option.bind_some, reduceIte]

theorem vsgmin (d a b : Reg) (m : Mask) (t : RT) : Statement (.vsgmin d a b m t) := by
  have ht := rT_lt t
  refine of_19_14_9_6_3_0 rfl 42 d.val a.val b.val m.val 2 t.code (by decide) (d.isLt) (a.isLt) (b.isLt) (m.isLt) (by decide) (ht) (by simp only [asm]; omega) fun hform N hN E => ?_
  rw [raw_VSeg N E.1.1, decodeVSeg, E.1.2.2.2.2.2.1]
  simp only [zeros, fldReg, fldM, fin_ofNat, bv_ofNat, E.1, RT.ofCode_code, Option.bind_some, reduceIte]

theorem vsgscan (d a b : Reg) (m : Mask) (t : RT) : Statement (.vsgscan d a b m t) := by
  have ht := rT_lt t
  refine of_19_14_9_6_3_0 rfl 42 d.val a.val b.val m.val 3 t.code (by decide) (d.isLt) (a.isLt) (b.isLt) (m.isLt) (by decide) (ht) (by simp only [asm]; omega) fun hform N hN E => ?_
  rw [raw_VSeg N E.1.1, decodeVSeg, E.1.2.2.2.2.2.1]
  simp only [zeros, fldReg, fldM, fin_ofNat, bv_ofNat, E.1, RT.ofCode_code, Option.bind_some, reduceIte]

theorem vsgbcast (d a b : Reg) (m : Mask) (t : RT) : Statement (.vsgbcast d a b m t) := by
  have ht := rT_lt t
  refine of_19_14_9_6_3_0 rfl 42 d.val a.val b.val m.val 4 t.code (by decide) (d.isLt) (a.isLt) (b.isLt) (m.isLt) (by decide) (ht) (by simp only [asm]; omega) fun hform N hN E => ?_
  rw [raw_VSeg N E.1.1, decodeVSeg, E.1.2.2.2.2.2.1]
  simp only [zeros, fldReg, fldM, fin_ofNat, bv_ofNat, E.1, RT.ofCode_code, Option.bind_some, reduceIte]

theorem vsgrefill (d a b : Reg) (t : RT) : Statement (.vsgrefill d a b t) := by
  have ht := rT_lt t
  refine of_19_14_9_6_3_0 rfl 42 d.val a.val b.val 0 5 t.code (by decide) (d.isLt) (a.isLt) (b.isLt) (by decide) (by decide) (ht) (by simp only [asm]; omega) fun hform N hN E => ?_
  rw [raw_VSeg N E.1.1, decodeVSeg, E.1.2.2.2.2.2.1]
  simp only [zeros, fldReg, fldM, fin_ofNat, bv_ofNat, E.1, RT.ofCode_code, Option.bind_some, reduceIte]

theorem vperm (d a b : Reg) (m : Mask) (z : EW) : Statement (.vperm d a b m z) := by
  have hz := eW_lt z
  refine of_19_14_9_6_3_0 rfl 43 d.val a.val b.val m.val 0 z.code (by decide) (d.isLt) (a.isLt) (b.isLt) (m.isLt) (by decide) (Nat.lt_of_lt_of_le hz (by decide)) (by simp only [asm]; omega) fun hform N hN E => ?_
  rw [raw_VPerm N E.1.1, decodeVPerm, E.1.2.2.2.2.2.1]
  simp only [zeros, fldReg, fldM, fin_ofNat, bv_ofNat, E.1, EW.ofCode_code, Option.bind_some, reduceIte]

theorem vslideup (d a b : Reg) (m : Mask) (z : EW) : Statement (.vslideup d a b m z) := by
  have hz := eW_lt z
  refine of_19_14_9_6_3_0 rfl 43 d.val a.val b.val m.val 1 z.code (by decide) (d.isLt) (a.isLt) (b.isLt) (m.isLt) (by decide) (Nat.lt_of_lt_of_le hz (by decide)) (by simp only [asm]; omega) fun hform N hN E => ?_
  rw [raw_VPerm N E.1.1, decodeVPerm, E.1.2.2.2.2.2.1]
  simp only [zeros, fldReg, fldM, fin_ofNat, bv_ofNat, E.1, EW.ofCode_code, Option.bind_some, reduceIte]

theorem vslidedn (d a b : Reg) (m : Mask) (z : EW) : Statement (.vslidedn d a b m z) := by
  have hz := eW_lt z
  refine of_19_14_9_6_3_0 rfl 43 d.val a.val b.val m.val 2 z.code (by decide) (d.isLt) (a.isLt) (b.isLt) (m.isLt) (by decide) (Nat.lt_of_lt_of_le hz (by decide)) (by simp only [asm]; omega) fun hform N hN E => ?_
  rw [raw_VPerm N E.1.1, decodeVPerm, E.1.2.2.2.2.2.1]
  simp only [zeros, fldReg, fldM, fin_ofNat, bv_ofNat, E.1, EW.ofCode_code, Option.bind_some, reduceIte]

theorem vbcast (d a : Reg) (m : Mask) (z : EW) : Statement (.vbcast d a m z) := by
  have hz := eW_lt z
  refine of_19_14_9_6_3_0 rfl 43 d.val a.val 0 m.val 3 z.code (by decide) (d.isLt) (a.isLt) (by decide) (m.isLt) (by decide) (Nat.lt_of_lt_of_le hz (by decide)) (by simp only [asm]; omega) fun hform N hN E => ?_
  rw [raw_VPerm N E.1.1, decodeVPerm, E.1.2.2.2.2.2.1]
  simp only [zeros, fldReg, fldM, fin_ofNat, bv_ofNat, E.1, EW.ofCode_code, Option.bind_some, reduceIte]

theorem vmvxv (d a b : Reg) (z : EW) : Statement (.vmvxv d a b z) := by
  have hz := eW_lt z
  refine of_19_14_9_6_3_0 rfl 43 d.val a.val b.val 0 4 z.code (by decide) (d.isLt) (a.isLt) (b.isLt) (by decide) (by decide) (Nat.lt_of_lt_of_le hz (by decide)) (by simp only [asm]; omega) fun hform N hN E => ?_
  rw [raw_VPerm N E.1.1, decodeVPerm, E.1.2.2.2.2.2.1]
  simp only [zeros, fldReg, fldM, fin_ofNat, bv_ofNat, E.1, EW.ofCode_code, Option.bind_some, reduceIte]

theorem vmvvx (d a b : Reg) (z : EW) : Statement (.vmvvx d a b z) := by
  have hz := eW_lt z
  refine of_19_14_9_6_3_0 rfl 43 d.val a.val b.val 0 5 z.code (by decide) (d.isLt) (a.isLt) (b.isLt) (by decide) (by decide) (Nat.lt_of_lt_of_le hz (by decide)) (by simp only [asm]; omega) fun hform N hN E => ?_
  rw [raw_VPerm N E.1.1, decodeVPerm, E.1.2.2.2.2.2.1]
  simp only [zeros, fldReg, fldM, fin_ofNat, bv_ofNat, E.1, EW.ofCode_code, Option.bind_some, reduceIte]

theorem vid (d : Reg) (m : Mask) (z : EW) : Statement (.vid d m z) := by
  have hz := eW_lt z
  refine of_19_14_9_6_3_0 rfl 43 d.val 0 0 m.val 6 z.code (by decide) (d.isLt) (by decide) (by decide) (m.isLt) (by decide) (Nat.lt_of_lt_of_le hz (by decide)) (by simp only [asm]; omega) fun hform N hN E => ?_
  have s0 := (fld_fld N 9 10 30 (by decide)).trans (show _ = 0 from by rw [hN]; omega)
  rw [raw_VPerm N E.1.1, decodeVPerm, E.1.2.2.2.2.2.1]
  simp only [zeros, fldReg, fldM, fin_ofNat, bv_ofNat, E.1, s0, EW.ofCode_code, Option.bind_some, reduceIte]

theorem vsel (d a b : Reg) (m : Mask) (z : EW) : Statement (.vsel d a b m z) := by
  have hz := eW_lt z
  refine of_19_14_9_6_3_0 rfl 43 d.val a.val b.val m.val 7 z.code (by decide) (d.isLt) (a.isLt) (b.isLt) (m.isLt) (by decide) (Nat.lt_of_lt_of_le hz (by decide)) (by simp only [asm]; omega) fun hform N hN E => ?_
  rw [raw_VPerm N E.1.1, decodeVPerm, E.1.2.2.2.2.2.1]
  simp only [zeros, fldReg, fldM, fin_ofNat, bv_ofNat, E.1, EW.ofCode_code, Option.bind_some, reduceIte]

theorem vcvt (d a : Reg) (e : Fmt) (r : RM) (m : Mask) (s : Fmt) : Statement (.vcvt d a e r m s) := by
  have he := fmt_lt e
  have hr := rM_lt r
  have hs := fmt_lt s
  refine of_19_14_10_9_6_2_0 rfl 44 d.val a.val e.code ((r.code / 4)) m.val s.code ((r.code % 4)) (by decide) (d.isLt) (a.isLt) (Nat.lt_of_lt_of_le he (by decide)) (by omega) (m.isLt) (Nat.lt_of_lt_of_le hs (by decide)) (by omega) (by simp only [asm]; omega) fun hform N hN E => ?_
  have sr : r.code / 4 * 4 + r.code % 4 = r.code := by omega
  rw [raw_Cvt N E.1.1, decodeCvt]
  simp only [fldReg, fldM, fin_ofNat, bv_ofNat, E.1, sr, Fmt.ofCode_code, RM.ofCode_code, Option.bind_some, reduceIte]

theorem vcvtNsat (d a : Reg) (r : RM) (m : Mask) (s : Fmt) : Statement (.vcvtNsat d a r m s) := by
  have hr := rM_lt r
  have hs := fmt_lt s
  refine of_19_14_10_9_6_2_0 rfl 45 d.val a.val 4 ((r.code / 4)) m.val s.code ((r.code % 4)) (by decide) (d.isLt) (a.isLt) (by decide) (by omega) (m.isLt) (Nat.lt_of_lt_of_le hs (by decide)) (by omega) (by simp only [asm]; omega) fun hform N hN E => ?_
  have sr : r.code / 4 * 4 + r.code % 4 = r.code := by omega
  rw [raw_CvtNsat N E.1.1, decodeCvtNsat]
  simp only [fldReg, fldM, fin_ofNat, bv_ofNat, E.1, sr, RM.ofCode_code, Fmt.ofCode_code, Option.bind_some, reduceIte]

theorem vmxcvt (d a b : Reg) (m : Mask) (f : Fmt) : Statement (.vmxcvt d a b m f) := by
  have hf := fmt_lt f
  refine of_19_14_9_6_4_0 rfl 46 d.val a.val b.val m.val 0 f.code (by decide) (d.isLt) (a.isLt) (b.isLt) (m.isLt) (by decide) (Nat.lt_of_lt_of_le hf (by decide)) (by simp only [asm]; omega) fun hform N hN E => ?_
  rw [raw_VBlock N E.1.1, decodeVBlock, E.1.2.2.2.2.2.1]
  simp only [fldReg, fldM, fin_ofNat, bv_ofNat, E.1, Fmt.ofCode_code, Option.bind_some, reduceIte]

theorem vmxext (d a b : Reg) (m : Mask) (f : Fmt) : Statement (.vmxext d a b m f) := by
  have hf := fmt_lt f
  refine of_19_14_9_6_4_0 rfl 46 d.val a.val b.val m.val 1 f.code (by decide) (d.isLt) (a.isLt) (b.isLt) (m.isLt) (by decide) (Nat.lt_of_lt_of_le hf (by decide)) (by simp only [asm]; omega) fun hform N hN E => ?_
  rw [raw_VBlock N E.1.1, decodeVBlock, E.1.2.2.2.2.2.1]
  simp only [fldReg, fldM, fin_ofNat, bv_ofNat, E.1, Fmt.ofCode_code, Option.bind_some, reduceIte]

theorem vqcvt (d a b : Reg) (m : Mask) (f : Fmt) : Statement (.vqcvt d a b m f) := by
  have hf := fmt_lt f
  refine of_19_14_9_6_4_0 rfl 46 d.val a.val b.val m.val 2 f.code (by decide) (d.isLt) (a.isLt) (b.isLt) (m.isLt) (by decide) (Nat.lt_of_lt_of_le hf (by decide)) (by simp only [asm]; omega) fun hform N hN E => ?_
  rw [raw_VBlock N E.1.1, decodeVBlock, E.1.2.2.2.2.2.1]
  simp only [fldReg, fldM, fin_ofNat, bv_ofNat, E.1, Fmt.ofCode_code, Option.bind_some, reduceIte]

theorem vqgext (d a b : Reg) (m : Mask) (f : Fmt) : Statement (.vqgext d a b m f) := by
  have hf := fmt_lt f
  refine of_19_14_9_6_4_0 rfl 46 d.val a.val b.val m.val 3 f.code (by decide) (d.isLt) (a.isLt) (b.isLt) (m.isLt) (by decide) (Nat.lt_of_lt_of_le hf (by decide)) (by simp only [asm]; omega) fun hform N hN E => ?_
  rw [raw_VBlock N E.1.1, decodeVBlock, E.1.2.2.2.2.2.1]
  simp only [fldReg, fldM, fin_ofNat, bv_ofNat, E.1, Fmt.ofCode_code, Option.bind_some, (show f.code ≠ 11 by simp [formOk] at hform; rcases hform with rfl | rfl <;> decide), reduceIte]

theorem vwid4I8I4 (d a : Reg) (m : Mask) : Statement (.vwid4I8I4 d a m) := by
  refine of_19_14_9_6_4_0 rfl 46 d.val a.val 0 m.val 3 11 (by decide) (d.isLt) (a.isLt) (by decide) (m.isLt) (by decide) (by decide) (by simp only [asm]; omega) fun hform N hN E => ?_
  rw [raw_VBlock N E.1.1, decodeVBlock, E.1.2.2.2.2.2.1]
  simp only [fldReg, fldM, fin_ofNat, bv_ofNat, E.1, reduceIte]

theorem vwid4N8N4 (d a : Reg) (m : Mask) : Statement (.vwid4N8N4 d a m) := by
  refine of_19_14_9_6_4_0 rfl 46 d.val a.val 1 m.val 3 11 (by decide) (d.isLt) (a.isLt) (by decide) (m.isLt) (by decide) (by decide) (by simp only [asm]; omega) fun hform N hN E => ?_
  rw [raw_VBlock N E.1.1, decodeVBlock, E.1.2.2.2.2.2.1]
  simp only [fldReg, fldM, fin_ofNat, bv_ofNat, E.1, reduceIte]

theorem vnar4I4I8 (d a : Reg) (m : Mask) : Statement (.vnar4I4I8 d a m) := by
  refine of_19_14_9_6_4_0 rfl 46 d.val a.val 2 m.val 3 11 (by decide) (d.isLt) (a.isLt) (by decide) (m.isLt) (by decide) (by decide) (by simp only [asm]; omega) fun hform N hN E => ?_
  rw [raw_VBlock N E.1.1, decodeVBlock, E.1.2.2.2.2.2.1]
  simp only [fldReg, fldM, fin_ofNat, bv_ofNat, E.1, reduceIte]

theorem vnar4N4N8 (d a : Reg) (m : Mask) : Statement (.vnar4N4N8 d a m) := by
  refine of_19_14_9_6_4_0 rfl 46 d.val a.val 3 m.val 3 11 (by decide) (d.isLt) (a.isLt) (by decide) (m.isLt) (by decide) (by decide) (by simp only [asm]; omega) fun hform N hN E => ?_
  rw [raw_VBlock N E.1.1, decodeVBlock, E.1.2.2.2.2.2.1]
  simp only [fldReg, fldM, fin_ofNat, bv_ofNat, E.1, reduceIte]

theorem vclaim (d a : Reg) : Statement (.vclaim d a) := by
  refine of_19_14_9_0 rfl 48 d.val a.val 0 0 (by decide) (d.isLt) (a.isLt) (by decide) (by decide) (by simp only [asm]; omega) fun hform N hN E => ?_
  rw [raw_VCtl N E.1.1, decodeVCtl, E.1.2.2.2.2]
  simp only [zeros, fldReg, fin_ofNat, bv_ofNat, E.1, reduceIte]

theorem vsbindRd (n : Fin 8) (a : Reg) : Statement (.vsbindRd n a) := by
  refine of_22_19_14_9_0 rfl 48 3 n.val a.val 0 2 (by decide) (by decide) (n.isLt) (a.isLt) (by decide) (by decide) (by simp only [asm]; omega) fun hform N hN E => ?_
  rw [raw_VCtl N E.1.1, decodeVCtl, E.1.2.2.2.2.2]
  simp only [zeros, fldReg, fin_ofNat, bv_ofNat, E.1, reduceIte]

theorem vsbindWr (n : Fin 8) (a : Reg) : Statement (.vsbindWr n a) := by
  refine of_22_19_14_9_0 rfl 48 3 n.val a.val 0 3 (by decide) (by decide) (n.isLt) (a.isLt) (by decide) (by decide) (by simp only [asm]; omega) fun hform N hN E => ?_
  rw [raw_VCtl N E.1.1, decodeVCtl, E.1.2.2.2.2.2]
  simp only [zeros, fldReg, fin_ofNat, bv_ofNat, E.1, reduceIte]

theorem vsunbind (n : Fin 8) : Statement (.vsunbind n) := by
  refine of_22_19_14_9_0 rfl 48 3 n.val 0 0 4 (by decide) (by decide) (n.isLt) (by decide) (by decide) (by decide) (by simp only [asm]; omega) fun hform N hN E => ?_
  have s0 := (fld_fld N 9 10 30 (by decide)).trans (show _ = 0 from by rw [hN]; omega)
  rw [raw_VCtl N E.1.1, decodeVCtl, E.1.2.2.2.2.2]
  simp only [zeros, fldReg, fin_ofNat, bv_ofNat, E.1, s0, reduceIte]

theorem mxCfg (a : Reg) (k : Fin 8) : Statement (.mxCfg a k) := by
  refine of_18_13_12_8_3_0 rfl 56 0 a.val 0 0 0 k.val (by decide) (by decide) (a.isLt) (by decide) (by decide) (by decide) (k.isLt) (by simp only [asm]; omega) fun hform N hN E => ?_
  have s0 := (fld_fld N 3 10 30 (by decide)).trans (show _ = 0 from by rw [hN]; omega)
  have s1 := (fld_fld N 8 5 30 (by decide)).trans (show _ = 0 from by rw [hN]; omega)
  rw [raw_Matrix N E.1.1, decodeMatrix, E.1.2.1]
  simp only [zeros, fldReg, fin_ofNat, bv_ofNat, E.1, s0, s1, reduceIte]

theorem mxTask (a b d : Reg) : Statement (.mxTask a b d) := by
  refine of_18_13_8_3_0 rfl 56 1 a.val b.val d.val 0 (by decide) (by decide) (a.isLt) (b.isLt) (d.isLt) (by decide) (by simp only [asm]; omega) fun hform N hN E => ?_
  rw [raw_Matrix N E.1.1, decodeMatrix, E.1.2.1]
  simp only [zeros, fldReg, fin_ofNat, bv_ofNat, E.1, reduceIte]

theorem mxWait (a d : Reg) : Statement (.mxWait a d) := by
  refine of_18_13_12_8_3_0 rfl 56 2 a.val 0 0 d.val 0 (by decide) (by decide) (a.isLt) (by decide) (by decide) (d.isLt) (by decide) (by simp only [asm]; omega) fun hform N hN E => ?_
  have s0 := (fld_fld N 8 5 30 (by decide)).trans (show _ = 0 from by rw [hN]; omega)
  rw [raw_Matrix N E.1.1, decodeMatrix, E.1.2.1]
  simp only [zeros, fldReg, fin_ofNat, bv_ofNat, E.1, s0, reduceIte]

theorem mxZero (a d : Reg) : Statement (.mxZero a d) := by
  refine of_18_13_12_8_3_0 rfl 56 3 a.val 0 0 d.val 0 (by decide) (by decide) (a.isLt) (by decide) (by decide) (d.isLt) (by decide) (by simp only [asm]; omega) fun hform N hN E => ?_
  have s0 := (fld_fld N 8 5 30 (by decide)).trans (show _ = 0 from by rw [hN]; omega)
  rw [raw_Matrix N E.1.1, decodeMatrix, E.1.2.1]
  simp only [zeros, fldReg, fin_ofNat, bv_ofNat, E.1, s0, reduceIte]

theorem ringCfg (a : Reg) (n : Fin 16) : Statement (.ringCfg a n) := by
  refine of_18_13_12_8_3_0 rfl 56 8 a.val 0 n.val 0 0 (by decide) (by decide) (a.isLt) (by decide) (n.isLt) (by decide) (by decide) (by simp only [asm]; omega) fun hform N hN E => ?_
  have s0 := (fld_fld N 0 8 30 (by decide)).trans (show _ = 0 from by rw [hN]; omega)
  rw [raw_Matrix N E.1.1, decodeMatrix, E.1.2.1]
  simp only [zeros, fldReg, fin_ofNat, bv_ofNat, E.1, s0, reduceIte]

theorem ringSt (n : Fin 16) (d : Reg) : Statement (.ringSt n d) := by
  refine of_18_13_12_8_3_0 rfl 56 9 0 0 n.val d.val 0 (by decide) (by decide) (by decide) (by decide) (n.isLt) (d.isLt) (by decide) (by simp only [asm]; omega) fun hform N hN E => ?_
  have s0 := (fld_fld N 12 6 30 (by decide)).trans (show _ = 0 from by rw [hN]; omega)
  rw [raw_Matrix N E.1.1, decodeMatrix, E.1.2.1]
  simp only [zeros, fldReg, fin_ofNat, bv_ofNat, E.1, s0, reduceIte]

theorem ringReset (n : Fin 16) (d : Reg) : Statement (.ringReset n d) := by
  refine of_18_13_12_8_3_0 rfl 56 10 0 0 n.val d.val 0 (by decide) (by decide) (by decide) (by decide) (n.isLt) (d.isLt) (by decide) (by simp only [asm]; omega) fun hform N hN E => ?_
  have s0 := (fld_fld N 12 6 30 (by decide)).trans (show _ = 0 from by rw [hN]; omega)
  rw [raw_Matrix N E.1.1, decodeMatrix, E.1.2.1]
  simp only [zeros, fldReg, fin_ofNat, bv_ofNat, E.1, s0, reduceIte]

theorem cpGo (a b : Reg) : Statement (.cpGo a b) := by
  refine of_18_13_8_3_0 rfl 57 0 a.val b.val 0 0 (by decide) (by decide) (a.isLt) (b.isLt) (by decide) (by decide) (by simp only [asm]; omega) fun hform N hN E => ?_
  have s0 := (fld_fld N 0 8 30 (by decide)).trans (show _ = 0 from by rw [hN]; omega)
  rw [raw_Copy N E.1.1, decodeCopy, E.1.2.1]
  simp only [zeros, fldReg, fin_ofNat, bv_ofNat, E.1, s0, reduceIte]

theorem cpSet (a : Reg) (k : Fin 8) : Statement (.cpSet a k) := by
  refine of_18_13_8_3_0 rfl 57 1 a.val 0 0 k.val (by decide) (by decide) (a.isLt) (by decide) (by decide) (k.isLt) (by simp only [asm]; omega) fun hform N hN E => ?_
  have s0 := (fld_fld N 3 10 30 (by decide)).trans (show _ = 0 from by rw [hN]; omega)
  rw [raw_Copy N E.1.1, decodeCopy, E.1.2.1]
  simp only [zeros, fldReg, fin_ofNat, bv_ofNat, E.1, s0, reduceIte]

theorem cpGet (d : Reg) (k : Fin 8) : Statement (.cpGet d k) := by
  refine of_18_13_8_3_0 rfl 57 2 0 0 d.val k.val (by decide) (by decide) (by decide) (by decide) (d.isLt) (k.isLt) (by simp only [asm]; omega) fun hform N hN E => ?_
  have s0 := (fld_fld N 8 10 30 (by decide)).trans (show _ = 0 from by rw [hN]; omega)
  rw [raw_Copy N E.1.1, decodeCopy, E.1.2.1]
  simp only [zeros, fldReg, fin_ofNat, bv_ofNat, E.1, s0, reduceIte]

theorem cpWait (d : Reg) : Statement (.cpWait d) := by
  refine of_18_13_8_3_0 rfl 57 3 0 0 d.val 0 (by decide) (by decide) (by decide) (by decide) (d.isLt) (by decide) (by simp only [asm]; omega) fun hform N hN E => ?_
  have s0 := (fld_fld N 8 10 30 (by decide)).trans (show _ = 0 from by rw [hN]; omega)
  rw [raw_Copy N E.1.1, decodeCopy, E.1.2.1]
  simp only [zeros, fldReg, fin_ofNat, bv_ofNat, E.1, s0, reduceIte]

theorem barInit (a b d : Reg) : Statement (.barInit a b d) := by
  refine of_18_13_8_3_0 rfl 58 0 a.val b.val d.val 0 (by decide) (by decide) (a.isLt) (b.isLt) (d.isLt) (by decide) (by simp only [asm]; omega) fun hform N hN E => ?_
  rw [raw_Sync N E.1.1, decodeSync, E.1.2.1]
  simp only [zeros, fldReg, fin_ofNat, bv_ofNat, E.1, reduceIte]

theorem barInitF (a b d : Reg) : Statement (.barInitF a b d) := by
  refine of_18_13_8_3_0 rfl 58 0 a.val b.val d.val 1 (by decide) (by decide) (a.isLt) (b.isLt) (d.isLt) (by decide) (by simp only [asm]; omega) fun hform N hN E => ?_
  rw [raw_Sync N E.1.1, decodeSync, E.1.2.1]
  simp only [zeros, fldReg, fin_ofNat, bv_ofNat, E.1, reduceIte]

theorem barArr (a b d : Reg) : Statement (.barArr a b d) := by
  refine of_18_13_8_3_0 rfl 58 1 a.val b.val d.val 0 (by decide) (by decide) (a.isLt) (b.isLt) (d.isLt) (by decide) (by simp only [asm]; omega) fun hform N hN E => ?_
  rw [raw_Sync N E.1.1, decodeSync, E.1.2.1]
  simp only [zeros, fldReg, fin_ofNat, bv_ofNat, E.1, reduceIte]

theorem barWait (a b d : Reg) : Statement (.barWait a b d) := by
  refine of_18_13_8_3_0 rfl 58 2 a.val b.val d.val 0 (by decide) (by decide) (a.isLt) (b.isLt) (d.isLt) (by decide) (by simp only [asm]; omega) fun hform N hN E => ?_
  rw [raw_Sync N E.1.1, decodeSync, E.1.2.1]
  simp only [zeros, fldReg, fin_ofNat, bv_ofNat, E.1, reduceIte]

theorem barArrw (a b d : Reg) : Statement (.barArrw a b d) := by
  refine of_18_13_8_3_0 rfl 58 3 a.val b.val d.val 0 (by decide) (by decide) (a.isLt) (b.isLt) (d.isLt) (by decide) (by simp only [asm]; omega) fun hform N hN E => ?_
  rw [raw_Sync N E.1.1, decodeSync, E.1.2.1]
  simp only [zeros, fldReg, fin_ofNat, bv_ofNat, E.1, reduceIte]

theorem barKill (a d : Reg) : Statement (.barKill a d) := by
  refine of_18_13_8_3_0 rfl 58 4 a.val 0 d.val 0 (by decide) (by decide) (a.isLt) (by decide) (d.isLt) (by decide) (by simp only [asm]; omega) fun hform N hN E => ?_
  rw [raw_Sync N E.1.1, decodeSync, E.1.2.1]
  simp only [zeros, fldReg, fin_ofNat, bv_ofNat, E.1, reduceIte]

theorem barRd (a d : Reg) : Statement (.barRd a d) := by
  refine of_18_13_8_3_0 rfl 58 5 a.val 0 d.val 0 (by decide) (by decide) (a.isLt) (by decide) (d.isLt) (by decide) (by simp only [asm]; omega) fun hform N hN E => ?_
  rw [raw_Sync N E.1.1, decodeSync, E.1.2.1]
  simp only [zeros, fldReg, fin_ofNat, bv_ofNat, E.1, reduceIte]

theorem evWait (a : Reg) : Statement (.evWait a) := by
  refine of_18_13_8_3_0 rfl 58 8 a.val 0 0 0 (by decide) (by decide) (a.isLt) (by decide) (by decide) (by decide) (by simp only [asm]; omega) fun hform N hN E => ?_
  have s0 := (fld_fld N 0 13 30 (by decide)).trans (show _ = 0 from by rw [hN]; omega)
  rw [raw_Sync N E.1.1, decodeSync, E.1.2.1]
  simp only [zeros, fldReg, fin_ofNat, bv_ofNat, E.1, s0, reduceIte]

theorem evFire (a : Reg) : Statement (.evFire a) := by
  refine of_18_13_8_3_0 rfl 58 9 a.val 0 0 0 (by decide) (by decide) (a.isLt) (by decide) (by decide) (by decide) (by simp only [asm]; omega) fun hform N hN E => ?_
  have s0 := (fld_fld N 0 13 30 (by decide)).trans (show _ = 0 from by rw [hN]; omega)
  rw [raw_Sync N E.1.1, decodeSync, E.1.2.1]
  simp only [zeros, fldReg, fin_ofNat, bv_ofNat, E.1, s0, reduceIte]

theorem mtxLock (a d : Reg) : Statement (.mtxLock a d) := by
  refine of_18_13_8_3_0 rfl 58 12 a.val 0 d.val 0 (by decide) (by decide) (a.isLt) (by decide) (d.isLt) (by decide) (by simp only [asm]; omega) fun hform N hN E => ?_
  rw [raw_Sync N E.1.1, decodeSync, E.1.2.1]
  simp only [zeros, fldReg, fin_ofNat, bv_ofNat, E.1, reduceIte]

theorem mtxTry (a d : Reg) : Statement (.mtxTry a d) := by
  refine of_18_13_8_3_0 rfl 58 13 a.val 0 d.val 0 (by decide) (by decide) (a.isLt) (by decide) (d.isLt) (by decide) (by simp only [asm]; omega) fun hform N hN E => ?_
  rw [raw_Sync N E.1.1, decodeSync, E.1.2.1]
  simp only [zeros, fldReg, fin_ofNat, bv_ofNat, E.1, reduceIte]

theorem mtxUnlock (a d : Reg) : Statement (.mtxUnlock a d) := by
  refine of_18_13_8_3_0 rfl 58 14 a.val 0 d.val 0 (by decide) (by decide) (a.isLt) (by decide) (d.isLt) (by decide) (by simp only [asm]; omega) fun hform N hN E => ?_
  rw [raw_Sync N E.1.1, decodeSync, E.1.2.1]
  simp only [zeros, fldReg, fin_ofNat, bv_ofNat, E.1, reduceIte]

theorem cntInit (a b d : Reg) : Statement (.cntInit a b d) := by
  refine of_18_13_8_3_0 rfl 58 16 a.val b.val d.val 0 (by decide) (by decide) (a.isLt) (b.isLt) (d.isLt) (by decide) (by simp only [asm]; omega) fun hform N hN E => ?_
  rw [raw_Sync N E.1.1, decodeSync, E.1.2.1]
  simp only [zeros, fldReg, fin_ofNat, bv_ofNat, E.1, reduceIte]

theorem cntAdd (a b d : Reg) : Statement (.cntAdd a b d) := by
  refine of_18_13_8_3_0 rfl 58 17 a.val b.val d.val 0 (by decide) (by decide) (a.isLt) (b.isLt) (d.isLt) (by decide) (by simp only [asm]; omega) fun hform N hN E => ?_
  rw [raw_Sync N E.1.1, decodeSync, E.1.2.1]
  simp only [zeros, fldReg, fin_ofNat, bv_ofNat, E.1, reduceIte]

theorem cntRd (a d : Reg) : Statement (.cntRd a d) := by
  refine of_18_13_8_3_0 rfl 58 18 a.val 0 d.val 0 (by decide) (by decide) (a.isLt) (by decide) (d.isLt) (by decide) (by simp only [asm]; omega) fun hform N hN E => ?_
  rw [raw_Sync N E.1.1, decodeSync, E.1.2.1]
  simp only [zeros, fldReg, fin_ofNat, bv_ofNat, E.1, reduceIte]

theorem cntWait (a b d : Reg) : Statement (.cntWait a b d) := by
  refine of_18_13_8_3_0 rfl 58 19 a.val b.val d.val 0 (by decide) (by decide) (a.isLt) (b.isLt) (d.isLt) (by decide) (by simp only [asm]; omega) fun hform N hN E => ?_
  rw [raw_Sync N E.1.1, decodeSync, E.1.2.1]
  simp only [zeros, fldReg, fin_ofNat, bv_ofNat, E.1, reduceIte]

theorem gbar (a d : Reg) : Statement (.gbar a d) := by
  refine of_18_13_8_3_0 rfl 58 24 a.val 0 d.val 0 (by decide) (by decide) (a.isLt) (by decide) (d.isLt) (by decide) (by simp only [asm]; omega) fun hform N hN E => ?_
  rw [raw_Sync N E.1.1, decodeSync, E.1.2.1]
  simp only [zeros, fldReg, fin_ofNat, bv_ofNat, E.1, reduceIte]

theorem barAlloc (a d : Reg) : Statement (.barAlloc a d) := by
  refine of_18_13_8_3_0 rfl 58 28 a.val 0 d.val 0 (by decide) (by decide) (a.isLt) (by decide) (d.isLt) (by decide) (by simp only [asm]; omega) fun hform N hN E => ?_
  rw [raw_Sync N E.1.1, decodeSync, E.1.2.1]
  simp only [zeros, fldReg, fin_ofNat, bv_ofNat, E.1, reduceIte]

theorem cntAlloc (a d : Reg) : Statement (.cntAlloc a d) := by
  refine of_18_13_8_3_0 rfl 58 29 a.val 0 d.val 0 (by decide) (by decide) (a.isLt) (by decide) (d.isLt) (by decide) (by simp only [asm]; omega) fun hform N hN E => ?_
  rw [raw_Sync N E.1.1, decodeSync, E.1.2.1]
  simp only [zeros, fldReg, fin_ofNat, bv_ofNat, E.1, reduceIte]

theorem mtxAlloc (d : Reg) : Statement (.mtxAlloc d) := by
  refine of_18_13_8_3_0 rfl 58 30 0 0 d.val 0 (by decide) (by decide) (by decide) (by decide) (d.isLt) (by decide) (by simp only [asm]; omega) fun hform N hN E => ?_
  have s0 := (fld_fld N 8 10 30 (by decide)).trans (show _ = 0 from by rw [hN]; omega)
  rw [raw_Sync N E.1.1, decodeSync, E.1.2.1]
  simp only [zeros, fldReg, fin_ofNat, bv_ofNat, E.1, s0, reduceIte]

theorem barFree (a d : Reg) : Statement (.barFree a d) := by
  refine of_18_13_8_3_0 rfl 58 32 a.val 0 d.val 0 (by decide) (by decide) (a.isLt) (by decide) (d.isLt) (by decide) (by simp only [asm]; omega) fun hform N hN E => ?_
  rw [raw_Sync N E.1.1, decodeSync, E.1.2.1]
  simp only [zeros, fldReg, fin_ofNat, bv_ofNat, E.1, reduceIte]

theorem cntFree (a d : Reg) : Statement (.cntFree a d) := by
  refine of_18_13_8_3_0 rfl 58 33 a.val 0 d.val 0 (by decide) (by decide) (a.isLt) (by decide) (d.isLt) (by decide) (by simp only [asm]; omega) fun hform N hN E => ?_
  rw [raw_Sync N E.1.1, decodeSync, E.1.2.1]
  simp only [zeros, fldReg, fin_ofNat, bv_ofNat, E.1, reduceIte]

theorem mtxFree (a d : Reg) : Statement (.mtxFree a d) := by
  refine of_18_13_8_3_0 rfl 58 34 a.val 0 d.val 0 (by decide) (by decide) (a.isLt) (by decide) (d.isLt) (by decide) (by simp only [asm]; omega) fun hform N hN E => ?_
  rw [raw_Sync N E.1.1, decodeSync, E.1.2.1]
  simp only [zeros, fldReg, fin_ofNat, bv_ofNat, E.1, reduceIte]

theorem rimeAlloc (a d : Reg) : Statement (.rimeAlloc a d) := by
  refine of_18_13_8_3_0 rfl 59 0 a.val 0 d.val 0 (by decide) (by decide) (a.isLt) (by decide) (d.isLt) (by decide) (by simp only [asm]; omega) fun hform N hN E => ?_
  rw [raw_Rime N E.1.1, decodeRime, E.1.2.1]
  simp only [zeros, fldReg, fin_ofNat, bv_ofNat, E.1, reduceIte]

theorem rimeFree (a d : Reg) : Statement (.rimeFree a d) := by
  refine of_18_13_8_3_0 rfl 59 1 a.val 0 d.val 0 (by decide) (by decide) (a.isLt) (by decide) (d.isLt) (by decide) (by simp only [asm]; omega) fun hform N hN E => ?_
  rw [raw_Rime N E.1.1, decodeRime, E.1.2.1]
  simp only [zeros, fldReg, fin_ofNat, bv_ofNat, E.1, reduceIte]

theorem rimeBind (a b d : Reg) : Statement (.rimeBind a b d) := by
  refine of_18_13_8_3_0 rfl 59 2 a.val b.val d.val 0 (by decide) (by decide) (a.isLt) (b.isLt) (d.isLt) (by decide) (by simp only [asm]; omega) fun hform N hN E => ?_
  rw [raw_Rime N E.1.1, decodeRime, E.1.2.1]
  simp only [zeros, fldReg, fin_ofNat, bv_ofNat, E.1, reduceIte]

theorem rimeUnbind (a b d : Reg) : Statement (.rimeUnbind a b d) := by
  refine of_18_13_8_3_0 rfl 59 3 a.val b.val d.val 0 (by decide) (by decide) (a.isLt) (b.isLt) (d.isLt) (by decide) (by simp only [asm]; omega) fun hform N hN E => ?_
  rw [raw_Rime N E.1.1, decodeRime, E.1.2.1]
  simp only [zeros, fldReg, fin_ofNat, bv_ofNat, E.1, reduceIte]

theorem rimeSync (a d : Reg) : Statement (.rimeSync a d) := by
  refine of_18_13_8_3_0 rfl 59 4 a.val 0 d.val 0 (by decide) (by decide) (a.isLt) (by decide) (d.isLt) (by decide) (by simp only [asm]; omega) fun hform N hN E => ?_
  rw [raw_Rime N E.1.1, decodeRime, E.1.2.1]
  simp only [zeros, fldReg, fin_ofNat, bv_ofNat, E.1, reduceIte]

theorem rimeRd (a b d : Reg) : Statement (.rimeRd a b d) := by
  refine of_18_13_8_3_0 rfl 59 5 a.val b.val d.val 0 (by decide) (by decide) (a.isLt) (b.isLt) (d.isLt) (by decide) (by simp only [asm]; omega) fun hform N hN E => ?_
  rw [raw_Rime N E.1.1, decodeRime, E.1.2.1]
  simp only [zeros, fldReg, fin_ofNat, bv_ofNat, E.1, reduceIte]

theorem rimeClr (a d : Reg) : Statement (.rimeClr a d) := by
  refine of_18_13_8_3_0 rfl 59 6 a.val 0 d.val 0 (by decide) (by decide) (a.isLt) (by decide) (d.isLt) (by decide) (by simp only [asm]; omega) fun hform N hN E => ?_
  rw [raw_Rime N E.1.1, decodeRime, E.1.2.1]
  simp only [zeros, fldReg, fin_ofNat, bv_ofNat, E.1, reduceIte]

theorem collGo (a d : Reg) : Statement (.collGo a d) := by
  refine of_18_13_8_3_0 rfl 60 0 a.val 0 d.val 0 (by decide) (by decide) (a.isLt) (by decide) (d.isLt) (by decide) (by simp only [asm]; omega) fun hform N hN E => ?_
  rw [raw_Fabric N E.1.1, decodeFabric, E.1.2.1]
  simp only [zeros, fldReg, fin_ofNat, bv_ofNat, E.1, reduceIte]

theorem collWait (a d : Reg) : Statement (.collWait a d) := by
  refine of_18_13_8_3_0 rfl 60 1 a.val 0 d.val 0 (by decide) (by decide) (a.isLt) (by decide) (d.isLt) (by decide) (by simp only [asm]; omega) fun hform N hN E => ?_
  rw [raw_Fabric N E.1.1, decodeFabric, E.1.2.1]
  simp only [zeros, fldReg, fin_ofNat, bv_ofNat, E.1, reduceIte]

theorem collWaitMc (a d : Reg) : Statement (.collWaitMc a d) := by
  refine of_18_13_8_3_0 rfl 60 1 a.val 0 d.val 1 (by decide) (by decide) (a.isLt) (by decide) (d.isLt) (by decide) (by simp only [asm]; omega) fun hform N hN E => ?_
  rw [raw_Fabric N E.1.1, decodeFabric, E.1.2.1]
  simp only [zeros, fldReg, fin_ofNat, bv_ofNat, E.1, reduceIte]

theorem collAbort (a d : Reg) : Statement (.collAbort a d) := by
  refine of_18_13_8_3_0 rfl 60 2 a.val 0 d.val 0 (by decide) (by decide) (a.isLt) (by decide) (d.isLt) (by decide) (by simp only [asm]; omega) fun hform N hN E => ?_
  rw [raw_Fabric N E.1.1, decodeFabric, E.1.2.1]
  simp only [zeros, fldReg, fin_ofNat, bv_ofNat, E.1, reduceIte]

theorem collStx (a b d : Reg) : Statement (.collStx a b d) := by
  refine of_18_13_8_3_0 rfl 60 3 a.val b.val d.val 0 (by decide) (by decide) (a.isLt) (b.isLt) (d.isLt) (by decide) (by simp only [asm]; omega) fun hform N hN E => ?_
  rw [raw_Fabric N E.1.1, decodeFabric, E.1.2.1]
  simp only [zeros, fldReg, fin_ofNat, bv_ofNat, E.1, reduceIte]

theorem collReq (a d : Reg) : Statement (.collReq a d) := by
  refine of_18_13_8_3_0 rfl 60 4 a.val 0 d.val 0 (by decide) (by decide) (a.isLt) (by decide) (d.isLt) (by decide) (by simp only [asm]; omega) fun hform N hN E => ?_
  rw [raw_Fabric N E.1.1, decodeFabric, E.1.2.1]
  simp only [zeros, fldReg, fin_ofNat, bv_ofNat, E.1, reduceIte]

theorem collTake (d : Reg) : Statement (.collTake d) := by
  refine of_18_13_8_3_0 rfl 60 5 0 0 d.val 0 (by decide) (by decide) (by decide) (by decide) (d.isLt) (by decide) (by simp only [asm]; omega) fun hform N hN E => ?_
  have s0 := (fld_fld N 8 10 30 (by decide)).trans (show _ = 0 from by rw [hN]; omega)
  rw [raw_Fabric N E.1.1, decodeFabric, E.1.2.1]
  simp only [zeros, fldReg, fin_ofNat, bv_ofNat, E.1, s0, reduceIte]

theorem grpSet (a b d : Reg) : Statement (.grpSet a b d) := by
  refine of_18_13_8_3_0 rfl 60 8 a.val b.val d.val 0 (by decide) (by decide) (a.isLt) (b.isLt) (d.isLt) (by decide) (by simp only [asm]; omega) fun hform N hN E => ?_
  rw [raw_Fabric N E.1.1, decodeFabric, E.1.2.1]
  simp only [zeros, fldReg, fin_ofNat, bv_ofNat, E.1, reduceIte]

theorem grpClr (a d : Reg) : Statement (.grpClr a d) := by
  refine of_18_13_8_3_0 rfl 60 9 a.val 0 d.val 0 (by decide) (by decide) (a.isLt) (by decide) (d.isLt) (by decide) (by simp only [asm]; omega) fun hform N hN E => ?_
  rw [raw_Fabric N E.1.1, decodeFabric, E.1.2.1]
  simp only [zeros, fldReg, fin_ofNat, bv_ofNat, E.1, reduceIte]

theorem mcLdred (a d : Reg) : Statement (.mcLdred a d) := by
  refine of_18_13_8_3_0 rfl 60 10 a.val 0 d.val 0 (by decide) (by decide) (a.isLt) (by decide) (d.isLt) (by decide) (by simp only [asm]; omega) fun hform N hN E => ?_
  rw [raw_Fabric N E.1.1, decodeFabric, E.1.2.1]
  simp only [zeros, fldReg, fin_ofNat, bv_ofNat, E.1, reduceIte]

theorem aucRun (a d : Reg) : Statement (.aucRun a d) := by
  refine of_18_13_8_3_0 rfl 61 0 a.val 0 d.val 0 (by decide) (by decide) (a.isLt) (by decide) (d.isLt) (by decide) (by simp only [asm]; omega) fun hform N hN E => ?_
  rw [raw_Router N E.1.1, decodeRouter, E.1.2.1]
  simp only [zeros, fldReg, fin_ofNat, bv_ofNat, E.1, reduceIte]

theorem aucWait (a d : Reg) : Statement (.aucWait a d) := by
  refine of_18_13_8_3_0 rfl 61 1 a.val 0 d.val 0 (by decide) (by decide) (a.isLt) (by decide) (d.isLt) (by decide) (by simp only [asm]; omega) fun hform N hN E => ?_
  rw [raw_Router N E.1.1, decodeRouter, E.1.2.1]
  simp only [zeros, fldReg, fin_ofNat, bv_ofNat, E.1, reduceIte]

theorem aucPset (a b d : Reg) : Statement (.aucPset a b d) := by
  refine of_18_13_8_3_0 rfl 61 2 a.val b.val d.val 0 (by decide) (by decide) (a.isLt) (b.isLt) (d.isLt) (by decide) (by simp only [asm]; omega) fun hform N hN E => ?_
  rw [raw_Router N E.1.1, decodeRouter, E.1.2.1]
  simp only [zeros, fldReg, fin_ofNat, bv_ofNat, E.1, reduceIte]

theorem aucPget (a b d : Reg) : Statement (.aucPget a b d) := by
  refine of_18_13_8_3_0 rfl 61 3 a.val b.val d.val 0 (by decide) (by decide) (a.isLt) (b.isLt) (d.isLt) (by decide) (by simp only [asm]; omega) fun hform N hN E => ?_
  rw [raw_Router N E.1.1, decodeRouter, E.1.2.1]
  simp only [zeros, fldReg, fin_ofNat, bv_ofNat, E.1, reduceIte]

theorem aucPclr (a d : Reg) : Statement (.aucPclr a d) := by
  refine of_18_13_8_3_0 rfl 61 4 a.val 0 d.val 0 (by decide) (by decide) (a.isLt) (by decide) (d.isLt) (by decide) (by simp only [asm]; omega) fun hform N hN E => ?_
  rw [raw_Router N E.1.1, decodeRouter, E.1.2.1]
  simp only [zeros, fldReg, fin_ofNat, bv_ofNat, E.1, reduceIte]

theorem exit : Statement .exit := by
  refine of_19_14_9_0 rfl 0 0 0 0 1 (by decide) (by decide) (by decide) (by decide) (by decide) (by simp only [asm]; omega) fun hform N hN E => ?_
  have s0 := (fld_fld N 9 15 30 (by decide)).trans (show _ = 0 from by rw [hN]; omega)
  rw [raw_System N E.1.1, decodeSystem, E.1.2.2.2.2]
  simp only [zeros, fldReg, fin_ofNat, bv_ofNat, E.1, s0, reduceIte]

theorem yield : Statement .yield := by
  refine of_19_14_9_0 rfl 0 0 0 0 2 (by decide) (by decide) (by decide) (by decide) (by decide) (by simp only [asm]; omega) fun hform N hN E => ?_
  have s0 := (fld_fld N 9 15 30 (by decide)).trans (show _ = 0 from by rw [hN]; omega)
  rw [raw_System N E.1.1, decodeSystem, E.1.2.2.2.2]
  simp only [zeros, fldReg, fin_ofNat, bv_ofNat, E.1, s0, reduceIte]

theorem brk : Statement .brk := by
  refine of_19_14_9_0 rfl 0 0 0 0 5 (by decide) (by decide) (by decide) (by decide) (by decide) (by simp only [asm]; omega) fun hform N hN E => ?_
  have s0 := (fld_fld N 9 15 30 (by decide)).trans (show _ = 0 from by rw [hN]; omega)
  rw [raw_System N E.1.1, decodeSystem, E.1.2.2.2.2]
  simp only [zeros, fldReg, fin_ofNat, bv_ofNat, E.1, s0, reduceIte]

theorem fenceAcqCore : Statement .fenceAcqCore := by
  refine of_19_14_9_0 rfl 0 0 0 0 32 (by decide) (by decide) (by decide) (by decide) (by decide) (by simp only [asm]; omega) fun hform N hN E => ?_
  have s0 := (fld_fld N 9 15 30 (by decide)).trans (show _ = 0 from by rw [hN]; omega)
  rw [raw_System N E.1.1, decodeSystem, E.1.2.2.2.2]
  simp only [zeros, fldReg, fin_ofNat, bv_ofNat, E.1, s0, reduceIte]

theorem fenceAcqFloe : Statement .fenceAcqFloe := by
  refine of_19_14_9_0 rfl 0 0 0 0 33 (by decide) (by decide) (by decide) (by decide) (by decide) (by simp only [asm]; omega) fun hform N hN E => ?_
  have s0 := (fld_fld N 9 15 30 (by decide)).trans (show _ = 0 from by rw [hN]; omega)
  rw [raw_System N E.1.1, decodeSystem, E.1.2.2.2.2]
  simp only [zeros, fldReg, fin_ofNat, bv_ofNat, E.1, s0, reduceIte]

theorem fenceAcqDie : Statement .fenceAcqDie := by
  refine of_19_14_9_0 rfl 0 0 0 0 34 (by decide) (by decide) (by decide) (by decide) (by decide) (by simp only [asm]; omega) fun hform N hN E => ?_
  have s0 := (fld_fld N 9 15 30 (by decide)).trans (show _ = 0 from by rw [hN]; omega)
  rw [raw_System N E.1.1, decodeSystem, E.1.2.2.2.2]
  simp only [zeros, fldReg, fin_ofNat, bv_ofNat, E.1, s0, reduceIte]

theorem fenceAcqPkg : Statement .fenceAcqPkg := by
  refine of_19_14_9_0 rfl 0 0 0 0 35 (by decide) (by decide) (by decide) (by decide) (by decide) (by simp only [asm]; omega) fun hform N hN E => ?_
  have s0 := (fld_fld N 9 15 30 (by decide)).trans (show _ = 0 from by rw [hN]; omega)
  rw [raw_System N E.1.1, decodeSystem, E.1.2.2.2.2]
  simp only [zeros, fldReg, fin_ofNat, bv_ofNat, E.1, s0, reduceIte]

theorem fenceAcqSys : Statement .fenceAcqSys := by
  refine of_19_14_9_0 rfl 0 0 0 0 36 (by decide) (by decide) (by decide) (by decide) (by decide) (by simp only [asm]; omega) fun hform N hN E => ?_
  have s0 := (fld_fld N 9 15 30 (by decide)).trans (show _ = 0 from by rw [hN]; omega)
  rw [raw_System N E.1.1, decodeSystem, E.1.2.2.2.2]
  simp only [zeros, fldReg, fin_ofNat, bv_ofNat, E.1, s0, reduceIte]

theorem fenceRelCore : Statement .fenceRelCore := by
  refine of_19_14_9_0 rfl 0 0 0 0 40 (by decide) (by decide) (by decide) (by decide) (by decide) (by simp only [asm]; omega) fun hform N hN E => ?_
  have s0 := (fld_fld N 9 15 30 (by decide)).trans (show _ = 0 from by rw [hN]; omega)
  rw [raw_System N E.1.1, decodeSystem, E.1.2.2.2.2]
  simp only [zeros, fldReg, fin_ofNat, bv_ofNat, E.1, s0, reduceIte]

theorem fenceRelFloe : Statement .fenceRelFloe := by
  refine of_19_14_9_0 rfl 0 0 0 0 41 (by decide) (by decide) (by decide) (by decide) (by decide) (by simp only [asm]; omega) fun hform N hN E => ?_
  have s0 := (fld_fld N 9 15 30 (by decide)).trans (show _ = 0 from by rw [hN]; omega)
  rw [raw_System N E.1.1, decodeSystem, E.1.2.2.2.2]
  simp only [zeros, fldReg, fin_ofNat, bv_ofNat, E.1, s0, reduceIte]

theorem fenceRelDie : Statement .fenceRelDie := by
  refine of_19_14_9_0 rfl 0 0 0 0 42 (by decide) (by decide) (by decide) (by decide) (by decide) (by simp only [asm]; omega) fun hform N hN E => ?_
  have s0 := (fld_fld N 9 15 30 (by decide)).trans (show _ = 0 from by rw [hN]; omega)
  rw [raw_System N E.1.1, decodeSystem, E.1.2.2.2.2]
  simp only [zeros, fldReg, fin_ofNat, bv_ofNat, E.1, s0, reduceIte]

theorem fenceRelPkg : Statement .fenceRelPkg := by
  refine of_19_14_9_0 rfl 0 0 0 0 43 (by decide) (by decide) (by decide) (by decide) (by decide) (by simp only [asm]; omega) fun hform N hN E => ?_
  have s0 := (fld_fld N 9 15 30 (by decide)).trans (show _ = 0 from by rw [hN]; omega)
  rw [raw_System N E.1.1, decodeSystem, E.1.2.2.2.2]
  simp only [zeros, fldReg, fin_ofNat, bv_ofNat, E.1, s0, reduceIte]

theorem fenceRelSys : Statement .fenceRelSys := by
  refine of_19_14_9_0 rfl 0 0 0 0 44 (by decide) (by decide) (by decide) (by decide) (by decide) (by simp only [asm]; omega) fun hform N hN E => ?_
  have s0 := (fld_fld N 9 15 30 (by decide)).trans (show _ = 0 from by rw [hN]; omega)
  rw [raw_System N E.1.1, decodeSystem, E.1.2.2.2.2]
  simp only [zeros, fldReg, fin_ofNat, bv_ofNat, E.1, s0, reduceIte]

theorem fenceScCore : Statement .fenceScCore := by
  refine of_19_14_9_0 rfl 0 0 0 0 48 (by decide) (by decide) (by decide) (by decide) (by decide) (by simp only [asm]; omega) fun hform N hN E => ?_
  have s0 := (fld_fld N 9 15 30 (by decide)).trans (show _ = 0 from by rw [hN]; omega)
  rw [raw_System N E.1.1, decodeSystem, E.1.2.2.2.2]
  simp only [zeros, fldReg, fin_ofNat, bv_ofNat, E.1, s0, reduceIte]

theorem fenceScFloe : Statement .fenceScFloe := by
  refine of_19_14_9_0 rfl 0 0 0 0 49 (by decide) (by decide) (by decide) (by decide) (by decide) (by simp only [asm]; omega) fun hform N hN E => ?_
  have s0 := (fld_fld N 9 15 30 (by decide)).trans (show _ = 0 from by rw [hN]; omega)
  rw [raw_System N E.1.1, decodeSystem, E.1.2.2.2.2]
  simp only [zeros, fldReg, fin_ofNat, bv_ofNat, E.1, s0, reduceIte]

theorem fenceScDie : Statement .fenceScDie := by
  refine of_19_14_9_0 rfl 0 0 0 0 50 (by decide) (by decide) (by decide) (by decide) (by decide) (by simp only [asm]; omega) fun hform N hN E => ?_
  have s0 := (fld_fld N 9 15 30 (by decide)).trans (show _ = 0 from by rw [hN]; omega)
  rw [raw_System N E.1.1, decodeSystem, E.1.2.2.2.2]
  simp only [zeros, fldReg, fin_ofNat, bv_ofNat, E.1, s0, reduceIte]

theorem fenceScPkg : Statement .fenceScPkg := by
  refine of_19_14_9_0 rfl 0 0 0 0 51 (by decide) (by decide) (by decide) (by decide) (by decide) (by simp only [asm]; omega) fun hform N hN E => ?_
  have s0 := (fld_fld N 9 15 30 (by decide)).trans (show _ = 0 from by rw [hN]; omega)
  rw [raw_System N E.1.1, decodeSystem, E.1.2.2.2.2]
  simp only [zeros, fldReg, fin_ofNat, bv_ofNat, E.1, s0, reduceIte]

theorem fenceScSys : Statement .fenceScSys := by
  refine of_19_14_9_0 rfl 0 0 0 0 52 (by decide) (by decide) (by decide) (by decide) (by decide) (by simp only [asm]; omega) fun hform N hN E => ?_
  have s0 := (fld_fld N 9 15 30 (by decide)).trans (show _ = 0 from by rw [hN]; omega)
  rw [raw_System N E.1.1, decodeSystem, E.1.2.2.2.2]
  simp only [zeros, fldReg, fin_ofNat, bv_ofNat, E.1, s0, reduceIte]

theorem lunpin : Statement .lunpin := by
  refine of_19_14_12_0 rfl 13 0 0 2 0 (by decide) (by decide) (by decide) (by decide) (by decide) (by simp only [asm]; omega) fun hform N hN E => ?_
  have s0 := (fld_fld N 14 10 30 (by decide)).trans (show _ = 0 from by rw [hN]; omega)
  rw [raw_Rep N E.1.1, decodeRep, E.1.2.2.2.1]
  simp only [zeros, fldReg, fin_ofNat, bv_ofNat, E.1, s0, reduceIte]

theorem vfree : Statement .vfree := by
  refine of_22_19_14_9_0 rfl 48 0 0 0 0 1 (by decide) (by decide) (by decide) (by decide) (by decide) (by decide) (by simp only [asm]; omega) fun hform N hN E => ?_
  have s0 := (fld_fld N 9 15 30 (by decide)).trans (show _ = 0 from by rw [hN]; omega)
  have s1 := (fld_fld N 9 10 30 (by decide)).trans (show _ = 0 from by rw [hN]; omega)
  have s2 := (fld_fld N 19 5 30 (by decide)).trans (show _ = 0 from by rw [hN]; omega)
  rw [raw_VCtl N E.1.1, decodeVCtl, E.1.2.2.2.2.2]
  simp only [zeros, fldReg, fin_ofNat, bv_ofNat, E.1, s0, s1, s2, reduceIte]

theorem powerOn : Statement .powerOn := of_none rfl
theorem bootlen : Statement .bootlen := of_none rfl
theorem imageVerification : Statement .imageVerification := of_none rfl
theorem deviceReset : Statement .deviceReset := of_none rfl
theorem hostLinkDown : Statement .hostLinkDown := of_none rfl
theorem hostLinkUp : Statement .hostLinkUp := of_none rfl
theorem hostWrite : Statement .hostWrite := of_none rfl
theorem hostRead : Statement .hostRead := of_none rfl
theorem ringtail : Statement .ringtail := of_none rfl
theorem ringEnable : Statement .ringEnable := of_none rfl
theorem ringDisable : Statement .ringDisable := of_none rfl
theorem registerWrite : Statement .registerWrite := of_none rfl
theorem ckptctlGo : Statement .ckptctlGo := of_none rfl
theorem checkpointComplete : Statement .checkpointComplete := of_none rfl
theorem replaygo : Statement .replaygo := of_none rfl
theorem replayPassEnd : Statement .replayPassEnd := of_none rfl
theorem attgo : Statement .attgo := of_none rfl
theorem attestationReport : Statement .attestationReport := of_none rfl
theorem debugHalt : Statement .debugHalt := of_none rfl
theorem debugResume : Statement .debugResume := of_none rfl
theorem debugStep : Statement .debugStep := of_none rfl
theorem debugStepDone : Statement .debugStepDone := of_none rfl
theorem launch : Statement .launch := of_none rfl
theorem waitOnObject : Statement .waitOnObject := of_none rfl
theorem signalArrival : Statement .signalArrival := of_none rfl
theorem signalCntAdd : Statement .signalCntAdd := of_none rfl
theorem routerConfigSet : Statement .routerConfigSet := of_none rfl
theorem routerConfigGet : Statement .routerConfigGet := of_none rfl
theorem routerConfigClear : Statement .routerConfigClear := of_none rfl
theorem timeStep : Statement .timeStep := of_none rfl
theorem timeSlew : Statement .timeSlew := of_none rfl
theorem changeAttribute : Statement .changeAttribute := of_none rfl
theorem compress : Statement .compress := of_none rfl
theorem shootDown : Statement .shootDown := of_none rfl
theorem mmRequestComplete : Statement .mmRequestComplete := of_none rfl
theorem shootdownComplete : Statement .shootdownComplete := of_none rfl
theorem launchAccept : Statement .launchAccept := of_none rfl
theorem launchStart : Statement .launchStart := of_none rfl
theorem launchComplete : Statement .launchComplete := of_none rfl
theorem preemption : Statement .preemption := of_none rfl
theorem preemptionSave : Statement .preemptionSave := of_none rfl
theorem restore : Statement .restore := of_none rfl
theorem recordTakeUp : Statement .recordTakeUp := of_none rfl
theorem floePoolMigration : Statement .floePoolMigration := of_none rfl
theorem pauseExpire : Statement .pauseExpire := of_none rfl
theorem stallCountExpire : Statement .stallCountExpire := of_none rfl
theorem resultLand : Statement .resultLand := of_none rfl
theorem ptsTick : Statement .ptsTick := of_none rfl
theorem wakeupMessage : Statement .wakeupMessage := of_none rfl
theorem xstatGo : Statement .xstatGo := of_none rfl
theorem walkComplete : Statement .walkComplete := of_none rfl
theorem expansionComplete : Statement .expansionComplete := of_none rfl
theorem rimeFold : Statement .rimeFold := of_none rfl
theorem copyStart : Statement .copyStart := of_none rfl
theorem copyRingTile : Statement .copyRingTile := of_none rfl
theorem copyComplete : Statement .copyComplete := of_none rfl
theorem streamFetch : Statement .streamFetch := of_none rfl
theorem streamPushWrite : Statement .streamPushWrite := of_none rfl
theorem taskDispatch : Statement .taskDispatch := of_none rfl
theorem limiterStep : Statement .limiterStep := of_none rfl
theorem taskRetire : Statement .taskRetire := of_none rfl
theorem drainRetire : Statement .drainRetire := of_none rfl
theorem zeroTaskRetire : Statement .zeroTaskRetire := of_none rfl
theorem objectMigration : Statement .objectMigration := of_none rfl
theorem blockForward : Statement .blockForward := of_none rfl
theorem groupReport : Statement .groupReport := of_none rfl
theorem blockAdmit : Statement .blockAdmit := of_none rfl
theorem planReservation : Statement .planReservation := of_none rfl
theorem collectiveStep : Statement .collectiveStep := of_none rfl
theorem slotFreeNotice : Statement .slotFreeNotice := of_none rfl
theorem reductionWindowComplete : Statement .reductionWindowComplete := of_none rfl
theorem chunkDelivery : Statement .chunkDelivery := of_none rfl
theorem collectiveDecided : Statement .collectiveDecided := of_none rfl
theorem collectiveTimeout : Statement .collectiveTimeout := of_none rfl
theorem abortWord : Statement .abortWord := of_none rfl
theorem memberLossWord : Statement .memberLossWord := of_none rfl
theorem flitReceive : Statement .flitReceive := of_none rfl
theorem retryRequest : Statement .retryRequest := of_none rfl
theorem ackTimeout : Statement .ackTimeout := of_none rfl
theorem linkRetrainDone : Statement .linkRetrainDone := of_none rfl
theorem nodeLost : Statement .nodeLost := of_none rfl
theorem nodeLeave : Statement .nodeLeave := of_none rfl
theorem nodeReadmit : Statement .nodeReadmit := of_none rfl
theorem runBegin : Statement .runBegin := of_none rfl
theorem biddingRound : Statement .biddingRound := of_none rfl
theorem routerCompletion : Statement .routerCompletion := of_none rfl
theorem routerRunEnd : Statement .routerRunEnd := of_none rfl
theorem timeReferenceLost : Statement .timeReferenceLost := of_none rfl
theorem timeRelock : Statement .timeRelock := of_none rfl
theorem scrub : Statement .scrub := of_none rfl
theorem illegalInstruction : Statement .illegalInstruction := of_none rfl
theorem peerPackageAccess : Statement .peerPackageAccess := of_none rfl
theorem tenantReconfiguration : Statement .tenantReconfiguration := of_none rfl
theorem negativeStepAbsorbed : Statement .negativeStepAbsorbed := of_none rfl
theorem islandPowerGating : Statement .islandPowerGating := of_none rfl
theorem bootStagingWrite : Statement .bootStagingWrite := of_none rfl

end Sys2Proof.Laws.RoundTrip
end

