-- ==== Sys2Proof/Tests/Slice0.lean ====
section
/-! SUPPORT. Tests: each check of `WellFormed` refuses an ill-formed term, every instruction is decoded from a word
assembled from the fields of spec/opcode_table.json, small results are those of the spec's rules, and every obligation's
hypotheses are met together by a concrete state. -/

section

open Sys2Proof Sys2Proof.Machine

set_option linter.unusedVariables false
set_option Elab.async false

/-! ### Small states -/

namespace Test

/-- Registers with the listed values, the others 0. -/
def regs (l : List (Nat × Word)) : Vector Word 32 := Vector.ofFn fun r => (look l r.val).getD 0

/-- A thread in slot 0 of core 0. -/
def user (l : List (Nat × Word)) : Thread := { Thread.idle 0 0 with live := true, tid := 1, pc := 0x10000, x := regs l }

/-- A page of 64 KiB at 0x10000 with an attribute, owned by core 0. -/
def page (attr : Nat) : Nat × Plb := (0, ⟨.k64, 1, 0x100000#52, 0, attr, 0⟩)

/-- A clean sector of that page at its L2 home. -/
def homed (sector : Nat) : Copy2 := ⟨sector, 0x100000 + (sector - 512) * 128, [], .hd, false⟩

/-- The whole package is one tenant's; core 0 runs one thread, whose page at 0x10000 has an attribute (0 HC, 1 SWC) and has
sectors at their L2 homes. -/
def st (attr : Nat) (l : List (Nat × Word)) : State :=
  { State.reset with
    th := user l
    lp := { LaunchSys.reset with tenants := [wholeTenant] }
    mem := { MemSys.reset with plb := [page attr], l2 := [512, 513, 514, 515, 516, 1008, 1023].map homed } }

theorem settled {t : Thread} (h : t.pend = []) (rs : List Nat) : Settled t rs := by simp [Settled, h]

theorem access {s : State} {nd : Need} {a n key : Nat} {cls : Cls} (ha : a % n = 0)
    (hr : resolve s s.th.core s.tenant nd a n = .ok key cls) (hb : badRead s a key n cls = false) (hd : s.host.dbg = []) :
    CanAccess s nd a n key cls := ⟨⟨ha, hr, by simp [hd]⟩, fun _ => hb⟩

theorem accessHome {s : State} {nd : Need} {a n key : Nat} {cls : Cls} (ha : a % n = 0)
    (hr : resolve s s.th.core s.tenant nd a n = .ok key cls) (hn : needsHome s a key cls = false)
    (hb : badHome s a key n = false) (hd : s.host.dbg = []) :
    CanAccessHome s nd a n key cls := ⟨⟨ha, hr, by simp [hd]⟩, hn, fun _ => hb⟩

end Test

open Test

/-! ### Well-formedness: an ill-formed term for each check -/

/-- Whether version 3 accepts a form. -/
def Test.ok3 (i : Instr) : Bool := wellFormed 3 ⟨0, i⟩

theorem test_refuses_rep_0 : ok3 (.rep 1 0) = false ∧ ok3 (.rep 1 1) = true := by decide
theorem test_refuses_lpin : ok3 (.lpin 0) = false ∧ ok3 (.lpin 129) = false ∧ ok3 (.lpin 128) = true := by decide
theorem test_refuses_fcvt_int_to_int : ok3 (.fcvt 1 2 .i64 .rne .n32) = false ∧ ok3 (.fcvt 1 2 .i64 .rne .f32) = true := by decide
theorem test_refuses_red_formats :
    ok3 (.redAdd 1 2 .hd .e4m3) = false ∧ ok3 (.redMin 1 2 .hd .qg8) = false ∧ ok3 (.redMax 1 2 .hd .e8m0) = false ∧
      ok3 (.redAdd 1 2 .hd .i8) = true := by decide
theorem test_refuses_narrow_indexed : ok3 (.vldx 1 2 3 0 .hd .w8) = false ∧ ok3 (.vstx 1 2 3 0 .hd .w16) = false := by decide
theorem test_refuses_integer_rounding :
    ok3 (.vredsum 1 2 .rz 0 .i32) = false ∧ ok3 (.vscan 1 2 .sr 0 .n64) = false ∧ ok3 (.vscanx 1 2 .dyn 0 .i64) = false := by
  decide
theorem test_refuses_vsel_m0 : ok3 (.vsel 1 2 3 0 .w32) = false := by decide
theorem test_refuses_vcvt_pairs :
    ok3 (.vcvt 1 2 .i8 .rne 0 .i16) = false ∧ ok3 (.vcvt 1 2 .e4m3 .rne 0 .e5m2) = false ∧ ok3 (.vcvt 1 2 .qg8 .rne 0 .fp32) = false ∧
      ok3 (.vcvt 1 2 .e8m0 .rne 0 .fp32) = true := by decide
theorem test_refuses_vcvt_nsat : ok3 (.vcvtNsat 1 2 .rne 0 .e4m3) = false := by decide
theorem test_refuses_mx_formats : ok3 (.vmxcvt 1 2 3 0 .fp16) = false ∧ ok3 (.vmxext 1 2 3 0 .i8) = false := by decide
theorem test_refuses_qg_formats : ok3 (.vqcvt 1 2 3 0 .qg8) = false ∧ ok3 (.vqgext 1 2 3 0 .i8) = false := by decide
theorem test_refuses_config_numbers : ok3 (.mxCfg 1 2) = false ∧ ok3 (.cpSet 1 7) = false ∧ ok3 (.cpGet 1 7) = true := by decide
theorem test_refuses_versions :
    wellFormed 1 ⟨1, .add 1 2 3⟩ = false ∧ wellFormed 2 ⟨1, .add 1 2 3⟩ = true ∧ wellFormed 2 ⟨0, .rimeFree 1 2⟩ = false ∧
      wellFormed 3 ⟨0, .rimeFree 1 2⟩ = true := by decide

/-! ### Decoding: a word of each instruction, assembled from the fields of spec/opcode_table.json -/

theorem test_decode_system :
  decode 3 0x80000001 = some ⟨2, .exit⟩ ∧
  decode 3 0xC0000002 = some ⟨3, .yield⟩ ∧
  decode 3 0x80000005 = some ⟨2, .brk⟩ ∧
  decode 3 0x80000020 = some ⟨2, .fenceAcqCore⟩ ∧
  decode 3 0x80000021 = some ⟨2, .fenceAcqFloe⟩ ∧
  decode 3 0x80000022 = some ⟨2, .fenceAcqDie⟩ ∧
  decode 3 0x80000023 = some ⟨2, .fenceAcqPkg⟩ ∧
  decode 3 0x80000024 = some ⟨2, .fenceAcqSys⟩ ∧
  decode 3 0x00000028 = some ⟨0, .fenceRelCore⟩ ∧
  decode 3 0x00000029 = some ⟨0, .fenceRelFloe⟩ ∧
  decode 3 0x0000002A = some ⟨0, .fenceRelDie⟩ ∧
  decode 3 0x0000002B = some ⟨0, .fenceRelPkg⟩ ∧
  decode 3 0x0000002C = some ⟨0, .fenceRelSys⟩ ∧
  decode 3 0xC0000030 = some ⟨3, .fenceScCore⟩ ∧
  decode 3 0xC0000031 = some ⟨3, .fenceScFloe⟩ ∧
  decode 3 0xC0000032 = some ⟨3, .fenceScDie⟩ ∧
  decode 3 0xC0000033 = some ⟨3, .fenceScPkg⟩ ∧
  decode 3 0xC0000034 = some ⟨3, .fenceScSys⟩ ∧
  decode 3 0x00036203 = some ⟨0, .susp 13 17⟩ ∧
  decode 3 0xC0554004 = some ⟨3, .spawn 10 21⟩ := by
  decide +kernel

theorem test_decode_immediate_and_csr :
  decode 3 0x410002A6 = some ⟨1, .pause 0x2a6⟩ ∧
  decode 3 0x01082D94 = some ⟨0, .sys 0x2d94⟩ ∧
  decode 3 0x82889605 = some ⟨2, .csrrs 17 2 0x605⟩ ∧
  decode 3 0xC2964F6C = some ⟨3, .csrrw 18 25 0xf6c⟩ ∧
  decode 3 0x82E8EB79 = some ⟨2, .csrrc 29 3 0xb79⟩ := by
  decide +kernel

theorem test_decode_control :
  decode 3 0xC300C209 = some ⟨3, .j 0xc209⟩ ∧
  decode 3 0xC4352945 = some ⟨3, .jal 0x352945⟩ ∧
  decode 3 0xC56077EE = some ⟨3, .jalr 12 1 0x37ee⟩ ∧
  decode 3 0x869A8AA7 = some ⟨2, .beq 19 10 0xaa7⟩ ∧
  decode 3 0x072F2555 = some ⟨0, .bne 5 28 0x2555⟩ ∧
  decode 3 0x085D4B3B = some ⟨0, .blt 11 21 0xb3b⟩ ∧
  decode 3 0x49646902 = some ⟨1, .bge 12 17 0x2902⟩ ∧
  decode 3 0x4A263792 = some ⟨1, .bltu 4 24 0x3792⟩ ∧
  decode 3 0x0BD2EE12 = some ⟨0, .bgeu 26 11 0x2e12⟩ ∧
  decode 3 0x4C160838 = some ⟨1, .bbc 2 0x30 0x838⟩ ∧
  decode 3 0x4C77375C = some ⟨1, .bbs 14 0x39 0x75c⟩ ∧
  decode 3 0x8D001080 = some ⟨2, .lpin 0x80⟩ ∧
  decode 3 0x8D002000 = some ⟨2, .lunpin⟩ ∧
  decode 3 0x0D03C0FE = some ⟨0, .rep 15 0xfe⟩ := by
  decide +kernel

theorem test_decode_integer :
  decode 3 0xD001E00B = some ⟨3, .max 0 7 16⟩ ∧
  decode 3 0x900B0A10 = some ⟨2, .addw 1 12 5⟩ ∧
  decode 3 0x100D0404 = some ⟨0, .xor 1 20 2⟩ ∧
  decode 3 0xD01C1C08 = some ⟨3, .slt 3 16 14⟩ ∧
  decode 3 0x102A180D = some ⟨0, .maxu 5 8 12⟩ ∧
  decode 3 0xD02F0607 = some ⟨3, .sra 5 28 3⟩ ∧
  decode 3 0x50320021 = some ⟨1, .ctz 6 8⟩ ∧
  decode 3 0x503F0022 = some ⟨1, .popc 7 28⟩ ∧
  decode 3 0xD0466E0C = some ⟨3, .minu 8 25 23⟩ ∧
  decode 3 0x504C4405 = some ⟨1, .sll 9 17 2⟩ ∧
  decode 3 0x90504001 = some ⟨2, .sub 10 1 0⟩ ∧
  decode 3 0x905F5E0A = some ⟨2, .min 11 29 15⟩ ∧
  decode 3 0x50697000 = some ⟨1, .add 13 5 24⟩ ∧
  decode 3 0x106A4020 = some ⟨0, .clz 13 9⟩ ∧
  decode 3 0x9093BA06 = some ⟨2, .srl 18 14 29⟩ ∧
  decode 3 0x509FBE14 = some ⟨1, .sraw 19 30 31⟩ ∧
  decode 3 0x90AF8E12 = some ⟨2, .sllw 21 30 7⟩ ∧
  decode 3 0x10D1C013 = some ⟨0, .srlw 26 7 0⟩ ∧
  decode 3 0xD0D89209 = some ⟨3, .sltu 27 2 9⟩ ∧
  decode 3 0xD0DAFA11 = some ⟨3, .subw 27 11 29⟩ ∧
  decode 3 0xD0E1D802 = some ⟨3, .and 28 7 12⟩ ∧
  decode 3 0x50E9F003 = some ⟨1, .or 29 7 24⟩ := by
  decide +kernel

theorem test_decode_multiply_divide :
  decode 3 0x5102220E = some ⟨1, .remw 0 8 17⟩ ∧
  decode 3 0x110A3A01 = some ⟨0, .mulh 1 8 29⟩ ∧
  decode 3 0x512B0207 = some ⟨1, .remu 5 12 1⟩ ∧
  decode 3 0xD12B2200 = some ⟨3, .mul 5 12 17⟩ ∧
  decode 3 0xD161600D = some ⟨3, .divuw 12 5 16⟩ ∧
  decode 3 0x1168700F = some ⟨0, .remuw 13 1 24⟩ ∧
  decode 3 0xD184BC04 = some ⟨3, .div 16 18 30⟩ ∧
  decode 3 0x1191B805 = some ⟨0, .divu 18 6 28⟩ ∧
  decode 3 0xD1A08002 = some ⟨3, .mulhu 20 2 0⟩ ∧
  decode 3 0x51A5A406 = some ⟨1, .rem 20 22 18⟩ ∧
  decode 3 0x11B8980C = some ⟨0, .divw 23 2 12⟩ ∧
  decode 3 0xD1B8A803 = some ⟨3, .mulhsu 23 2 20⟩ ∧
  decode 3 0x51F9B608 = some ⟨1, .mulw 31 6 27⟩ := by
  decide +kernel

theorem test_decode_integer_immediate :
  decode 3 0x526E54CB = some ⟨1, .addi 13 25 0x14cb⟩ ∧
  decode 3 0xD3BBA4E9 = some ⟨3, .andi 23 14 0x24e9⟩ ∧
  decode 3 0x540D2E5F = some ⟨1, .ori 1 20 0x2e5f⟩ ∧
  decode 3 0x954C78FD = some ⟨2, .xori 9 17 0x38fd⟩ ∧
  decode 3 0x169297B2 = some ⟨0, .slti 18 10 0x17b2⟩ ∧
  decode 3 0xD7B49018 = some ⟨3, .srli 22 18 0x18⟩ ∧
  decode 3 0x57CAC03F = some ⟨1, .slli 25 11 0x3f⟩ ∧
  decode 3 0x97FAE033 = some ⟨2, .srai 31 11 0x33⟩ ∧
  decode 3 0xD896F368 = some ⟨3, .lui 18 0x6f368⟩ ∧
  decode 3 0x5945ABAD = some ⟨1, .auipc 8 0x5abad⟩ := by
  decide +kernel

theorem test_decode_scalar_float :
  decode 3 0x1A040084 = some ⟨0, .fsqrt 0 16 .rdn .f64⟩ ∧
  decode 3 0x9A282895 = some ⟨2, .fma 5 0 20 .rdn .f16⟩ ∧
  decode 3 0x9A427296 = some ⟨2, .feq 8 9 25 .f16⟩ ∧
  decode 3 0xDA5C4D1F = some ⟨3, .fcvt 11 17 .i32 .sr .bf16⟩ ∧
  decode 3 0x1A6D7C5B = some ⟨0, .fdiv 13 21 30 .rz .bf16⟩ ∧
  decode 3 0x9A75790E = some ⟨2, .fle 14 21 28 .f32⟩ ∧
  decode 3 0x9A80B000 = some ⟨2, .fadd 16 2 24 .rne .f64⟩ ∧
  decode 3 0x1A85BCCE = some ⟨0, .flt 16 22 30 .f32⟩ ∧
  decode 3 0x5AB69E16 = some ⟨1, .fmin 22 26 15 .f16⟩ ∧
  decode 3 0x5AB981C1 = some ⟨1, .fsub 23 6 0 .dyn .f64⟩ ∧
  decode 3 0x1AC2E282 = some ⟨0, .fmul 24 11 17 .rdn .f64⟩ ∧
  decode 3 0x1AE9E04E = some ⟨0, .fmax 29 7 16 .f32⟩ := by
  decide +kernel

theorem test_decode_load_store :
  decode 3 0x9C007855 = some ⟨2, .pf 1 .hd 0x55⟩ ∧
  decode 3 0xDC7F6E2E = some ⟨3, .ld 15 29 .n16 .hb 0x2e⟩ ∧
  decode 3 0x5D81938F = some ⟨1, .st 16 6 .i32 .hs 0x18f⟩ := by
  decide +kernel

theorem test_decode_atomic :
  decode 3 0x1E011632 = some ⟨0, .stRel 4 11 .hd .i64 .die⟩ ∧
  decode 3 0x1E0C2C45 = some ⟨0, .amoand 1 16 22 .hd .i64⟩ ∧
  decode 3 0x1E1A3B6A = some ⟨0, .famoadd 3 8 29 .hk .f16⟩ ∧
  decode 3 0x1E504060 = some ⟨0, .amoswap 10 1 0 .hd .i32⟩ ∧
  decode 3 0x9E6960E4 = some ⟨2, .amocas 13 5 16 .hs .i32⟩ ∧
  decode 3 0x9E848441 = some ⟨2, .amoadd 16 18 2 .hd .i64⟩ ∧
  decode 3 0x9E98810A = some ⟨2, .ldAcq 19 2 .hk .n32 .die⟩ ∧
  decode 3 0x5EAAA35C = some ⟨1, .amomaxu 21 10 17 .hk .i32⟩ ∧
  decode 3 0x5EB2AB50 = some ⟨1, .amomin 22 10 21 .hk .i32⟩ ∧
  decode 3 0x9EC6C759 = some ⟨2, .amominu 24 27 3 .hk .i64⟩ ∧
  decode 3 0xDEE0F04C = some ⟨3, .amoxor 28 3 24 .hd .i32⟩ ∧
  decode 3 0x1EEDD4D5 = some ⟨0, .amomax 29 23 10 .hs .i64⟩ ∧
  decode 3 0xDEEFEFC9 = some ⟨3, .amoor 29 31 23 .hb .i64⟩ := by
  decide +kernel

theorem test_decode_reduce_and_cache :
  decode 3 0x5F005074 = some ⟨1, .cwbinv 1 8 .sys⟩ ∧
  decode 3 0x9F00581B = some ⟨2, .redMin 1 12 .hd .i8⟩ ∧
  decode 3 0x5F01E803 = some ⟨1, .redAdd 7 20 .hd .bf16⟩ ∧
  decode 3 0xDF02A2AD = some ⟨3, .redMax 10 17 .hs .i32⟩ ∧
  decode 3 0x1F050C51 = some ⟨0, .cwb 20 6 .floe⟩ ∧
  decode 3 0x9F064664 = some ⟨2, .cinv 25 3 .sys⟩ := by
  decide +kernel

theorem test_decode_vector_memory :
  decode 3 0x6001E8AB = some ⟨1, .vldx 0 7 20 2 .hk .w64⟩ ∧
  decode 3 0x207C418F = some ⟨0, .vldl 15 17 6 .hd .w64⟩ ∧
  decode 3 0x6089B1C7 = some ⟨1, .vlds 17 6 24 7 .hd .w64⟩ ∧
  decode 3 0x209681E3 = some ⟨0, .vld 18 26 7 .hk .w64⟩ ∧
  decode 3 0x611E1F7B = some ⟨1, .vstx 3 24 15 5 .hb .w64⟩ ∧
  decode 3 0x2162416E = some ⟨0, .vstl 12 9 5 .hk .w32⟩ ∧
  decode 3 0xA1684000 = some ⟨2, .vst 13 1 0 .hd .w8⟩ ∧
  decode 3 0x61978614 = some ⟨1, .vsts 18 30 3 0 .hs .w8⟩ := by
  decide +kernel

theorem test_decode_vector_integer :
  decode 3 0x621F2781 = some ⟨1, .vadd 3 28 19 6 .i16⟩ ∧
  decode 3 0xA226164D = some ⟨2, .vsub 4 24 11 1 .n16⟩ ∧
  decode 3 0xA2291622 = some ⟨2, .vmin 5 4 11 0 .i32⟩ ∧
  decode 3 0xE25D74D5 = some ⟨3, .vmul 11 21 26 3 .n16⟩ ∧
  decode 3 0xA260699A = some ⟨2, .vmulh 12 1 20 6 .i32⟩ ∧
  decode 3 0xE27676ED = some ⟨3, .vmax 14 25 27 3 .n16⟩ ∧
  decode 3 0x627D5D77 = some ⟨1, .vadds 15 21 14 5 .n64⟩ ∧
  decode 3 0x22ACACBB = some ⟨0, .vsubs 21 18 22 2 .i64⟩ ∧
  decode 3 0xA301E98A = some ⟨2, .vor 0 7 20 6 .i32⟩ ∧
  decode 3 0x633A125C = some ⟨1, .vsll 7 8 9 1 .n8⟩ ∧
  decode 3 0xE35D74E5 = some ⟨3, .vsr 11 21 26 3 .n16⟩ ∧
  decode 3 0x237B5254 = some ⟨0, .vxor 15 13 9 1 .n8⟩ ∧
  decode 3 0xE3978E03 = some ⟨3, .vand 18 30 7 0 .i64⟩ ∧
  decode 3 0x63D3F3F4 = some ⟨1, .vrem 26 15 25 7 .n8⟩ ∧
  decode 3 0xE3F2EAAA = some ⟨3, .vdiv 30 11 21 2 .i32⟩ := by
  decide +kernel

theorem test_decode_vector_float :
  decode 3 0xE4454506 = some ⟨3, .vfnma .f64 8 21 2 4 .rne⟩ ∧
  decode 3 0xE47A5B59 = some ⟨3, .vfsub .f64 15 9 13 5 .rup⟩ ∧
  decode 3 0xA484B5D7 = some ⟨2, .vfeq .f64 16 18 26 7⟩ ∧
  decode 3 0xA56179E7 = some ⟨2, .vfle .f32 12 5 28 7⟩ ∧
  decode 3 0xA5764F0F = some ⟨2, .vfmax .f32 14 25 7 4⟩ ∧
  decode 3 0xA57776EF = some ⟨2, .vfun .f32 14 29 27 3⟩ ∧
  decode 3 0x257D7DDF = some ⟨0, .vflt .f32 15 21 30 7⟩ ∧
  decode 3 0xA5E1C805 = some ⟨2, .vfms .f32 28 7 4 0 .rne⟩ ∧
  decode 3 0xA5E5DD43 = some ⟨2, .vfdiv .f32 28 23 14 5 .rne⟩ ∧
  decode 3 0x66100037 = some ⟨1, .vfabs .f16 2 0 0⟩ ∧
  decode 3 0x265C4510 = some ⟨0, .vfadd .f16 11 17 2 4 .rdn⟩ ∧
  decode 3 0xA7160F0A = some ⟨2, .vfmul .bf16 2 24 7 4 .rz⟩ ∧
  decode 3 0xE799A987 = some ⟨3, .vfmin .bf16 19 6 20 6⟩ ∧
  decode 3 0xA7A0803F = some ⟨2, .vfneg .bf16 20 2 0⟩ ∧
  decode 3 0xA7CFE69C = some ⟨2, .vfma .bf16 25 31 19 2 .rup⟩ ∧
  decode 3 0x28130A58 = some ⟨0, .vfexp 2 12 1 .rup .f64⟩ ∧
  decode 3 0x284D50B9 = some ⟨0, .vfsigm 9 21 2 .dyn .f32⟩ ∧
  decode 3 0x2851410A = some ⟨0, .vfsqrt 10 5 4 .rz .f16⟩ ∧
  decode 3 0xE87447A3 = some ⟨3, .vfexp2 14 17 6 .sr .bf16⟩ ∧
  decode 3 0xE87D439B = some ⟨3, .vfrcp 15 21 6 .rup .bf16⟩ ∧
  decode 3 0xA88A9562 = some ⟨2, .vfcos 17 10 5 .sr .f16⟩ ∧
  decode 3 0xE88B8E58 = some ⟨3, .vftanh 17 14 1 .rup .f64⟩ ∧
  decode 3 0xA89A8840 = some ⟨2, .vflog2 19 10 1 .rne .f64⟩ ∧
  decode 3 0x68A29250 = some ⟨1, .vfsin 20 10 1 .rdn .f64⟩ ∧
  decode 3 0xA8C9CD0A = some ⟨2, .vflog 25 7 4 .rz .f16⟩ ∧
  decode 3 0x68D8C502 = some ⟨1, .vfrsqrt 27 3 4 .rne .f16⟩ := by
  decide +kernel

theorem test_decode_vector_reduction :
  decode 3 0x29140094 = some ⟨0, .vredmin 2 16 2 .i32⟩ ∧
  decode 3 0xE93C0963 = some ⟨3, .vscanx 7 16 .sr 5 .bf16⟩ ∧
  decode 3 0x694B414B = some ⟨1, .vredmax 9 13 5 .bf16⟩ ∧
  decode 3 0x2974491B = some ⟨0, .vscan 14 17 .sr 4 .bf16⟩ ∧
  decode 3 0x698E8EC2 = some ⟨1, .vredsum 17 26 .dyn 3 .f16⟩ ∧
  decode 3 0xEA031A46 = some ⟨3, .vsgsum 0 12 13 1 .i64⟩ ∧
  decode 3 0x6A595029 = some ⟨1, .vsgrefill 11 5 8 .f32⟩ ∧
  decode 3 0xAA999856 = some ⟨2, .vsgmin 19 6 12 1 .i64⟩ ∧
  decode 3 0x6AA4ADA3 = some ⟨1, .vsgbcast 20 18 22 6 .bf16⟩ ∧
  decode 3 0xEAC6E689 = some ⟨3, .vsgmax 24 27 19 2 .f32⟩ ∧
  decode 3 0x6AF4CBDF = some ⟨1, .vsgscan 30 19 5 7 .n64⟩ := by
  decide +kernel

theorem test_decode_permute :
  decode 3 0x2B070E03 = some ⟨0, .vperm 0 28 7 0 .w64⟩ ∧
  decode 3 0x6B0C3C20 = some ⟨1, .vmvxv 1 16 30 .w8⟩ ∧
  decode 3 0xAB3A015A = some ⟨2, .vbcast 7 8 5 .w32⟩ ∧
  decode 3 0x2B7168BA = some ⟨0, .vsel 14 5 20 2 .w32⟩ ∧
  decode 3 0x2B84BC28 = some ⟨0, .vmvvx 16 18 30 .w8⟩ ∧
  decode 3 0x6B8E9F4B = some ⟨1, .vslideup 17 26 15 5 .w64⟩ ∧
  decode 3 0x6BD000F3 = some ⟨1, .vid 26 3 .w64⟩ ∧
  decode 3 0xABF8C110 = some ⟨2, .vslidedn 31 3 0 4 .w8⟩ := by
  decide +kernel

theorem test_decode_conversion :
  decode 3 0x2CC3D8CF = some ⟨0, .vcvt 24 15 .e3m2 .rup 3 .bf16⟩ ∧
  decode 3 0x2D6351C9 = some ⟨0, .vcvtNsat 12 13 .rz 7 .fp16⟩ ∧
  decode 3 0xEE1139EB = some ⟨3, .vqcvt 2 4 28 7 .i8⟩ ∧
  decode 3 0x2E29013A = some ⟨0, .vqgext 5 4 0 4 .qg4⟩ ∧
  decode 3 0xEE40423B = some ⟨3, .vwid4N8N4 8 1 0⟩ ∧
  decode 3 0xAE43467B = some ⟨2, .vnar4N4N8 8 13 1⟩ ∧
  decode 3 0xAE5D6C87 = some ⟨2, .vmxcvt 11 21 22 2 .e2m3⟩ ∧
  decode 3 0xAE647DD7 = some ⟨2, .vmxext 12 17 30 7 .e2m3⟩ ∧
  decode 3 0x6E91853B = some ⟨1, .vnar4I4I8 18 6 4⟩ ∧
  decode 3 0x2E92817B = some ⟨0, .vwid4I8I4 18 10 5⟩ := by
  decide +kernel

theorem test_decode_vector_compare :
  decode 3 0xEF192892 = some ⟨3, .vclt 3 4 20 2 .i32⟩ ∧
  decode 3 0xAF20115C = some ⟨2, .vcge 4 0 8 5 .n8⟩ ∧
  decode 3 0xEF6D2B8A = some ⟨3, .vcne 13 20 21 6 .i32⟩ ∧
  decode 3 0x2FD0F1EC = some ⟨0, .vcgt 26 3 24 7 .n8⟩ ∧
  decode 3 0x6FD8A781 = some ⟨1, .vceq 27 2 19 6 .i16⟩ ∧
  decode 3 0x6FE9C822 = some ⟨1, .vcle 29 7 4 0 .i32⟩ := by
  decide +kernel

theorem test_decode_claim_and_port :
  decode 3 0xB0000001 = some ⟨2, .vfree⟩ ∧
  decode 3 0xF0C1C000 = some ⟨3, .vclaim 24 7⟩ ∧
  decode 3 0xF0C40003 = some ⟨3, .vsbindWr 0 16⟩ ∧
  decode 3 0x70D00004 = some ⟨1, .vsunbind 2⟩ ∧
  decode 3 0xF0D50002 = some ⟨3, .vsbindRd 2 20⟩ := by
  decide +kernel

theorem test_decode_matrix_and_copy :
  decode 3 0xB8030001 = some ⟨2, .mxCfg 24 1⟩ ∧
  decode 3 0xB80723C0 = some ⟨2, .mxTask 25 3 24⟩ ∧
  decode 3 0xB8082000 = some ⟨2, .mxWait 1 0⟩ ∧
  decode 3 0x780DE048 = some ⟨1, .mxZero 15 9⟩ ∧
  decode 3 0x38238300 = some ⟨0, .ringCfg 28 3⟩ ∧
  decode 3 0xF8240300 = some ⟨3, .ringSt 3 0⟩ ∧
  decode 3 0x78280610 = some ⟨1, .ringReset 6 2⟩ ∧
  decode 3 0x3901B900 = some ⟨0, .cpGo 13 25⟩ ∧
  decode 3 0xB9046006 = some ⟨2, .cpSet 3 6⟩ ∧
  decode 3 0xB90800B2 = some ⟨2, .cpGet 22 2⟩ ∧
  decode 3 0xB90C0038 = some ⟨2, .cpWait 7⟩ := by
  decide +kernel

theorem test_decode_sync :
  decode 3 0xBA002C40 = some ⟨2, .barInit 1 12 8⟩ ∧
  decode 3 0xFA009031 = some ⟨3, .barInitF 4 16 6⟩ ∧
  decode 3 0x7A050520 = some ⟨1, .barArr 8 5 4⟩ ∧
  decode 3 0xFA0A72C8 = some ⟨3, .barWait 19 18 25⟩ ∧
  decode 3 0x7A0F4FA8 = some ⟨1, .barArrw 26 15 21⟩ ∧
  decode 3 0xFA104020 = some ⟨3, .barKill 2 4⟩ ∧
  decode 3 0xBA1700F8 = some ⟨2, .barRd 24 31⟩ ∧
  decode 3 0x7A206000 = some ⟨1, .evWait 3⟩ ∧
  decode 3 0xFA24C000 = some ⟨3, .evFire 6⟩ ∧
  decode 3 0xFA3340D8 = some ⟨3, .mtxLock 26 27⟩ ∧
  decode 3 0xBA34C040 = some ⟨2, .mtxTry 6 8⟩ ∧
  decode 3 0xFA3BE078 = some ⟨3, .mtxUnlock 31 15⟩ ∧
  decode 3 0x3A418140 = some ⟨0, .cntInit 12 1 8⟩ ∧
  decode 3 0xBA441410 = some ⟨2, .cntAdd 0 20 2⟩ ∧
  decode 3 0xBA49A088 = some ⟨2, .cntRd 13 17⟩ ∧
  decode 3 0x7A4FDFD8 = some ⟨1, .cntWait 30 31 27⟩ ∧
  decode 3 0xBA62A010 = some ⟨2, .gbar 21 2⟩ ∧
  decode 3 0x3A736010 = some ⟨0, .barAlloc 27 2⟩ ∧
  decode 3 0x7A7420A0 = some ⟨1, .cntAlloc 1 20⟩ ∧
  decode 3 0x3A780008 = some ⟨0, .mtxAlloc 1⟩ ∧
  decode 3 0xBA82C0D0 = some ⟨2, .barFree 22 26⟩ ∧
  decode 3 0x3A8760B8 = some ⟨0, .cntFree 27 23⟩ ∧
  decode 3 0x7A884080 = some ⟨1, .mtxFree 2 16⟩ := by
  decide +kernel

theorem test_decode_rime :
  decode 3 0xFB0280B0 = some ⟨3, .rimeAlloc 20 22⟩ ∧
  decode 3 0x3B060010 = some ⟨0, .rimeFree 16 2⟩ ∧
  decode 3 0xFB0868C8 = some ⟨3, .rimeBind 3 8 25⟩ ∧
  decode 3 0xFB0DD9D8 = some ⟨3, .rimeUnbind 14 25 27⟩ ∧
  decode 3 0xBB10C080 = some ⟨2, .rimeSync 6 16⟩ ∧
  decode 3 0x7B158DA0 = some ⟨1, .rimeRd 12 13 20⟩ ∧
  decode 3 0xFB192028 = some ⟨3, .rimeClr 9 5⟩ := by
  decide +kernel

theorem test_decode_fabric_and_router :
  decode 3 0x3C0280D0 = some ⟨0, .collGo 20 26⟩ ∧
  decode 3 0x3C0580E8 = some ⟨0, .collWait 12 29⟩ ∧
  decode 3 0xFC070099 = some ⟨3, .collWaitMc 24 19⟩ ∧
  decode 3 0xFC080060 = some ⟨3, .collAbort 0 12⟩ ∧
  decode 3 0xFC0C98B8 = some ⟨3, .collStx 4 24 23⟩ ∧
  decode 3 0x3C1280F0 = some ⟨0, .collReq 20 30⟩ ∧
  decode 3 0xBC1400F8 = some ⟨2, .collTake 31⟩ ∧
  decode 3 0xBC202C48 = some ⟨2, .grpSet 1 12 9⟩ ∧
  decode 3 0xBC2400C0 = some ⟨2, .grpClr 0 24⟩ ∧
  decode 3 0xBC2A8070 = some ⟨2, .mcLdred 20 14⟩ ∧
  decode 3 0xBD030058 = some ⟨2, .aucRun 24 11⟩ ∧
  decode 3 0xFD066050 = some ⟨3, .aucWait 19 10⟩ ∧
  decode 3 0x3D08C828 = some ⟨0, .aucPset 6 8 5⟩ ∧
  decode 3 0x3D0E6600 = some ⟨0, .aucPget 19 6 0⟩ ∧
  decode 3 0x3D10E0E0 = some ⟨0, .aucPclr 7 28⟩ := by
  decide +kernel

/-- Reserved words name no instruction (R137, R165): a reserved major, reserved bits, a reserved op, format codes 9 of another
form, `rep` of no instruction, and a form of version 3 in version 2. -/
theorem test_decode_reserved :
  decode 3 0x3F000000 = none ∧ decode 3 0x00000040 = none ∧ decode 3 0x0D02C000 = none ∧ decode 2 0x3B1719C8 = none ∧
  decode 1 0x40000001 = none := by
  decide +kernel

/-! ### Results of single instructions, worked out by hand from the rules -/

/-- What an instruction leaves, where it answers a next state. -/
def Test.after {α : Type} (i : Instr) (s : State) (f : State → α) : Option α :=
  match exec i s with
  | .next t => some (f t)
  | _ => none

/-- Register x3 and `fflags`. -/
def Test.x3 (s : State) : Word := s.th.x[3]
def Test.fl (s : State) : Word × BitVec 6 := (s.th.x[3], s.th.fflags)

theorem test_add_wraps : after (.add 3 1 2) (st 0 [(1, -1), (2, 2)]) x3 = some 1 := by decide +kernel
theorem test_x0_is_0 : after (.add 0 1 2) (st 0 [(1, 5), (2, 2)]) (fun s => s.th.x[0]) = some 0 := by decide +kernel
theorem test_div_by_0 : after (.div 3 1 2) (st 0 [(1, 5)]) x3 = some (-1) := by decide +kernel
theorem test_div_overflow : after (.div 3 1 2) (st 0 [(1, 0x8000000000000000), (2, -1)]) x3 = some 0x8000000000000000 := by
  decide +kernel
theorem test_mulhu : after (.mulhu 3 1 2) (st 0 [(1, -1), (2, -1)]) x3 = some 0xFFFFFFFFFFFFFFFE := by decide +kernel
theorem test_fcvt_saturates : after (.fcvt 3 1 .f32 .rz .i32) (st 0 [(1, 0x4F800000)]) fl = some (0x7FFFFFFF, 0x10) := by
  decide +kernel
theorem test_fdiv_by_0 : after (.fdiv 3 1 2 .rne .f32) (st 0 [(1, 0x3F800000), (2, 0x80000000)]) fl = some (0xFF800000, 0x08) := by
  decide +kernel
theorem test_fma_exact : after (.fma 3 1 2 .rne .f64) (st 0 [(1, 0x3FF0000000000001), (2, 0x3FF0000000000001),
    (3, 0xBFF0000000000002)]) fl = some (0x3970000000000000, 0) := by decide +kernel
theorem test_branch_taken : after (.beq 1 2 3) (st 0 [(1, 7), (2, 7)]) (fun s => s.th.pc) = some 0x1000C := by decide +kernel
theorem test_sys_traps : after (.sys 5) { st 0 [] with th := { user [] with xvec := 0x20000 } }
    (fun s => (s.th.pc, s.th.xpc, s.th.xcause, s.th.inh)) = some (0x20000, 0x10000, 0x0F, true) := by decide +kernel
theorem test_store_then_memory : after (.st 2 1 .i16 .hd 0) (st 0 [(1, 0x10000), (2, 0x12345678)])
    (fun s => s.mem.bytes.bytes (vkey 0x10000) 3) = some [0x78, 0x56, 0] := by decide +kernel
theorem test_misaligned_traps : after (.ld 3 1 .i32 .hd 0) { st 0 [(1, 0x10002)] with th := { user [(1, 0x10002)] with xvec := 0x20000 } }
    (fun s => (s.th.pc, s.th.xaddr)) = some (0x20000, 0x10002) := by decide +kernel
theorem test_amoadd_returns_old : after (.amoadd 3 1 2 .hd .i64) { st 0 [(1, 0x10008), (2, 5)] with
    mem := { (st 0 []).mem with bytes := [(vkey 0x10008, 9)] } } (fun s => (s.th.x[3], s.mem.bytes.bytes (vkey 0x10008) 1)) = some (9, [14]) := by
  decide +kernel

/-! ### Witnesses: the hypotheses of each obligation are met -/

theorem witness_IntegerForms :
    (∃ (i : Instr) (s : State) (d : Reg) (rs : List Reg) (v : Word),
      intResult i s.th = some (d, rs, v) ∧ Settled s.th (rs.map xr)) ∧
    (∃ (i : Instr) (s : State) (d : Reg) (rs : List Reg) (v : Word),
      mulDivResult i s.th = some (d, rs, v) ∧ Settled s.th (rs.map xr)) :=
  ⟨⟨.addi 0 31 0x2000, st 0 [(31, -1)], 0, [31], _, rfl, settled rfl _⟩,
    ⟨.div 5 5 0, st 0 [(5, 0x8000000000000000)], 5, [5, 0], _, rfl, settled rfl _⟩⟩

theorem witness_FloatComparesAndConversions :
    (∃ (i : Instr) (s : State) (d : Reg) (rs : List Reg) (res : Rnd),
      fpPlainResult i s.th = some (d, rs, res) ∧ Settled s.th (rs.map xr)) ∧
    (∃ (s : State) (a : Reg) (r m : RM), rmEff r s.th.frm = some m ∧ Settled s.th [xr a]) :=
  ⟨⟨.flt 3 1 2 .f16, st 0 [(1, 0x7C01)], 3, [1, 2], _, rfl, settled rfl _⟩,
    ⟨{ st 0 [] with th := { user [] with frm := 4 } }, 31, .dyn, .sr, rfl, settled rfl _⟩⟩

theorem witness_FloatForms :
    (∃ (i : Instr) (s : State) (d : Reg) (rs : List Reg) (r m : RM) (ty : FT) (x : Bool → Ex),
      fpExact i s.th = some (d, rs, r, ty, x) ∧ rmEff r s.th.frm = some m ∧ Settled s.th (rs.map xr)) ∧
    (∃ (i : Instr) (s : State) (d : Reg) (rs : List Reg) (ty : FT) (x : Bool → Ex),
      fpExact i s.th = some (d, rs, .dyn, ty, x) ∧ 5 ≤ s.th.frm.toNat) :=
  ⟨⟨.fma 7 1 2 .dyn .bf16, st 0 [(1, 0x3F80)], 7, [1, 2, 7], .dyn, .rne, .bf16, _, rfl, rfl, settled rfl _⟩,
    ⟨.fsqrt 0 1 .dyn .f64, { st 0 [] with th := { user [] with frm := 5 } }, 0, [1], .f64, _, rfl, by decide⟩⟩

theorem witness_Jumps :
    (∃ (i : Instr) (s : State) (rs : List Reg) (target : Word) (d : Reg),
      jumpTable i s.th = some (rs, target, d) ∧ s.th.rep = none ∧ Quiet s ∧ Settled s.th (rs.map xr) ∧
        s.th.pc.toNat % 4 = 0 ∧ target.toNat % 4 = 0) ∧
    (∃ (s : State) (a : Reg) (k : BitVec 14), s.th.rep = none ∧ Settled s.th [xr a] ∧
      (s.th.getX a + BitVec.ofInt 64 k.toInt).toNat % 4 ≠ 0) :=
  ⟨⟨.jal (-1), st 0 [], [], 0xFFFC, 1, by decide, rfl, ⟨by simp [st, State.reset, HostSys.reset], by decide⟩, settled rfl _,
      by decide, by decide⟩,
    ⟨st 0 [(1, 3)], 1, 0, rfl, settled rfl _, by decide⟩⟩

theorem witness_BranchesFollowTheirCondition :
    ∃ (i : Instr) (s : State) (rs : List Reg) (c : Bool) (o : Int),
      branchTable i s.th = some (rs, c, o) ∧ s.th.rep = none ∧ Quiet s ∧ Settled s.th (rs.map xr) :=
  ⟨.bbs 5 63 0x800, st 0 [(5, 0x8000000000000000)], [5], true, -8192, by decide, rfl,
    ⟨by simp [st, State.reset, HostSys.reset], by decide⟩, settled rfl _⟩

/-- The state of `st` with its thread changed. -/
def Test.stWith (attr : Nat) (l : List (Nat × Word)) (f : Thread → Thread) : State :=
  { st attr l with th := f (user l) }

theorem Test.quiet (attr : Nat) (l : List (Nat × Word)) (f : Thread → Thread) : Quiet (stWith attr l f) :=
  ⟨by simp [stWith, st, State.reset, HostSys.reset], by simp [stWith, st, State.reset, HostSys.reset]⟩

theorem witness_RepetitionPinAndPause :
    (∃ (s : State) (a : Reg), s.th.rep = none ∧ Settled s.th [xr a] ∧ s.th.getX a = 0) ∧
    (∃ (s : State) (a : Reg), s.th.rep = none ∧ Settled s.th [xr a] ∧ s.th.getX a ≠ 0) ∧
    (∃ (s : State) (n : BitVec 12) (ws : List Lane), s.th.rep = none ∧
      fetchMany s (s.th.pc + 4) n.toNat [] = .ok ws ∧ ws.length = 128) :=
  ⟨⟨st 0 [], 0, rfl, settled rfl _, by decide⟩, ⟨st 0 [(1, -1)], 1, rfl, settled rfl _, by decide⟩,
    ⟨st 0 [], 128, List.replicate 128 0, rfl, by decide +kernel, List.length_replicate⟩⟩

theorem witness_RepetitionBodies :
    (∃ (i : Instr) (s : State) (r : Machine.Rep), notInRep i = true ∧ s.th.rep = some r) ∧
    (∃ (t : Thread) (r : Machine.Rep), t.rep = some r ∧ t.pc + 4 = r.start + BitVec.ofNat 64 (4 * r.len) ∧ 1 < r.left.toNat) ∧
    (∃ (t : Thread) (r : Machine.Rep), t.rep = some r ∧ t.pc + 4 = r.start + BitVec.ofNat 64 (4 * r.len) ∧ r.left.toNat ≤ 1) ∧
    (∃ (t : Thread) (r : Machine.Rep), t.rep = some r ∧ ¬ t.pc + 4 = r.start + BitVec.ofNat 64 (4 * r.len)) :=
  ⟨⟨.susp 1 2, stWith 0 [] fun t => { t with rep := some ⟨0x10000, 1, 1, 0⟩ }, _, rfl, rfl⟩,
    ⟨{ user [] with rep := some ⟨0x10000, 1, 2, 0⟩ }, _, rfl, by decide, by decide⟩,
    ⟨{ user [] with rep := some ⟨0x10000, 1, 1, 0⟩ }, _, rfl, by decide, by decide⟩,
    ⟨{ user [] with rep := some ⟨0x10000, 4095, 1, 0⟩ }, _, rfl, by decide⟩⟩

theorem witness_TrapsEnterOrKill :
    (∃ s : State, s.th.xvec ≠ 0 ∧ s.th.inh = false ∧ Quiet s ∧ s.th.rep = none) ∧
    (∃ (s : State) (r : Machine.Rep), s.th.xvec ≠ 0 ∧ s.th.inh = false ∧ Quiet s ∧ s.th.rep = some r) ∧
    (∃ s : State, s.th.live = true ∧ s.th.ports = [] ∧ s.th.xvec = 0) ∧
    (∃ s : State, s.th.live = true ∧ s.th.ports = [] ∧ s.th.inh = true) :=
  ⟨⟨stWith 0 [] fun t => { t with xvec := 4 }, by decide, rfl, quiet _ _ _, rfl⟩,
    ⟨stWith 0 [] fun t => { t with xvec := 4, rep := some ⟨0x10000, 1, 1, 0⟩ }, _, by decide, rfl, quiet _ _ _, rfl⟩,
    ⟨st 0 [], rfl, rfl, rfl⟩, ⟨stWith 0 [] fun t => { t with xvec := 4, inh := true }, rfl, rfl, rfl⟩⟩

theorem witness_SystemCallBreakAndIllegal : ∃ s : State, s.th.xvec ≠ 0 ∧ s.th.inh = false :=
  ⟨stWith 0 [] fun t => { t with xvec := -4 }, by decide, rfl⟩

theorem witness_TrapReturn :
    (∃ s : State, s.th.live = true ∧ s.th.inh = true ∧ s.th.xrep = false) ∧
    (∃ s : State, s.th.live = true ∧ s.th.inh = true ∧ s.th.xrep = true) ∧
    (∃ s : State, s.th.live = true ∧ s.th.inh = false) ∧
    (∃ (s : State) (a : Reg), s.th.pend = [] ∧ s.th.inh = true ∧ (s.th.getX a).getLsbD 63 = true) :=
  ⟨⟨stWith 0 [] fun t => { t with inh := true }, rfl, rfl, rfl⟩,
    ⟨stWith 0 [] fun t => { t with inh := true, xrep := true, xrlen := 1, xrcnt := 1 }, rfl, rfl, rfl⟩, ⟨st 0 [], rfl, rfl⟩,
    ⟨stWith 0 [(1, 0x8000000000000000)] fun t => { t with inh := true }, 1, rfl, rfl, by decide⟩⟩

theorem witness_ChecksInOrder :
    (∃ (s : State) (r : Nat), s.th.chk = true ∧ s.th.uncovered r = true) ∧
    (∃ s : State, s.th.chk = false ∧ s.th.gran = 0) ∧ (∃ s : State, s.th.chk = false ∧ s.th.gran ≠ 0) :=
  ⟨⟨stWith 0 [] fun t => { t with chk := true, pend := [⟨63, 1, 0, false⟩] }, 63, rfl, by decide⟩,
    ⟨st 0 [], rfl, rfl⟩, ⟨stWith 0 [] fun t => { t with gran := 1 }, rfl, by decide⟩⟩

theorem witness_FixedLatencyCredit :
    (∃ (s : State) (l : Nat) (d : Reg), d ≠ 0 ∧ s.th.pend = [] ∧ s.th.enc ≠ 1 ∧ s.th.ir.toNat / 2 ^ 30 + 1 < l) ∧
    (∃ (s : State) (l : Nat) (d : Reg), d ≠ 0 ∧ s.th.pend = [] ∧ l ≤ s.th.ir.toNat / 2 ^ 30 + 1) ∧
    (∃ (s : State) (d : Reg), d ≠ 0 ∧ s.th.pend = [] ∧ s.th.enc = 1) :=
  ⟨⟨st 0 [], 2, 31, by decide, rfl, by decide, by decide⟩,
    ⟨stWith 0 [] fun t => { t with ir := 0xC0000000 }, 4, 1, by decide, rfl, by decide⟩,
    ⟨stWith 0 [] fun t => { t with enc := 1 }, 1, by decide, rfl, rfl⟩⟩

theorem witness_CsrForms :
    (∃ (i : Instr) (s : State) (d a : Reg) (c old st : Nat) (v : Word), s.th.pend = [] ∧
      csrRead s c = some old ∧ csrForm i (BitVec.ofNat 64 old) (s.th.getX a) = some (d, a, c, some v) ∧
      csrStores s.th c v = some st) ∧
    (∃ (i : Instr) (s : State) (d a : Reg) (c old : Nat), s.th.pend = [] ∧ csrRead s c = some old ∧
      csrForm i (BitVec.ofNat 64 old) (s.th.getX a) = some (d, a, c, none)) ∧
    (∃ (i : Instr) (s : State) (d a : Reg) (c old : Nat) (v : Word), s.th.pend = [] ∧ csrRead s c = some old ∧
      csrForm i (BitVec.ofNat 64 old) (s.th.getX a) = some (d, a, c, some v) ∧
      c ∈ [0x010, 0x011, 0x012, 0x013, 0x018, 0x019, 0x024]) ∧
    (∃ (i : Instr) (s : State) (d a : Reg) (c : Nat) (x : Word) (o : Option Word),
      csrForm i 0 x = some (d, a, c, o) ∧ csrRead s c = none) :=
  ⟨⟨.csrrc 3 1 0x031, st 0 [(1, -1)], 3, 1, 0x031, 2048, 256, 0, rfl, by decide, by decide, by decide⟩,
    ⟨.csrrs 3 0 0x106, st 0 [], 3, 0, 0x106, 0, rfl, by decide, by decide⟩,
    ⟨.csrrw 0 0 0x024, st 0 [], 0, 0, 0x024, 0, 0, rfl, by decide, by decide, by decide⟩,
    ⟨.csrrw 0 0 0xFFF, st 0 [], 0, 0, 0xFFF, 0, some 0, by decide, by decide⟩⟩

theorem witness_CounterCsrs :
    (∃ (s : State) (k : Fin 4) (old : Nat), s.th.pend = [] ∧ csrRead s (0x200 + k.val) = some old) ∧
    (∃ (s : State) (k : Fin 4) (old : Nat), s.th.pend = [] ∧ csrRead s (0x208 + k.val) = some old) :=
  ⟨⟨st 0 [], 3, 0, rfl, by decide⟩, ⟨st 0 [], 3, 0, rfl, by decide⟩⟩

/-- A dirty SWC copy of the sector at 0x10000 in core 0's L1. -/
def Test.copy : Copy1 := ⟨0, 0x200, 0x100000, false, 0, 0, [(5, 7)], [5], .hd, false⟩

/-- The state of `st` with that copy. -/
def Test.stCopy (l : List (Nat × Word)) : State := (st 1 l).onMem fun m => { m with l1 := [copy] }

theorem witness_LoadsReturnWhatTheCoreSees :
    (∃ (i : Instr) (s : State) (d a : Reg) (e n key : Nat) (ext : Nat → Word),
      loadTable i s.th = some (d, a, e, n, true, ext) ∧ Settled s.th [xr a] ∧ CanAccessHome s .rd e n key .hc) ∧
    (∃ (i : Instr) (s : State) (d a : Reg) (e n key : Nat) (acq : Bool) (ext : Nat → Word),
      loadTable i s.th = some (d, a, e, n, acq, ext) ∧ Settled s.th [xr a] ∧ CanAccess s .rd e n key .bank) ∧
    (∃ (i : Instr) (s : State) (d a : Reg) (e n key : Nat) (ext : Nat → Word),
      loadTable i s.th = some (d, a, e, n, false, ext) ∧ Settled s.th [xr a] ∧ CanAccess s .rd e n key .swc ∧
      s.copyOf s.th.core e false ≠ none) :=
  ⟨⟨.ldAcq 3 1 .hd .n32 .sys, st 0 [(1, 0x1FFFC)], 3, 1, 0x1FFFC, 4, vkey 0x1FFFC, _, rfl, settled rfl _,
      accessHome (by decide) (by decide +kernel) (by decide +kernel) (by decide +kernel) rfl⟩,
    ⟨.ld 0 1 .i64 .hk (-1), st 0 [(1, 0x00F1000000200000)], 0, 1, 0x00F10000001FFFF8, 8, 0x00F10000001FFFF8, false, _, rfl,
      settled rfl _, access (by decide) (by decide +kernel) (by decide +kernel) rfl⟩,
    ⟨.ld 3 1 .n8 .hd 5, stCopy [(1, 0x10000)], 3, 1, 0x10005, 1, vkey 0x10005, _, rfl, settled rfl _,
      access (by decide) (by decide +kernel) (by decide +kernel) rfl, by decide +kernel⟩⟩

theorem witness_StoresAreSeenByTheirCore :
    ∃ (i : Instr) (s : State) (a x : Reg) (e n key : Nat) (cls : Cls),
      storeTable i s.th = some (a, x, e, n) ∧ Settled s.th [xr a, xr x] ∧ CanAccess s .wr e n key cls ∧
      Memory.wf s.mem.bytes ∧ (∀ c ∈ s.mem.l1, Memory.wf c.data) ∧ s.mem.l1 ≠ [] ∧ cls = .swc ∧ s.host.replayState ≠ 1 :=
  ⟨.st 31 1 .i64 .hd (-256), stCopy [(1, 0x10800), (31, -1)], 1, 31, 0x10000, 8, vkey 0x10000, .swc, by decide +kernel,
    settled rfl _, access (by decide) (by decide +kernel) (by decide +kernel) rfl, by decide, by decide, by decide, rfl,
    by decide⟩

theorem witness_StoresTakeTimestamps :
    (∃ (s : State) (x a : Reg) (o : BitVec 9) (key e : Nat), e = (s.th.getX a + BitVec.ofInt 64 (o.toInt * 8)).toNat ∧
      Settled s.th [xr a, xr x] ∧ CanAccess s .wr e 8 key .hc) ∧
    (∃ (s : State) (x a : Reg) (o : BitVec 9) (key e : Nat), e = (s.th.getX a + BitVec.ofInt 64 (o.toInt * 8)).toNat ∧
      Settled s.th [xr a, xr x] ∧ CanAccess s .wr e 8 key .bank) :=
  ⟨⟨st 0 [(1, 0x1F008)], 0, 1, 255, vkey 0x1F800, 0x1F800, by decide +kernel, settled rfl _,
      access (by decide) (by decide +kernel) (by decide +kernel) rfl⟩,
    ⟨st 0 [(1, 0x00F0000000040000)], 0, 1, -1, 0x00F000000003FFF8, 0x00F000000003FFF8, by decide +kernel, settled rfl _,
      access (by decide) (by decide +kernel) (by decide +kernel) rfl⟩⟩

theorem witness_AccessChecks :
    (∃ (i : Instr) (s : State) (d a : Reg) (e n : Nat) (acq : Bool) (ext : Nat → Word),
      loadTable i s.th = some (d, a, e, n, acq, ext) ∧ Settled s.th [xr a] ∧ e % n ≠ 0) ∧
    (∃ (i : Instr) (s : State) (a x : Reg) (e n : Nat),
      storeTable i s.th = some (a, x, e, n) ∧ Settled s.th [xr a, xr x] ∧ e % n ≠ 0) ∧
    (∃ a n, a % n = 0 ∧ 2 ^ 57 ≤ a) ∧
    (∃ a n, a % n = 0 ∧ a < 2 ^ 57 ∧ ∃ d o, region a = .sync d o) ∧ (∃ a n, a % n = 0 ∧ a < 2 ^ 57 ∧ ∃ d o, region a = .event d o) ∧
    (∃ a n, a % n = 0 ∧ a < 2 ^ 57 ∧ region a = .reserved) ∧
    (∃ (s : State) (a n : Nat) (p : Plb), a % n = 0 ∧ a < 2 ^ 57 ∧ region a = .virt ∧ plbFind s s.th.core a = some p ∧
      p.attr ≠ 3 ∧ inTransition s a = false ∧ hasRight s s.tenant p.dom .rd = false) ∧
    (∃ (s : State) (a n : Nat), a % n = 0 ∧ a < 2 ^ 57 ∧ region a = .virt ∧ plbFind s s.th.core a = none) ∧
    (∃ (s : State) (a n : Nat) (p : Plb) (key : Nat) (cls : Cls), a % n = 0 ∧ a < 2 ^ 57 ∧ region a = .virt ∧
      plbFind s s.th.core a = some p ∧ pageCheck s s.th.core s.tenant .rd a p = .ok key cls ∧
      l1Serves s s.th.core .rd a cls = false ∧ s.mem.resident a = false ∧ p.gone s = false) :=
  ⟨⟨.ldAcq 3 1 .hd .i64 .sys, st 0 [(1, -1)], 3, 1, _, 8, true, _, rfl, settled rfl _, by decide +kernel⟩,
    ⟨.st 2 1 .i16 .hd 0, st 0 [(1, 1)], 1, 2, 1, 2, by decide +kernel, settled rfl _, by decide +kernel⟩,
    ⟨2 ^ 57, 8, by decide +kernel, by decide +kernel⟩,
    ⟨0x00F4000030000000 + 0xFFFFFF8, 8, by decide +kernel, by decide +kernel, 3, 0xFFFFFF8, by decide +kernel⟩,
    ⟨0x00F5000000000000, 8, by decide +kernel, by decide +kernel, 0, 0, by decide +kernel⟩,
    ⟨2 ^ 57 - 8, 8, by decide +kernel, by decide +kernel, by decide +kernel⟩,
    ⟨{ st 0 [] with lp := LaunchSys.reset }, 0x1FFF8, 8, (page 0).2, by decide +kernel, by decide +kernel, by decide +kernel, by decide +kernel, by decide +kernel,
      by decide +kernel, by decide +kernel⟩,
    ⟨st 0 [], 0x20000, 8, by decide +kernel, by decide +kernel, by decide +kernel, by decide +kernel⟩,
    ⟨st 1 [], 0x1F7F8, 8, (page 1).2, 0x10F7F8, .swc, by decide +kernel, by decide +kernel, by decide +kernel,
      by decide +kernel, by decide +kernel, by decide +kernel, by decide +kernel, by decide +kernel⟩⟩

/-- The checks of an atomic pass. -/
theorem Test.accessRW {s : State} {a n key : Nat} {cls : Cls} (ha : a % n = 0)
    (hw : resolve s s.th.core s.tenant .wr a n = .ok key cls) (hr : resolve s s.th.core s.tenant .rd a n = .ok key cls)
    (hn : needsHome s a key cls = false) (hb : badHome s a key n = false) (hd : s.host.dbg = []) :
    CanAccessRW s a n key cls := ⟨⟨⟨ha, hw, by simp [hd]⟩, fun h => by cases h⟩, accessHome ha hr hn hb hd⟩

/-- A state whose page at 0x10000 is SWC memory of package `n`, with its first sector in L2. -/
def Test.stPeer (n : Nat) (l : List (Nat × Word)) : State :=
  (st 1 l).onMem fun m => { m with
    plb := [(0, ⟨.k64, 1, BitVec.ofNat 52 (n * 2 ^ 40), 0, 1, 0⟩)], l2 := [⟨512, n * 2 ^ 40, [], .hd, false⟩] }

theorem witness_IntegerAtomics :
    (∃ (i : Instr) (s : State) (d a b : Reg) (z : AmZ) (f : Nat → Nat → Nat → Nat) (key : Nat) (cls : Cls),
      amoTable i = some (d, a, b, z, f) ∧ Settled s.th [xr a, xr b] ∧
      CanAccessRW s (s.th.getX a).toNat (amoSize z 0).1 key cls ∧ Memory.wf s.mem.bytes ∧ cls ≠ .peer ∧
      s.host.replayState ≠ 1 ∧ s.copyOf s.th.core (s.th.getX a).toNat false = none ∧ s.lossy = none) ∧
    (∃ (i : Instr) (s : State) (d a b : Reg) (z : AmZ) (f : Nat → Nat → Nat → Nat) (key : Nat),
      amoTable i = some (d, a, b, z, f) ∧ Settled s.th [xr a, xr b] ∧
      CanAccessRW s (s.th.getX a).toNat (amoSize z 0).1 key .peer ∧ Memory.wf s.mem.bytes ∧ s.lossy = none) ∧
    (∀ p, ∃ (i : Instr) (s : State) (d a b : Reg) (z : AmZ) (f : Nat → Nat → Nat → Nat) (key : Nat),
      amoTable i = some (d, a, b, z, f) ∧ Settled s.th [xr a, xr b] ∧
      CanAccessRW s (s.th.getX a).toNat (amoSize z 0).1 key .peer ∧ Memory.wf s.mem.bytes ∧ s.lossy = some p) ∧
    (∃ (s : State) (d a b : Reg) (z : AmZ) (key : Nat) (cls : Cls), Settled s.th [xr a, xr b, xr d] ∧
      CanAccessRW s (s.th.getX a).toNat (amoSize z 0).1 key cls ∧ Memory.wf s.mem.bytes ∧ (s.lossy = none ∨ cls ≠ .peer) ∧
      (atHome (noteOwn s (s.th.getX a).toNat) (s.th.getX a).toNat cls).mem.bytes.read (atomicKey s key cls) (amoSize z 0).1 =
        (s.th.getX d).toNat % 2 ^ (8 * (amoSize z 0).1)) ∧
    (∃ (s : State) (d a b : Reg) (z : AmZ) (key : Nat) (cls : Cls), Settled s.th [xr a, xr b, xr d] ∧
      CanAccessRW s (s.th.getX a).toNat (amoSize z 0).1 key cls ∧ Memory.wf s.mem.bytes ∧ (s.lossy = none ∨ cls ≠ .peer) ∧
      (atHome (noteOwn s (s.th.getX a).toNat) (s.th.getX a).toNat cls).mem.bytes.read (atomicKey s key cls) (amoSize z 0).1 ≠
        (s.th.getX d).toNat % 2 ^ (8 * (amoSize z 0).1)) :=
  ⟨⟨.amomax 3 1 2 .hd .i32, st 1 [(1, 0x1FFFC)], 3, 1, 2, .i32, _, vkey 0x1FFFC, .swc, rfl, settled rfl _,
      accessRW (by decide) (by decide +kernel) (by decide +kernel) (by decide +kernel) (by decide +kernel) rfl, by decide,
      by decide, by decide, by decide, rfl⟩,
    ⟨.amoswap 3 1 2 .hd .i64, stPeer 4095 [(1, 0x10078)], 3, 1, 2, .i64, _, vkey 0x10078, rfl, settled rfl _,
      accessRW (by decide) (by decide +kernel) (by decide +kernel) (by decide +kernel) (by decide +kernel) rfl, by decide, rfl⟩,
    fun p => ⟨.amoadd 3 1 2 .hd .i32, { stPeer 1 [(1, 0x10000)] with lossy := some p },
      3, 1, 2, .i32, _, vkey 0x10000, rfl, settled rfl _,
      accessRW (by cases p <;> decide) (by cases p <;> decide +kernel) (by cases p <;> decide +kernel) (by cases p <;> decide +kernel)
        (by cases p <;> decide +kernel) rfl, by cases p <;> decide, rfl⟩,
    ⟨st 0 [(1, 0x10000), (3, 0x100000000)], 3, 1, 2, .i32, vkey 0x10000, .hc, settled rfl _,
      accessRW (by decide) (by decide +kernel) (by decide +kernel) (by decide +kernel) (by decide +kernel) rfl, by decide,
      .inl rfl, by decide +kernel⟩,
    ⟨st 0 [(1, 0x10000), (3, 0x100000000)], 3, 1, 2, .i64, vkey 0x10000, .hc, settled rfl _,
      accessRW (by decide) (by decide +kernel) (by decide +kernel) (by decide +kernel) (by decide +kernel) rfl, by decide,
      .inl rfl, by decide +kernel⟩⟩

theorem witness_FloatAtomicAdd :
    (∃ (s : State) (a b : Reg) (key : Nat), Settled s.th [xr a, xr b] ∧ region (s.th.getX a).toNat = .floe 255 0x1FFFFE ∧
      CanAccessRW s (s.th.getX a).toNat 2 key .bank ∧ Memory.wf s.mem.bytes) ∧
    (∃ (s : State) (a b : Reg), Settled s.th [xr a, xr b] ∧ (s.th.getX a).toNat % 8 = 0 ∧
      ∀ q o, region (s.th.getX a).toNat ≠ .scratch q ∧ region (s.th.getX a).toNat ≠ .floe q o) :=
  ⟨⟨st 0 [(1, 0x00F10000FF1FFFFE)], 1, 0, 0x00F10000FF1FFFFE, settled rfl _, by decide +kernel,
      accessRW (by decide) (by decide +kernel) (by decide +kernel) (by decide +kernel) (by decide +kernel) rfl, by decide⟩,
    ⟨st 0 [], 1, 2, settled rfl _, by decide, fun q o => by
      have h : region ((st 0 []).th.getX 1).toNat = .virt := by decide +kernel
      simp [h]⟩⟩

/-- What every clause about a reduction store assumes. -/
def Test.RedOk (i : Instr) (s : State) (a b : Reg) (op : Nat) (f : Fmt) (key : Nat) (cls : Cls) : Prop :=
  redTable i = some (a, b, op, f) ∧ f.isRed = true ∧ Settled s.th [xr a, xr b] ∧
    CanAccessHome s .wr (s.th.getX a).toNat (f.width / 8) key cls ∧ Memory.wf s.mem.bytes

theorem witness_ReductionStores :
    (∃ i s a b op f key, RedOk i s a b op f key .bank) ∧
    (∃ i s a b op f key, RedOk i s a b op f key .peer ∧ s.lostAt (atomicKey s key .peer) = true) ∧
    (∃ i s a b op f key cls, RedOk i s a b op f key cls ∧ cls ≠ .bank ∧ (cls ≠ .peer ∨ s.lostAt (atomicKey s key cls) = false) ∧
      ∀ r ∈ (atHome (noteOwn s (s.th.getX a).toNat) (s.th.getX a).toNat cls).mem.reds, r.key ≠ atomicKey s key cls) ∧
    (∃ i s a b op f key, RedOk i s a b op f key .peer ∧ s.lostAt (atomicKey s key .peer) = false ∧
      ∀ r ∈ (atHome (noteOwn s (s.th.getX a).toNat) (s.th.getX a).toNat .peer).mem.reds, r.key ≠ atomicKey s key .peer) :=
  ⟨⟨.redAdd 1 2 .hd .fp64, st 0 [(1, 0x00F000000003FFF8)], 1, 2, 0, .fp64, 0x00F000000003FFF8, ⟨rfl, rfl, settled rfl _,
      accessHome (by decide) (by decide +kernel) (by decide +kernel) (by decide +kernel) rfl, by decide⟩⟩,
    ⟨.redAdd 1 2 .hd .i8, { stPeer 1 [(1, 0x10000)] with fab := { FabSys.reset with lost := [1] } }, 1, 2, 0, .i8, vkey 0x10000,
      ⟨rfl, rfl, settled rfl _, accessHome (by decide) (by decide +kernel) (by decide +kernel) (by decide +kernel) rfl, by decide⟩,
      by decide +kernel⟩,
    ⟨.redMin 1 2 .hd .i8, st 0 [(1, 0x1FFFF), (2, 0x80)], 1, 2, 1, .i8, vkey 0x1FFFF, .hc, ⟨rfl, rfl, settled rfl _,
      accessHome (by decide) (by decide +kernel) (by decide +kernel) (by decide +kernel) rfl, by decide⟩, by decide,
      .inl (by decide), by decide +kernel⟩,
    ⟨.redMax 1 2 .hd .fp16, stPeer 2 [(1, 0x1007E), (2, 0x80)], 1, 2, 2, .fp16, vkey 0x1007E, ⟨rfl, rfl, settled rfl _,
      accessHome (by decide) (by decide +kernel) (by decide +kernel) (by decide +kernel) rfl, by decide⟩, by decide +kernel,
      by decide +kernel⟩⟩

/-- A page table at 0x200000 whose first entry points to itself and whose second maps 0x10000 as SWC memory at 0x100000, of this
package or of the next. -/
def Test.table (peer : Bool) : Memory :=
  [(0x200002, 0x20), (0x200007, 0x80), (0x200008, 1), (0x20000A, 0x10)] ++ (if peer then [(0x20000D, 1)] else []) ++
    [(0x20000F, 0x90)]

/-- A state with that page table. -/
def Test.mapped (peer : Bool) (s : State) : State :=
  s.onMem fun m => { m with root := 0x200000, bytes := table peer }

theorem witness_PrefetchAndCacheForms :
    (∃ (s : State) (a : Reg) (o : BitVec 9), Settled s.th [xr a] ∧
      (s.th.getX a + BitVec.ofInt 64 (o.toInt * 128)).toNat < 2 ^ 57 ∧
      s.mem.resident (s.th.getX a + BitVec.ofInt 64 (o.toInt * 128)).toNat = true) ∧
    (∃ (s : State) (a : Reg) (h : Hint) (o : BitVec 9) (t : State) (c : Copy2), Settled s.th [xr a] ∧
      (s.th.getX a + BitVec.ofInt 64 (o.toInt * 128)).toNat < 2 ^ 57 ∧
      s.mem.resident (s.th.getX a + BitVec.ofInt 64 (o.toInt * 128)).toNat = false ∧ exec (.pf a h o) s = .next t ∧
      t.mem.at2 (s.th.getX a + BitVec.ofInt 64 (o.toInt * 128)).toNat = some c) ∧
    (∃ (s : State) (a : Reg) (o : BitVec 9), Settled s.th [xr a] ∧
      2 ^ 57 ≤ (s.th.getX a + BitVec.ofInt 64 (o.toInt * 128)).toNat) ∧
    (∃ (s : State) (a b : Reg) (c : Copy1) (k : Nat), Settled s.th [xr a, xr b] ∧ 0 < (s.th.getX b).toNat ∧
      (s.th.getX a).toNat + (s.th.getX b).toNat ≤ 2 ^ 57 ∧ ownCopies s (s.th.getX a).toNat (s.th.getX b).toNat = [c] ∧
      swcPage s (c.sector * 128) = true ∧ s.copyOf s.th.core (c.sector * 128) false = some c ∧ c.dirty.Pairwise (· < ·) ∧
      Memory.wf s.mem.bytes ∧ s.lostAt c.key = false ∧ k = s.mem.homeKey (c.sector * 128) c.key) ∧
    (∃ (s : State) (a b : Reg), Settled s.th [xr a, xr b] ∧ 0 < (s.th.getX b).toNat ∧
      (s.th.getX a).toNat + (s.th.getX b).toNat = 2 ^ 57 ∧ ownCopies s (s.th.getX a).toNat (s.th.getX b).toNat = []) ∧
    (∃ (s : State) (a b : Reg) (t : State) (c : Copy2), Settled s.th [xr a, xr b] ∧ 0 < (s.th.getX b).toNat ∧
      (s.th.getX a).toNat + (s.th.getX b).toNat ≤ 2 ^ 57 ∧ ownCopies s (s.th.getX a).toNat (s.th.getX b).toNat = [] ∧
      exec (.cwb a b .sys) s = .next t ∧ c ∈ t.mem.l2 ∧ 2 ^ 40 ≤ c.key ∧
      c.sector * 128 < (s.th.getX a).toNat + (s.th.getX b).toNat ∧ (s.th.getX a).toNat < c.sector * 128 + 128 ∧
      swcPage s (c.sector * 128) = true) ∧
    (∃ (s : State) (a b : Reg), Settled s.th [xr a, xr b] ∧ (s.th.getX b).toNat = 0) :=
  ⟨⟨st 0 [(1, 0x10080)], 1, -1, settled rfl _, by decide, by decide +kernel⟩,
    ⟨mapped false (st 1 [(1, 0x1F800)]), 1, .hd, 1, _, ⟨1009, 0x10F880, [], .hd, false⟩, settled rfl _, by decide, by decide +kernel, rfl, by decide +kernel⟩,
    ⟨st 0 [], 1, -1, settled rfl _, by decide⟩,
    ⟨mapped false (stCopy [(1, 0x1007F), (2, 1)]), 1, 2, copy, _, settled rfl _, by decide, by decide, by decide +kernel, by decide +kernel,
      by decide +kernel, by decide, by decide, by decide, rfl⟩,
    ⟨st 0 [(2, 0x0200000000000000)], 1, 2, settled rfl _, by decide, by decide, by decide +kernel⟩,
    ⟨mapped true (stPeer 1 [(1, 0x1007F), (2, 1)]), 1, 2, _, ⟨512, 2 ^ 40, [], .hd, false⟩, settled rfl _, by decide, by decide,
      by decide +kernel, rfl, by decide +kernel, by decide, by decide, by decide, by decide +kernel⟩,
    ⟨st 0 [], 1, 2, settled rfl _, by decide⟩⟩

theorem witness_FencesAcquireAndRelease :
    (∃ (i : Instr) (sc : Scope) (rel : Bool), fenceTable i = some (sc, rel, true)) ∧
    (∃ (i : Instr) (sc : Scope) (acq : Bool), fenceTable i = some (sc, true, acq) ∧ sc ≠ .core) ∧
    (∃ (i : Instr) (sc : Scope), fenceTable i = some (sc, false, true)) ∧
    (∃ (i : Instr) (rel acq : Bool), fenceTable i = some (.core, rel, acq)) ∧
    (∃ (i : Instr) (sc : Scope), fenceTable i = some (sc, false, true) ∧ sc ≠ .sys) :=
  ⟨⟨.fenceScSys, .sys, true, rfl⟩, ⟨.fenceRelFloe, .floe, false, rfl, by decide⟩, ⟨.fenceAcqSys, .sys, rfl⟩,
    ⟨.fenceRelCore, true, false, rfl⟩, ⟨.fenceAcqPkg, .pkg, rfl, by decide⟩⟩

/-- A record. -/
def Test.rec : Rec := ⟨2, 0x10000, 0, 0, 0, 0, 0, 0, 1, 2, 3, 4, 5, 0, 0, 0⟩

/-- A state with its ready pools given: floe 0's and die 0's, which then holds no overflow area (R359). -/
def Test.stPools (l : List (Nat × Word)) (n m : Nat) : State :=
  { st 0 l with
    floes := [(0, { Floe.reset with pool := List.replicate n Test.rec })]
    sync := { SyncSys.reset with
      dies := SyncSys.reset.dies.set 0 { Die.reset with pool := List.replicate m Test.rec, ovf := 0 } } }

theorem Test.poolLen (l : List (Nat × Word)) (n m : Nat) : ((stPools l n m).floe 0).pool.length = n :=
  List.length_replicate

theorem Test.dieLen (l : List (Nat × Word)) (n m : Nat) : ((stPools l n m).die 0).pool.length = m :=
  List.length_replicate

theorem Test.quiet0 (s : State) (h : s.host = HostSys.reset) : Quiet s := by simp [Quiet, h, HostSys.reset]

theorem witness_ThreadControl :
    (∃ (s : State) (a : Reg), Settled s.th [xr a, 10, 11, 12, 13, 14] ∧ (s.th.getX a).toNat % 4 = 0 ∧ floeOfCore s.th.core = 0 ∧
      (s.floe 0).pool.length = 255) ∧
    (∃ (s : State) (a : Reg), Settled s.th [xr a, 10, 11, 12, 13, 14] ∧ (s.th.getX a).toNat % 4 = 0 ∧ floeOfCore s.th.core = 0 ∧
      (s.floe 0).pool.length = 256 ∧ (s.die 0).pool.length < dieCap (s.die 0)) ∧
    (∃ (s : State) (a : Reg), Settled s.th [xr a, 10, 11, 12, 13, 14] ∧ (s.th.getX a).toNat % 4 = 0 ∧ floeOfCore s.th.core = 0 ∧
      (s.floe 0).pool.length = 256 ∧ (s.die 0).pool.length = dieCap (s.die 0)) ∧
    (∃ (s : State) (a : Reg), Settled s.th [xr a, 10, 11, 12, 13, 14] ∧ (s.th.getX a).toNat % 4 ≠ 0) ∧
    (∃ s : State, s.th.live = true ∧ s.th.rep = none ∧ s.th.ports = [] ∧ Quiet s ∧ s.th.inh = false ∧ floeOfCore s.th.core = 0 ∧
      (s.floe 0).pool.length = 255) ∧
    (∃ s : State, s.th.live = true ∧ s.th.rep = none ∧ s.th.ports = [] ∧ Quiet s ∧ s.th.inh = false ∧
      poolRoom s (floeOfCore s.th.core) = false) ∧
    (∃ (s : State) (a b : Reg), s.th.live = true ∧ s.th.rep = none ∧ s.th.ports = [] ∧ Quiet s ∧ s.th.inh = false ∧
      Settled s.th [xr a, xr b] ∧ lineAt (s.th.getX a).toNat = some (floeOfCore s.th.core, .event) ∧
      parkRoom s (floeOfCore s.th.core / 64) = true) :=
  ⟨⟨stPools [] 255 0, 0, settled rfl _, by decide, by decide, poolLen _ _ _⟩,
    ⟨stPools [] 256 4095, 0, settled rfl _, by decide, by decide, poolLen _ _ _, by rw [dieLen]; decide⟩,
    ⟨stPools [] 256 4096, 0, settled rfl _, by decide, by decide, poolLen _ _ _, by rw [dieLen]; rfl⟩,
    ⟨st 0 [(1, -1)], 1, settled rfl _, by decide⟩,
    ⟨stPools [] 255 0, rfl, rfl, rfl, quiet0 _ rfl, rfl, by decide, poolLen _ _ _⟩,
    ⟨stPools [] 256 4096, rfl, rfl, rfl, quiet0 _ rfl, rfl, by
      have h : floeOfCore (stPools [] 256 4096).th.core = 0 := by decide
      simp only [h, poolRoom, poolLen, Nat.zero_div, dieLen]; decide⟩,
    ⟨st 0 [(1, 0x00F50000000009C0)], 1, 0, rfl, rfl, rfl, quiet0 _ rfl, rfl, settled rfl _, by decide, by decide +kernel⟩⟩

theorem witness_EventLines :
    (∃ (s : State) (a : Reg), Settled s.th [xr a] ∧ lineAt (s.th.getX a).toNat = some (floeOfCore s.th.core, .bar)) ∧
    (∃ (s : State) (a : Reg) (f : Nat), Settled s.th [xr a] ∧ lineAt (s.th.getX a).toNat = some (f, .event) ∧
      f ≠ floeOfCore s.th.core) ∧
    (∃ (s : State) (a : Reg), Settled s.th [xr a] ∧ (s.th.getX a).toNat < 2 ^ 57 ∧ lineAt (s.th.getX a).toNat = none) ∧
    (∃ (s : State) (a : Reg), Settled s.th [xr a] ∧ (s.th.getX a).toNat < 2 ^ 57 ∧
      ∃ f, lineAt (s.th.getX a).toNat = some (f, .mtx)) ∧
    (∃ (s : State) (a : Reg) (f q : Nat) (u : Thread), Settled s.th [xr a] ∧ lineAt (s.th.getX a).toNat = some (f, .event) ∧
      s.reaches s.tenant f = true ∧ s.th.wait = .none ∧ s.slots[0]? = some u ∧ u.live = true ∧
      u.wait = .line (s.th.getX a).toNat q) :=
  ⟨⟨st 0 [(1, 0x00F50000000001C0)], 1, settled rfl _, by decide⟩,
    ⟨st 0 [(1, 0x00F50000000FF200)], 1, 255, settled rfl _, by decide, by decide⟩,
    ⟨st 0 [(1, 0x00F5000000000C00)], 1, settled rfl _, by decide, by decide⟩,
    ⟨st 0 [(1, 0x00F5000000000A00)], 1, settled rfl _, by decide, 0, by decide⟩,
    ⟨{ st 0 [(1, 0x00F50000000FF200)] with slots := [{ user [] with slot := 1, tid := 2, wait := .line 0x00F50000000FF200 0 }] },
      1, 255, 0, _, settled rfl _, by decide, by decide +kernel, rfl, rfl, rfl, rfl⟩⟩

/-- A state whose thread holds granules and vector registers. -/
def Test.vst (gran : Nat) (l : List (Nat × Word)) : State := stWith 1 l fun t => { t with gran := gran }

theorem Test.vready (gran : Nat) (l : List (Nat × Word)) (vs : List Reg) (xs : List Nat) (m : Mask) (d : List Reg)
    (h : gran ≠ 0) : VReady (vst gran l) vs xs m d := ⟨h, settled rfl _, fun r _ => by simp [vst, stWith, user, Thread.idle, Thread.portOf, look]⟩

theorem witness_VectorIntegerResults :
    ∃ (i : Instr) (s : State) (d a b : Reg) (m : Mask) (t : IT) (f : Nat → Nat → Nat × Bool),
      vecInt i = some (d, a, b, m, t, f) ∧ VReady s [a, b] [] m [d] :=
  ⟨.vadds 31 24 0 7 .n8, vst 2 [], 31, 24, 0, 7, .n8, _, rfl, vready _ _ _ _ _ _ (by decide)⟩

theorem witness_VectorComparesAndSelections :
    (∃ (i : Instr) (s : State) (d a b : Reg) (m : Mask) (w : Nat) (c : Nat → Nat → Bool) (g : Nat → Nat → BitVec 6),
      vecCompare i = some (d, a, b, m, w, c, g) ∧ VReady s [a, b] [] m []) ∧
    (∃ (i : Instr) (s : State) (d a b : Reg) (vs : List Reg) (m : Mask) (ty : FT) (f : Nat → Nat → Rnd),
      vecSelect i = some (d, vs, m, ty, a, b, f) ∧ VReady s vs [] m [d]) :=
  ⟨⟨.vcge 3 1 2 0 .i64, vst 1 [], 3, 1, 2, 0, 64, _, _, rfl, vready _ _ _ _ _ _ (by decide)⟩,
    ⟨.vfneg .f16 3 1 1, vst 2 [], 3, 1, 1, [1], 1, .f16, _, rfl, vready _ _ _ _ _ _ (by decide)⟩⟩

theorem witness_VectorFloatResults :
    (∃ (i : Instr) (s : State) (d : Reg) (vs : List Reg) (m : Mask) (r : RM) (ty : FT) (f : Nat → Mode → Rnd),
      vecRounded i s.th = some (d, vs, m, r, ty, f) ∧ rmEff r s.th.frm = none) ∧
    (∃ (i : Instr) (s : State) (d : Reg) (vs : List Reg) (m : Mask) (r rm : RM) (ty : FT) (f : Nat → Mode → Rnd),
      vecRounded i s.th = some (d, vs, m, r, ty, f) ∧ rmEff r s.th.frm = some rm ∧ VReady s vs [] m [d]) :=
  ⟨⟨.vfexp 3 1 0 .dyn .f32, stWith 0 [] fun t => { t with frm := 7 }, 3, [1], 0, .dyn, .f32, _, rfl, rfl⟩,
    ⟨.vfnma .f64 3 1 2 7 .sr, vst 2 [], 3, [1, 2, 3], 7, .sr, .sr, .f64, _, rfl, rfl, vready _ _ _ _ _ _ (by decide)⟩⟩

theorem witness_VectorReductionsAndScans :
    (∃ (i : Instr) (s : State) (d a : Reg) (r rm : RM) (m : Mask) (t : RT) (c : Comb),
      vecReduce i = some (d, a, r, m, t, c) ∧ VReady s [a] [] m [d] ∧
      (c = Comb.sum ∧ t.isFp = true → rmEff r s.th.frm = some rm)) ∧
    (∃ (i : Instr) (s : State) (d a : Reg) (r rm : RM) (m : Mask) (t : RT) (self : Bool),
      vecScan i = some (d, a, r, m, t, self) ∧ VReady s (if m = 0 then [a] else [a, d]) [] m [d] ∧
      (t.isFp = true → rmEff r s.th.frm = some rm)) :=
  ⟨⟨.vredsum 3 1 .sr 7 .bf16, vst 2 [], 3, 1, .sr, .sr, 7, .bf16, .sum, rfl, vready _ _ _ _ _ _ (by decide), by decide⟩,
    ⟨.vscanx 3 1 .dyn 7 .f16, vst 2 [], 3, 1, .dyn, .rne, 7, .f16, false, rfl, vready _ _ _ _ _ _ (by decide), by decide⟩⟩

theorem witness_OrderOfReductionsDoesNotMatter :
    (∃ (m : MemSys) (f : Fmt) (key : Nat) (vs ws : List Nat), f.isWide = true ∧ Memory.wf m.bytes ∧
      (∀ r ∈ m.reds, r.key ≠ key) ∧ vs.Perm ws ∧ vs ≠ ws) ∧
    (∃ l k : List Nat, l.Perm k ∧ l ≠ k) :=
  ⟨⟨MemSys.reset, .fp16, 0x100000, [0x3C00, 0x7BFF, 0xFBFF], [0x7BFF, 0x3C00, 0xFBFF], rfl, by decide, by simp [MemSys.reset],
      by decide, by decide⟩,
    ⟨[1, 2], [2, 1], by decide, by decide⟩⟩

theorem witness_LaneGroups :
    (∃ (i : Instr) (s : State) (d a b : Reg) (rm : RM) (m : Mask) (t : RT) (c : Comb),
      vecGroup i = some (d, a, b, m, t, c) ∧ VReady s [a] [xr b] m [d] ∧
      (c = Comb.sum ∧ t.isFp = true → rmEff .dyn s.th.frm = some rm)) ∧
    (∃ (s : State) (d a b : Reg) (rm : RM) (m : Mask) (t : RT), VReady s [a] [xr b] m [d] ∧
      (t.isFp = true → rmEff .dyn s.th.frm = some rm)) ∧
    (∃ (s : State) (d a b : Reg) (m : Mask), VReady s [a] [xr b] m [d]) ∧
    (∃ (s : State) (d a b : Reg), VReady s [a, d] [xr b] 0 [d] ∧ inGroup (s.th.getX b) (s.th.n 8) 7 255 = true) :=
  ⟨⟨.vsgsum 3 1 2 7 .f64, vst 2 [(2, 0x4040404040404040)], 3, 1, 2, .rne, 7, .f64, .sum, rfl, vready _ _ _ _ _ _ (by decide),
      by decide⟩,
    ⟨vst 1 [], 3, 1, 2, .rne, 0, .i32, vready _ _ _ _ _ _ (by decide), by decide⟩,
    ⟨vst 1 [], 3, 1, 2, 1, vready _ _ _ _ _ _ (by decide)⟩,
    ⟨vst 2 [(2, 0x2020202020202020)], 3, 1, 2, vready _ _ _ _ _ _ (by decide), by decide +kernel⟩⟩

theorem witness_VectorPermutesAndMoves :
    (∃ (i : Instr) (s : State) (d : Reg) (vs : List Reg) (xs : List Nat) (m : Mask) (w : Nat) (f : Nat → Nat),
      vecPermute i s.th = some (d, vs, xs, m, w, f) ∧ VReady s vs xs m [d]) ∧
    (∃ (s : State) (a b : Reg) (m : Mask), VReady s [a, b] [] m [3]) ∧
    (∃ (s : State) (a b : Reg), VReady s [a] [xr b] 0 []) ∧
    (∃ (s : State) (d a b : Reg), VReady s [d] [xr a, xr b] 0 [d] ∧ s.th.n 64 ≤ (s.th.getX b).toNat) ∧
    (∃ (s : State) (d a b : Reg), VReady s [d] [xr a, xr b] 0 [d] ∧ (s.th.getX b).toNat < s.th.n 64) :=
  ⟨⟨.vslideup 3 1 2 7 .w8, vst 2 [(2, -1)], 3, [1, 3], [xr 2], 7, 8, _, rfl, vready _ _ _ _ _ _ (by decide)⟩,
    ⟨vst 1 [], 1, 2, 7, vready _ _ _ _ _ _ (by decide)⟩, ⟨vst 1 [], 1, 2, vready _ _ _ _ _ _ (by decide)⟩,
    ⟨vst 2 [(2, 32)], 3, 1, 2, vready _ _ _ _ _ _ (by decide), by decide +kernel⟩,
    ⟨vst 2 [(2, 31)], 3, 1, 2, vready _ _ _ _ _ _ (by decide), by decide +kernel⟩⟩

theorem witness_VectorConversionForms :
    (∃ (i : Instr) (s : State) (d : Reg) (vs : List Reg) (m : Mask) (r : RM) (wide cd : Nat) (f : Nat → Mode → Rnd),
      vecConvert i s.th = some (d, vs, m, r, wide, cd, f) ∧ formOk i = true ∧ rmEff r s.th.frm = none) ∧
    (∃ (i : Instr) (s : State) (d : Reg) (vs : List Reg) (m : Mask) (r rm : RM) (wide cd : Nat) (f : Nat → Mode → Rnd),
      vecConvert i s.th = some (d, vs, m, r, wide, cd, f) ∧ formOk i = true ∧ rmEff r s.th.frm = some rm ∧
      VReady s vs [] m [d]) ∧
    (∃ (i : Instr) (s : State) (d : Reg) (vs : List Reg) (m : Mask) (wide cd : Nat) (f : Nat → Rnd),
      vecExact i s.th = some (d, vs, m, wide, cd, f) ∧ formOk i = true ∧ VReady s vs [] m [d]) :=
  ⟨⟨.vmxcvt 3 1 2 0 .e2m1, stWith 0 [] fun t => { t with frm := 5 }, 3, [1, 2], 0, .dyn, 32, 4, _, rfl, rfl, rfl⟩,
    ⟨.vcvt 3 1 .e8m0 .dyn 7 .fp64, vst 2 [], 3, [1], 7, .dyn, .rne, 64, 8, _, rfl, rfl, rfl, vready _ _ _ _ _ _ (by decide)⟩,
    ⟨.vqgext 3 1 2 7 .qg4, vst 2 [], 3, [1, 2], 7, 32, 32, _, rfl, rfl, vready _ _ _ _ _ _ (by decide)⟩⟩

/-- A rime record of tenant 0 at the first quad of die 0. -/
def Test.rime (trap : Bool) : Rime :=
  { stats := Stats.zero, ftime := 0, fseq := 0, base := 0, trap := trap, en := true, fmt := .e4m3, tag := 0
    snap := 0x3F800000, lost := false }

/-- The first handle of die 0. -/
def Test.h0 : Nat := 0x00F4000000000000

/-- A state with one object of tenant 0 at `h0`. -/
def Test.stObj (k : Kind) (l : List (Nat × Word)) (f : Thread → Thread) : State :=
  { stWith 0 l f with sync := { SyncSys.reset with objs := [(h0, ⟨0, true, false, k⟩)] } }

theorem Test.canUse {s : State} {h : Nat} {k : HKind} {o : Obj} (ho : s.obj h = some o)
    (hh : (decide (h % (if k = .rime then 256 else 64) = 0) && decide (h < 2 ^ 57) && inSync h && o.kind.is k &&
      decide (o.tenant = s.tenant)) = true) : CanUse s h k o := by
  simp only [Bool.and_eq_true, decide_eq_true_eq] at hh
  exact ⟨hh.1.1.1.1, hh.1.1.1.2, hh.1.1.2, ho, hh.1.2, hh.2⟩

theorem witness_QuantizeByRecord :
    (∃ (s : State) (a b : Reg) (m : Mask) (f : Fmt) (o : Obj) (r : Rime) (rm : RM) (j : Nat),
      (f.isNarrow = true ∨ f = .i8) ∧ rmEff .dyn s.th.frm = some rm ∧ VReady s [a] [xr b] m [3] ∧
      CanUse s ((s.th.getX b).toNat / 256 * 256) .rime o ∧ o.kind = .rime r ∧ o.poison = false ∧
      r.trap = true ∧ j = 0 ∧ j < count s.th 32 ∧ on s.th m j = true ∧
      exceeds f (shiftE (scaleExp r.snap f ((s.th.getX b).setWidth 8).toInt) (Fmt.fp32.val (elem (s.th.getV a) 32 j))) = true) ∧
    (∃ (s : State) (a b : Reg) (m : Mask) (f : Fmt) (o : Obj) (r : Rime) (rm : RM),
      (f.isNarrow = true ∨ f = .i8) ∧ rmEff .dyn s.th.frm = some rm ∧ VReady s [a] [xr b] m [3] ∧
      CanUse s ((s.th.getX b).toNat / 256 * 256) .rime o ∧ o.kind = .rime r ∧ o.poison = false ∧ r.trap = false ∧
      s.th.vl ≤ 64) :=
  ⟨⟨stObj (.rime (rime true)) [(2, BitVec.ofNat 64 h0)] fun t => { t with gran := 1, v := t.v.set 1 0x7F7FFFFF },
      1, 2, 0, .e4m3, _, rime true, .rne, 0, .inl rfl, rfl,
      ⟨by decide, settled rfl _, fun r _ => by simp [stObj, stWith, user, Thread.idle, Thread.portOf, look]⟩,
      canUse (o := ⟨0, true, false, .rime (rime true)⟩) (by decide +kernel) (by decide +kernel), rfl, rfl, rfl, rfl,
      by decide +kernel, by decide +kernel, by decide +kernel⟩,
    ⟨stObj (.rime (rime false)) [(2, BitVec.ofNat 64 h0)] fun t => { t with gran := 2, frm := 4 },
      1, 2, 7, .i8, ⟨0, true, false, .rime (rime false)⟩, rime false, .sr, .inr rfl, rfl,
      ⟨by decide, settled rfl _, fun r _ => by simp [stObj, stWith, user, Thread.idle, Thread.portOf, look]⟩,
      canUse (by decide +kernel) (by decide +kernel), rfl, rfl, rfl, by decide +kernel⟩⟩

/-- What every clause about vector accesses assumes. -/
def Test.VecOk (i : Instr) (s : State) (store : Bool) (r : Reg) (vs : List Reg) (xs : List Nat) (m : Mask) (w : Nat)
    (ea : Nat → Nat) : Prop :=
  vecAccess i s.th = some (store, r, vs, xs, m, w, ea) ∧ VReady s (if store then r :: vs else vs) xs m [r] ∧
    (∀ d ∈ s.host.dbg, d.core ≠ s.th.core) ∧ s.th.vpart = none

theorem Test.loadable : ∀ k, Performs (vst 1 [(1, 0x1FFF8)]).th 0 64 k →
    CanAccess (vst 1 [(1, 0x1FFF8)]) .rd ((vst 1 [(1, 0x1FFF8)]).th.getX 1 +
      (BitVec.ofNat 64 (elem ((vst 1 [(1, 0x1FFF8)]).th.getV 2) 64 k)).signExtend 64).toNat 8 (vkey 0x1FFF8) .swc := by
  intro k hk
  have h : ∀ k < 16, ((vst 1 [(1, 0x1FFF8)]).th.getX 1 +
      (BitVec.ofNat 64 (elem ((vst 1 [(1, 0x1FFF8)]).th.getV 2) 64 k)).signExtend 64).toNat % 8 = 0 ∧
      resolve (vst 1 [(1, 0x1FFF8)]) 0 0 .rd ((vst 1 [(1, 0x1FFF8)]).th.getX 1 +
        (BitVec.ofNat 64 (elem ((vst 1 [(1, 0x1FFF8)]).th.getV 2) 64 k)).signExtend 64).toNat 8 = .ok (vkey 0x1FFF8) .swc ∧
      badRead (vst 1 [(1, 0x1FFF8)]) ((vst 1 [(1, 0x1FFF8)]).th.getX 1 +
        (BitVec.ofNat 64 (elem ((vst 1 [(1, 0x1FFF8)]).th.getV 2) 64 k)).signExtend 64).toNat (vkey 0x1FFF8) 8 .swc = false := by
    decide +kernel
  have hc : count (vst 1 [(1, 0x1FFF8)]).th 64 = 16 := by decide +kernel
  have he := h k (by have := hk.1; omega)
  exact access he.1 he.2.1 he.2.2 rfl

/-- A state that may store 128 bytes at 0x1FF80, `n` of its elements in a step (0: all). -/
def Test.stVec (n : Nat) : State := { vst 1 [(1, 0x1FF80)] with limit := n }

theorem Test.storable (n : Nat) (hn : n ∈ [0, 15]) : ∀ k, Performs (stVec n).th 0 64 k →
    CanAccess (stVec n) .wr ((stVec n).th.getX 1 + BitVec.ofNat 64 (k * 8)).toNat 8 (vkey (0x1FF80 + 8 * k)) .swc := by
  intro k hk
  have h : ∀ n ∈ [0, 15], count (stVec n).th 64 = 16 ∧ ∀ k < 16, ((stVec n).th.getX 1 + BitVec.ofNat 64 (k * 8)).toNat % 8 = 0 ∧
      resolve (stVec n) (stVec n).th.core (stVec n).tenant .wr ((stVec n).th.getX 1 + BitVec.ofNat 64 (k * 8)).toNat 8 =
        .ok (vkey (0x1FF80 + 8 * k)) .swc := by decide +kernel
  have he := (h n hn).2 k (by have := hk.1; have := (h n hn).1; omega)
  exact ⟨⟨he.1, he.2, fun d hd => by simp [stVec, vst, stWith, st, State.reset, HostSys.reset] at hd⟩, fun h => by cases h⟩

theorem witness_VectorMemory :
    (∃ (i : Instr) (s : State) (r : Reg) (vs : List Reg) (xs : List Nat) (m : Mask) (w : Nat) (ea key : Nat → Nat)
      (cls : Nat → Cls), VecOk i s false r vs xs m w ea ∧ s.limit = 0 ∧
      ∀ k, Performs s.th m w k → CanAccess s .rd (ea k) (w / 8) (key k) (cls k)) ∧
    (∃ (i : Instr) (s : State) (r : Reg) (vs : List Reg) (xs : List Nat) (m : Mask) (w : Nat) (ea key : Nat → Nat)
      (cls : Nat → Cls), VecOk i s true r vs xs m w ea ∧ s.limit = 0 ∧
      (∀ k, Performs s.th m w k → CanAccess s .wr (ea k) (w / 8) (key k) (cls k)) ∧
      (∀ j k, Performs s.th m w j → Performs s.th m w k → j < k →
        ea j ≠ ea k ∧ (key j + w / 8 ≤ key k ∨ key k + w / 8 ≤ key j)) ∧
      Memory.wf s.mem.bytes ∧ (∀ c ∈ s.mem.l1, Memory.wf c.data) ∧ s.host.replayState ≠ 1) ∧
    (∃ (i : Instr) (s : State) (r : Reg) (vs : List Reg) (xs : List Nat) (m : Mask) (w : Nat) (ea key : Nat → Nat)
      (cls : Nat → Cls), VecOk i s true r vs xs m w ea ∧
      (∀ k, Performs s.th m w k → CanAccess s .wr (ea k) (w / 8) (key k) (cls k)) ∧ s.limit ≠ 0 ∧
      s.limit < ((List.range (count s.th w)).filter fun k => on s.th m (k * w / 32)).length) ∧
    (∃ (i : Instr) (s : State) (r : Reg) (vs : List Reg) (xs : List Nat) (m : Mask) (w : Nat) (ea : Nat → Nat) (k : Nat),
      VecOk i s true r vs xs m w ea ∧ Performs s.th m w k ∧
      ea k % (w / 8) ≠ 0 ∧ ∀ j, j < k → Performs s.th m w j → ea j % (w / 8) = 0) := by
  refine ⟨⟨.vldx 3 1 2 0 .hd .w64, vst 1 [(1, 0x1FFF8)], 3, [2], [xr 1], 0, 64, _, fun _ => vkey 0x1FFF8, fun _ => .swc,
      ⟨rfl, vready _ _ _ _ _ _ (by decide), by decide, rfl⟩, rfl, loadable⟩,
    ⟨.vst 3 1 0 .hd .w64, stVec 0, 3, [], [xr 1], 0, 64, _, fun k => vkey (0x1FF80 + 8 * k), fun _ => .swc,
      ⟨rfl, vready _ _ _ _ _ _ (by decide), by decide, rfl⟩, rfl, storable 0 (by decide), ?_, by decide, by decide, by decide⟩,
    ⟨.vst 3 1 0 .hd .w64, stVec 15, 3, [], [xr 1], 0, 64, _, fun k => vkey (0x1FF80 + 8 * k),
      fun _ => .swc, ⟨rfl, vready _ _ _ _ _ _ (by decide), by decide, rfl⟩, storable 15 (by decide), by decide, by decide +kernel⟩,
    ⟨.vsts 3 1 2 0 .hd .w16, vst 1 [(1, 0x10000), (2, 1)], 3, [], [xr 1, xr 2], 0, 16, _, 1,
      ⟨rfl, vready _ _ _ _ _ _ (by decide), by decide, rfl⟩, ⟨by decide +kernel, rfl⟩, by decide +kernel,
      fun j hj _ => by obtain rfl : j = 0 := by omega
                       decide +kernel⟩⟩
  intro j k hj hk hlt
  have h : ∀ k < 16, ∀ j < k, ((vst 1 [(1, 0x1FF80)]).th.getX 1 + BitVec.ofNat 64 (j * 8)).toNat ≠
      ((vst 1 [(1, 0x1FF80)]).th.getX 1 + BitVec.ofNat 64 (k * 8)).toNat := by decide +kernel
  have hc : count (stVec 0).th 64 = 16 := by decide +kernel
  have hk : k < count (stVec 0).th 64 := hk.1
  exact ⟨h k (by omega) j hlt, .inl (by simp only [vkey]; omega)⟩

theorem witness_LaneSlicesAndClaims :
    (∃ (s : State) (a : Reg) (m : Mask), VReady s [] [xr a] m [3] ∧ (s.th.getX a).toNat % 4 ≠ 0) ∧
    (∃ (s : State) (a : Reg) (m : Mask), VReady s [] [xr a] m [3] ∧ (s.th.getX a).toNat % 4 = 0 ∧ 508 < (s.th.getX a).toNat) ∧
    (∃ (s : State) (a : Reg) (m : Mask), VReady s [3] [xr a] m [3] ∧ (s.th.getX a).toNat % 4 = 0 ∧
      (s.th.getX a).toNat ≤ 508 ∧ s.th.bad = [] ∧ Memory.wf s.th.slice) ∧
    (∃ (s : State) (a : Reg), Settled s.th [xr a] ∧ s.th.ports = [] ∧
      min (min (s.th.getX a).toNat 2) (s.th.gran + granulesFree s (floeOfCore s.th.core)) = s.th.gran) ∧
    (∃ (s : State) (a : Reg), Settled s.th [xr a] ∧ s.th.ports = [] ∧
      min (min (s.th.getX a).toNat 2) (s.th.gran + granulesFree s (floeOfCore s.th.core)) ≠ s.th.gran) :=
  ⟨⟨vst 1 [(1, 510)], 1, 0, vready _ _ _ _ _ _ (by decide), by decide⟩,
    ⟨vst 1 [(1, 512)], 1, 7, vready _ _ _ _ _ _ (by decide), by decide, by decide⟩,
    ⟨vst 2 [(1, 508)], 1, 7, vready _ _ _ _ _ _ (by decide), by decide, by decide, rfl, by decide⟩,
    ⟨vst 2 [(1, -1)], 1, settled rfl _, rfl, by decide +kernel⟩, ⟨vst 2 [(1, 1)], 1, settled rfl _, rfl, by decide +kernel⟩⟩

/-- A stream port. -/
def Test.port (write : Bool) : Port :=
  { desc := 0x10000, write := write, base := 0x10000, stride := 128, count := 2, hint := 0, done := 0, pushed := 0
    ovf := false, flt := false, ahead := [], queue := [], fail := none, te := 0 }

/-- A state whose thread has port 0 bound and page 0x10000 SWC, with a descriptor's first bytes at 0x10000. -/
def Test.stDesc (bs : Memory) (p : List (Nat × Port)) : State :=
  (stWith 1 [(1, 0x10000)] fun t => { t with gran := 1, ports := p }).onMem fun m => { m with bytes := bs }

/-- A memory-management request of tenant 0 for the page at 0x10000. -/
def Test.mmReq (stage : Nat) : MmReq :=
  { tenant := 0, ring := some 0, seq := 0, irq := false, entry := 0, start := 0x10000, len := 0x10000, action := 0, attr := 0
    owner := 0, comp := 0, val := 0, corr := 0, held := [], bad := false, stage := stage, result := 0, pages := 0 }

/-- A state whose page at 0x10000 is in transition. -/
def Test.inTrans (s : State) : State :=
  { s with lp := { s.lp with mm := [{ mmReq 2 with held := [(0x10000, 0x10000)] }] } }

/-- How the descriptor of a port that is unbound can be written. -/
def Test.unbindFit (s : State) (p : Port) : Fit :=
  spansList (noteRange (settle s p.desc 32) s.th.lid p.desc 32) s.th.core s.tenant .wr [(p.desc + 24, 8)]

theorem witness_StreamPortBindings :
    (∃ (i : Instr) (s : State) (n : Fin 8) (a : Reg) (w : Bool) (key : Nat) (cls : Cls), bindTable i = some (n, a, w) ∧
      s.th.gran ≠ 0 ∧ Settled s.th [xr a] ∧ look s.th.ports n.val = none ∧ CanAccess s .rd (s.th.getX a).toNat 32 key cls ∧
      sees s (s.th.getX a).toNat key 32 cls % 2 ^ 64 % 4 ≠ 0) ∧
    (∃ (i : Instr) (s : State) (n : Fin 8) (a : Reg) (w : Bool) (key : Nat) (cls : Cls), bindTable i = some (n, a, w) ∧
      s.th.gran ≠ 0 ∧ Settled s.th [xr a] ∧ look s.th.ports n.val = none ∧ CanAccess s .rd (s.th.getX a).toNat 32 key cls ∧
      sees s (s.th.getX a).toNat key 32 cls % 2 ^ 64 % 4 = 0 ∧
      sees s (s.th.getX a).toNat key 32 cls / 2 ^ 64 % 2 ^ 64 % 4 ≠ 0) ∧
    (∃ (i : Instr) (s : State) (n : Fin 8) (a : Reg) (w : Bool) (key : Nat) (cls : Cls), bindTable i = some (n, a, w) ∧
      s.th.gran ≠ 0 ∧ Settled s.th [xr a] ∧ look s.th.ports n.val = none ∧ CanAccess s .rd (s.th.getX a).toNat 32 key cls ∧
      sees s (s.th.getX a).toNat key 32 cls % 2 ^ 64 % 4 = 0 ∧
      sees s (s.th.getX a).toNat key 32 cls / 2 ^ 64 % 2 ^ 64 % 4 = 0 ∧
      sees s (s.th.getX a).toNat key 32 cls / 2 ^ 162 % 2 ^ 30 ≠ 0) ∧
    (∃ (i : Instr) (s : State) (n : Fin 8) (a : Reg) (w : Bool) (key : Nat) (cls : Cls), bindTable i = some (n, a, w) ∧
      s.th.gran ≠ 0 ∧ Settled s.th [xr a] ∧ look s.th.ports n.val = none ∧ CanAccess s .rd (s.th.getX a).toNat 32 key cls ∧
      sees s (s.th.getX a).toNat key 32 cls % 2 ^ 64 % 4 = 0 ∧
      sees s (s.th.getX a).toNat key 32 cls / 2 ^ 64 % 2 ^ 64 % 4 = 0 ∧
      sees s (s.th.getX a).toNat key 32 cls / 2 ^ 162 % 2 ^ 30 = 0) ∧
    (∃ (s : State) (n : Fin 8), look s.th.ports n.val = none) ∧
    (∃ (s : State) (n : Fin 8) (p : Port), look s.th.ports n.val = some p ∧ p.queue = [] ∧ p.fail = none ∧
      unbindFit s p = .wait) ∧
    (∃ (s : State) (n : Fin 8) (p : Port), look s.th.ports n.val = some p ∧ p.queue = [] ∧ p.fail = none ∧
      unbindFit s p ≠ .wait) :=
  ⟨⟨.vsbindRd 7 1, stDesc [(vkey 0x10000, 2)] [], 7, 1, false, vkey 0x10000, .swc, rfl, by decide, settled rfl _, rfl,
      access (by decide) (by decide +kernel) (by decide +kernel) rfl, by decide +kernel⟩,
    ⟨.vsbindWr 0 1, stDesc [(vkey 0x10008, 1)] [], 0, 1, true, vkey 0x10000, .swc, rfl, by decide, settled rfl _, rfl,
      access (by decide) (by decide +kernel) (by decide +kernel) rfl, by decide +kernel, by decide +kernel⟩,
    ⟨.vsbindWr 0 1, stDesc [(vkey 0x10014, 4)] [], 0, 1, true, vkey 0x10000, .swc, rfl, by decide, settled rfl _, rfl,
      access (by decide) (by decide +kernel) (by decide +kernel) rfl, by decide +kernel, by decide +kernel, by decide +kernel⟩,
    ⟨.vsbindRd 0 1, stDesc [(vkey 0x10008, 4), (vkey 0x10014, 3)] [], 0, 1, false, vkey 0x10000, .swc, rfl, by decide, settled rfl _, rfl,
      access (by decide) (by decide +kernel) (by decide +kernel) rfl, by decide +kernel, by decide +kernel, by decide +kernel⟩,
    ⟨st 0 [], 7, rfl⟩, ⟨inTrans (stDesc [] [(0, port true)]), 0, port true, rfl, rfl, rfl, by decide +kernel⟩,
    ⟨stDesc [] [(0, port true)], 0, port true, rfl, rfl, rfl,
      by decide +kernel⟩⟩

theorem witness_StreamPortOperands :
    (∃ (i : Instr) (s : State) (d a b : Reg) (m : Mask) (t : IT) (f : Nat → Nat → Nat × Bool) (n : Fin 8) (p : Port)
      (q : Fetched) (rest : List Fetched), vecInt i = some (d, a, b, m, t, f) ∧ s.th.gran ≠ 0 ∧
      Settled s.th ([a, b].map vr ++ maskSrc m) ∧ look s.th.ports n.val = some p ∧ a.val = 24 + n.val ∧ b.val = 24 + n.val ∧
      s.th.portOf d = none ∧ p.write = false ∧ p.done < p.count ∧ p.ahead = q :: rest ∧ q.fail = none) ∧
    (∃ (i : Instr) (s : State) (d a b : Reg) (m : Mask) (t : IT) (f : Nat → Nat → Nat × Bool) (n : Fin 8) (p : Port),
      vecInt i = some (d, a, b, m, t, f) ∧ s.th.gran ≠ 0 ∧ Settled s.th ([a, b].map vr ++ maskSrc m) ∧
      look s.th.ports n.val = some p ∧ a.val = 24 + n.val ∧ b.val = 24 + n.val ∧ s.th.portOf d = none ∧ p.write = false ∧
      p.count ≤ p.done) ∧
    (∃ (i : Instr) (s : State) (d a b : Reg) (m : Mask) (t : IT) (f : Nat → Nat → Nat × Bool) (n : Fin 8) (p : Port),
      vecInt i = some (d, a, b, m, t, f) ∧ s.th.gran ≠ 0 ∧ Settled s.th ([a, b].map vr ++ maskSrc m) ∧
      look s.th.ports n.val = some p ∧ d.val = 24 + n.val ∧ s.th.portOf a = none ∧ s.th.portOf b = none ∧ p.write = true ∧
      p.fail = none ∧ p.flt = false ∧ p.pushed < p.count) ∧
    (∃ (i : Instr) (s : State) (d a b : Reg) (m : Mask) (t : IT) (f : Nat → Nat → Nat × Bool) (n : Fin 8) (p : Port),
      vecInt i = some (d, a, b, m, t, f) ∧ s.th.gran ≠ 0 ∧ Settled s.th ([a, b].map vr ++ maskSrc m) ∧
      look s.th.ports n.val = some p ∧ (a.val = 24 + n.val ∧ p.write = true ∨ d.val = 24 + n.val ∧ p.write = false)) :=
  ⟨⟨.vadd 3 31 31 0 .i32, stDesc [] [(7, { port false with ahead := [⟨0, 5, 0, none⟩], done := 1 })], 3, 31, 31, 0, .i32, _, 7, _,
      ⟨0, 5, 0, none⟩, [], rfl, by decide, settled rfl _, rfl, rfl, rfl, rfl, rfl, by decide, rfl, rfl⟩,
    ⟨.vadd 3 24 24 0 .i8, stDesc [] [(0, { port false with done := 2 })], 3, 24, 24, 0, .i8, _, 0, _,
      rfl, by decide, settled rfl _, rfl, rfl, rfl, rfl, rfl, by decide⟩,
    ⟨.vxor 24 1 2 7 .n64, stDesc [] [(0, { port true with pushed := 1 })], 24, 1, 2, 7, .n64, _, 0, _,
      rfl, by decide, settled rfl _, rfl, rfl, rfl, rfl, rfl, rfl, rfl, by decide⟩,
    ⟨.vsub 24 1 2 0 .i16, stDesc [] [(0, port false)], 24, 1, 2, 0, .i16, _, 0, port false, rfl, by decide, settled rfl _, rfl,
      .inr ⟨rfl, rfl⟩⟩⟩

theorem witness_HandleChecks :
    (∃ (i : Instr) (s : State) (rs : List Reg) (a : Reg) (k : HKind), handleTable i = some (rs, a, k) ∧
      Settled s.th (rs.map xr) ∧ k = .rime ∧ (s.th.getX a).toNat % 256 ≠ 0) ∧
    (∃ (i : Instr) (s : State) (rs : List Reg) (a : Reg), handleTable i = some (rs, a, .bar) ∧ Settled s.th (rs.map xr) ∧
      (s.th.getX a).toNat % 64 = 0 ∧ 2 ^ 57 ≤ (s.th.getX a).toNat) ∧
    (∃ (i : Instr) (s : State) (rs : List Reg) (a : Reg), handleTable i = some (rs, a, .cnt) ∧ Settled s.th (rs.map xr) ∧
      (s.th.getX a).toNat % 64 = 0 ∧ (s.th.getX a).toNat < 2 ^ 57 ∧ region (s.th.getX a).toNat = .reserved) ∧
    (∃ (i : Instr) (s : State) (rs : List Reg) (a : Reg), handleTable i = some (rs, a, .cnt) ∧ Settled s.th (rs.map xr) ∧
      (s.th.getX a).toNat % 64 = 0 ∧ (s.th.getX a).toNat < 2 ^ 57 ∧ region (s.th.getX a).toNat ≠ .reserved ∧
      inSync (s.th.getX a).toNat = false) ∧
    (∃ (i : Instr) (s : State) (rs : List Reg) (a : Reg), handleTable i = some (rs, a, .mtx) ∧ Settled s.th (rs.map xr) ∧
      (s.th.getX a).toNat % 64 = 0 ∧ (s.th.getX a).toNat < 2 ^ 57 ∧ inSync (s.th.getX a).toNat = true ∧
      ∀ o, s.obj (s.th.getX a).toNat = some o → o.kind.is .mtx = false) ∧
    (∃ (i : Instr) (s : State) (rs : List Reg) (a : Reg) (o : Obj), handleTable i = some (rs, a, .rime) ∧
      Settled s.th (rs.map xr) ∧ (s.th.getX a).toNat % 256 = 0 ∧ (s.th.getX a).toNat < 2 ^ 57 ∧
      inSync (s.th.getX a).toNat = true ∧ s.obj (s.th.getX a).toNat = some o ∧ o.kind.is .rime = true ∧
      o.tenant ≠ s.tenant) :=
  ⟨⟨.rimeRd 1 2 3, st 0 [(1, 0x00F4000000000040)], [1, 2], 1, .rime, rfl, settled rfl _, rfl, by decide⟩,
    ⟨.barRd 1 3, st 0 [(1, 0x0200000000000000)], [1], 1, rfl, settled rfl _, by decide, by decide⟩,
    ⟨.cntRd 1 3, st 0 [(1, 0x00F4000040000000)], [1], 1, rfl, settled rfl _, by decide, by decide, by decide +kernel⟩,
    ⟨.cntWait 1 2 3, st 0 [(1, 0x00EFFFFFFFFFFFC0)], [1, 2], 1, rfl, settled rfl _, by decide, by decide, by decide +kernel,
      by decide +kernel⟩,
    ⟨.mtxFree 1 3, st 0 [(1, 0x00F4000000000040)], [1], 1, rfl, settled rfl _, by decide, by decide, by decide +kernel,
      fun o h => by cases h⟩,
    ⟨.rimeClr 1 3, { st 0 [(1, 0x00F4000000000000)] with sync := { SyncSys.reset with
        objs := [(h0, ⟨1, true, false, .rime (rime false)⟩)] } }, [1], 1, ⟨1, true, false, .rime (rime false)⟩, rfl,
      settled rfl _, by decide, by decide, by decide +kernel, by decide +kernel, rfl, by decide +kernel⟩⟩

/-- A state whose die 0 has parked `n` records and keeps no shared overflow area. -/
def Test.stFull (n : Nat) (l : List (Nat × Word)) : State :=
  { st 0 l with sync := { SyncSys.reset with
      parked := List.replicate n ⟨h0, 0, 0, 0, Test.rec, 0⟩
      dies := SyncSys.reset.dies.set 0 { Die.reset with ovf := 1 } } }

theorem Test.stFull_room (n : Nat) (l : List (Nat × Word)) (h : 73728 ≤ n) : slotRoom (stFull n l) 0 = false := by
  have ho : ((stFull n l).die 0).ovf = 1 := rfl
  have hd : sharedSlots ((stFull n l).die 0) = 0 := by
    have hs : ((stFull n l).die 0).spill = 1 := rfl
    simp [sharedSlots, ho, hs]
  have hp : parkedCount (stFull n l) 0 = n := by
    simp [parkedCount, stFull]
  simp only [slotRoom, hd, hp, decide_eq_false_iff_not]
  omega

theorem Test.find_free (l : List (Nat × Word)) (bar : Bool) : ∃ h, findSlot (st 0 l) 0 bar = some h := by
  rw [← Option.isSome_iff_exists]
  have hs : ∀ h i, snapshotted (st 0 l) h i = false := fun _ _ => rfl
  have ho : ∀ h, slotFree (st 0 l) h = true := fun _ => rfl
  have hn : (st 0 l).sync.objs = [] ∧ (st 0 l).sync.retired = [] ∧ flights (st 0 l) = 0 := ⟨rfl, rfl, rfl⟩
  have hm : 0 < min (65536 + sharedSlots ((st 0 l).die 0)) (4 * 0 + 0 + 0 + 1) := by omega
  rw [findSlot, List.find?_isSome]
  exact ⟨_, List.mem_map.2 ⟨0, List.mem_range.2 (by rw [hn.1, hn.2.1, hn.2.2]; exact hm), rfl⟩, by simp [hs, ho]⟩

theorem witness_AllocationAndFreeing :
    (∃ s : State, ∃ a : Reg, Settled s.th [xr a] ∧ slotRoom s (dieOfCore s.th.core) = true ∧
      ∃ h, findSlot s (dieOfCore s.th.core) false = some h) ∧
    (∃ (s : State) (a : Reg), Settled s.th [xr a] ∧ 2 ^ 17 ≤ (s.th.getX a).toNat) ∧
    (∃ (s : State) (a : Reg), Settled s.th [xr a] ∧ (s.th.getX a).toNat % 65536 = 0) ∧
    (∃ (s : State) (a : Reg), Settled s.th [xr a] ∧ slotRoom s (dieOfCore s.th.core) = false ∧
      (s.th.getX a).toNat < 2 ^ 17 ∧ (s.th.getX a).toNat % 65536 ≠ 0) ∧
    (∃ (s : State) (a : Reg) (h : Nat), Settled s.th [xr a] ∧ slotRoom s (dieOfCore s.th.core) = true ∧
      findSlot s (dieOfCore s.th.core) true = some h ∧ (s.th.getX a).toNat < 2 ^ 17 ∧ (s.th.getX a).toNat % 65536 ≠ 0) ∧
    (∃ (s : State) (a : Reg) (o : Obj), Settled s.th [xr a] ∧ CanUse s (s.th.getX a).toNat .cnt o ∧
      hasWaiters s (s.th.getX a).toNat = true) ∧
    (∃ (s : State) (a : Reg) (o : Obj), Settled s.th [xr a] ∧ CanUse s (s.th.getX a).toNat .mtx o ∧
      (s.mtx (s.th.getX a).toNat).holder ≠ none) ∧
    (∃ (s : State) (a : Reg) (o : Obj), Settled s.th [xr a] ∧ CanUse s (s.th.getX a).toNat .mtx o ∧
      ¬ (hasWaiters s (s.th.getX a).toNat = true ∨ (s.mtx (s.th.getX a).toNat).holder ≠ none)) :=
  ⟨⟨st 0 [], 1, settled rfl _, by decide +kernel, find_free [] false⟩,
    ⟨st 0 [(1, 0x20000)], 1, settled rfl _, by decide⟩, ⟨st 0 [(1, 0x10000)], 1, settled rfl _, by decide⟩,
    ⟨stFull 73728 [(1, 0x1FFFF)], 1, settled rfl _, stFull_room _ _ (Nat.le_refl _), by decide, by decide⟩,
    ⟨st 0 [(1, 1)], 1, (find_free _ true).choose, settled rfl _, by decide +kernel, (find_free [(1, 1)] true).choose_spec, by decide,
      by decide⟩,
    ⟨{ stObj (.cnt 0 0) [(1, 0x00F4000000000000)] id with
        slots := [{ user [] with slot := 1, tid := 2, wait := .cnt h0 1 0 0 }] }, 1, ⟨0, true, false, .cnt 0 0⟩, settled rfl _,
      canUse (by decide +kernel) (by decide +kernel), by decide +kernel⟩,
    ⟨stObj (.mtx ⟨some 1, false, 0⟩) [(1, 0x00F4000000000000)] id, 1, ⟨0, true, false, .mtx ⟨some 1, false, 0⟩⟩, settled rfl _,
      canUse (by decide +kernel) (by decide +kernel), by decide +kernel⟩,
    ⟨stObj (.mtx ⟨none, true, 0⟩) [(1, 0x00F4000000000000)] id, 1, ⟨0, true, false, .mtx ⟨none, true, 0⟩⟩, settled rfl _,
      canUse (by decide +kernel) (by decide +kernel), by decide +kernel⟩⟩

/-- What every clause about a barrier object assumes. -/
def Test.BarAt (s : State) (a b : Reg) (r : Bar) : Prop :=
  Settled s.th [xr a, xr b] ∧ s.th.wait = .none ∧
    ∃ o, CanUse s (s.th.getX a).toNat .bar o ∧ o.kind = .bar r ∧ o.poison = false

/-- A barrier, and a state where x1 holds its handle, x2 a phase and slot 1 waits for a phase of it where one is given. -/
def Test.bar (brk : Bool) (exp arr phase : Nat) : Bar := ⟨1, brk, true, exp, arr, phase, [], 7⟩
def Test.stBar (r : Bar) (x2 : Word) (w : Option Nat) : State :=
  { stObj (.bar r) [(1, 0x00F4000000000000), (2, x2)] id with
    slots := w.toList.map fun ph => { user [] with slot := 1, tid := 2, wait := .bar h0 ph 5 0 } }

theorem Test.tenant0 {s : State} (h : s.lp.tenants = [wholeTenant]) (hc : s.th.core = 0) : s.tenant = 0 := by
  simp only [State.tenant, State.tenantOf, h, hc]
  decide

theorem Test.barAt (r : Bar) (x2 : Word) (w : Option Nat) : BarAt (stBar r x2 w) 1 2 r := by
  have h : ((stBar r x2 w).th.getX 1).toNat = h0 := by simp [stBar, stObj, stWith, user, Thread.getX, regs, look, h0]
  refine ⟨settled rfl _, rfl, ⟨0, true, false, .bar r⟩, ?_, rfl, rfl⟩
  rw [h]
  exact ⟨by decide, by decide, by decide, rfl, rfl, (tenant0 rfl rfl).symm⟩

/-- How far a barrier's phase is ahead of a given one. -/
def Test.ahead (s : State) (b : Reg) (r : Bar) : Nat := (r.phase + 65536 - (s.th.getX b).toNat % 65536) % 65536

theorem witness_BarrierForms :
    (∃ s a b r, BarAt s a b r ∧ (s.th.getX b).toNat % 65536 ≠ r.phase) ∧
    (∃ s a b r, BarAt s a b r ∧ (s.th.getX b).toNat % 65536 = r.phase ∧ r.brk = true) ∧
    (∃ s a b r, BarAt s a b r ∧ (s.th.getX b).toNat % 65536 = r.phase ∧ r.brk = false ∧ r.arr + 1 ≠ r.exp) ∧
    (∃ s a b r, BarAt s a b r ∧ r.brk = false ∧ ahead s b r = 1) ∧
    (∃ s a b r, BarAt s a b r ∧ r.brk = false ∧ ahead s b r = 32767) ∧
    (∃ s a b r, BarAt s a b r ∧ r.brk = false ∧ ahead s b r = 32768) ∧
    (∃ s a b r, BarAt s a b r ∧ r.brk = false ∧ ahead s b r = 0) ∧
    (∃ s a b r, BarAt s a b r ∧ 2 ^ 17 ≤ (s.th.getX b).toNat) ∧
    (∃ s a b r, BarAt s a b r ∧ (s.th.getX b).toNat < 2 ^ 17 ∧ (s.th.getX b).toNat % 65536 ≠ 0 ∧
      hasWaiters s (s.th.getX a).toNat = true) ∧
    (∃ s a b r, BarAt s a b r ∧ (s.th.getX b).toNat < 2 ^ 17 ∧ (s.th.getX b).toNat % 65536 ≠ 0 ∧
      snapshotted s (s.th.getX a).toNat ((r.inc + 1) % 4096) = true) ∧
    (∃ s a b r, BarAt s a b r ∧ (s.th.getX b).toNat < 2 ^ 17 ∧ (s.th.getX b).toNat % 65536 ≠ 0 ∧
      hasWaiters s (s.th.getX a).toNat = false ∧ snapshotted s (s.th.getX a).toNat ((r.inc + 1) % 4096) = false) ∧
    (∃ s a b r u ph rd n, BarAt s a b r ∧ (s.th.getX b).toNat < 2 ^ 17 ∧ (s.th.getX b).toNat % 65536 ≠ 0 ∧
      snapshotted s (s.th.getX a).toNat ((r.inc + 1) % 4096) = false ∧ s.slots[0]? = some u ∧ u.live = true ∧
      u.wait = .bar (s.th.getX a).toNat ph rd n) :=
  ⟨⟨_, 1, 2, _, barAt (bar false 2 0 5) 4 none, by decide⟩, ⟨_, 1, 2, _, barAt (bar true 2 0 0) 0 none, by decide, rfl⟩,
    ⟨_, 1, 2, _, barAt (bar false 3 1 65535) 0xFFFF none, by decide, rfl, by decide⟩,
    ⟨_, 1, 2, _, barAt (bar false 2 0 0) 0xFFFF none, rfl, by decide⟩,
    ⟨_, 1, 2, _, barAt (bar false 2 0 32767) 0 none, rfl, by decide⟩,
    ⟨_, 1, 2, _, barAt (bar false 2 0 32768) 0 none, rfl, by decide⟩,
    ⟨_, 1, 2, _, barAt (bar false 2 0 0) 0 none, rfl, by decide⟩,
    ⟨_, 1, 2, _, barAt (bar false 2 0 0) 0x20000 none, by decide⟩,
    ⟨_, 1, 2, _, barAt (bar false 2 0 0) 1 (some 0), by decide, by decide, by decide +kernel⟩,
    ⟨{ stBar (bar false 2 0 0) 1 none with floes := [(0, { Floe.reset with copies := [
        ⟨(Vector.replicate 7 0).set 5 0x00F4000000000000, 0, 0, 2, 0, ⟨1, 0, 0, 0, 0, 3, 0, 0, 0⟩, false, none, 0⟩] })] },
      1, 2, bar false 2 0 0, ⟨settled rfl _, rfl, ⟨0, true, false, .bar (bar false 2 0 0)⟩,
        canUse (by decide +kernel) (by decide +kernel), rfl, rfl⟩, by decide, by decide, by decide +kernel⟩,
    ⟨_, 1, 2, _, barAt (bar false 2 0 0) 0x1FFFF none, by decide, by decide, by decide +kernel, by decide +kernel⟩,
    ⟨_, 1, 2, _, _, 3, 5, 0, barAt (bar false 2 0 0) 1 (some 3), by decide, by decide, by decide +kernel, rfl, rfl, rfl⟩⟩

theorem witness_BarrierPhaseCompletes :
    (∃ s a b r u v ph, BarAt s a b r ∧ r.phase < 65536 ∧ (s.th.getX b).toNat % 65536 = r.phase ∧ r.brk = false ∧
      r.arr + 1 = r.exp ∧ s.slots[0]? = some u ∧ u.live = true ∧ u.wait = .bar (s.th.getX a).toNat r.phase 5 0 ∧
      s.slots[1]? = some v ∧ v.live = true ∧ v.wait = .bar (s.th.getX a).toNat ph 5 0 ∧ ph ≠ r.phase) ∧
    (∃ s a b r, BarAt s a b r ∧ r.phase < 65536 ∧ (s.th.getX b).toNat % 65536 = r.phase ∧ r.brk = false ∧
      r.arr + 1 = r.exp ∧ r.drop = false ∧ 0 < (barMember r.members s.th.tid r.phase).countP fun m => m.ended) :=
  ⟨⟨{ stBar (bar false 1 0 65535) 0xFFFF none with slots := [{ user [] with slot := 1, tid := 2, wait := .bar h0 65535 5 0 },
        { user [] with slot := 2, tid := 3, wait := .bar h0 4 5 0 }] }, 1, 2, bar false 1 0 65535, _, _, 4,
      ⟨settled rfl _, rfl, ⟨0, true, false, .bar (bar false 1 0 65535)⟩, canUse (by decide +kernel) (by decide +kernel), rfl,
        rfl⟩, by decide, by decide, rfl, rfl, rfl, rfl, rfl, rfl, rfl, rfl, by decide⟩,
    ⟨_, 1, 2, _, barAt { bar false 2 1 0 with drop := false, members := [⟨9, some 0, true⟩] } 0 none, by decide, by decide, rfl,
      rfl, rfl, by decide⟩⟩

/-- A launch of tenant 0 on the rectangle of core 0 alone, in a state of its life. -/
def Test.launch (st : LaunchState) : Launch :=
  { lid := 0, state := st, tenant := 0, prio := 0, ring := 0, irq := false, pkt := 0, x0 := 0, y0 := 0, wlog := 0, hlog := 0
    image := 0, code := 0x10000, entry := 0, enc := 3, slots := 4, rings := [], start := 0, args := [], srseed := 0, frm := 0
    chk := false, lease := 256, rimewin := 2048, corr := 0, save := 0, logAddr := 0, logLen := 0, logPos := 0, logBad := 0
    comp := 0, compVal := 0, mark := 0, started := 0, cause := 0, pts := 0, lost := 0, saved := [], savedTasks := [], savedCopies := []
    savedRings := [], savedMasks := [], urgent := false, gphase := 0, garr := [], gended := 0, gaddr := 0, gearly := 0
    glate := 0, gtimes := [], glast := 0, gpts := 0 }

/-- A state with a mutex object in x1, and slot 1 waiting for it where an order of waiting is given. -/
def Test.stMtx (m : Mtx) (w : Option Nat) : State :=
  { stObj (.mtx m) [(1, 0x00F4000000000000)] id with
    slots := w.toList.map fun n => { user [] with slot := 1, tid := 2, wait := .mtx h0 3 n } }

theorem Test.mayLock (m : Mtx) (w : Option Nat) : MayLock (stMtx m w) h0 :=
  .inl ⟨⟨0, true, false, .mtx m⟩, ⟨by decide, by decide, by decide, rfl, rfl, (tenant0 rfl rfl).symm⟩, rfl⟩

theorem Test.mtxReg (m : Mtx) (w : Option Nat) : ((stMtx m w).th.getX 1).toNat = h0 := by
  simp [stMtx, stObj, stWith, user, Thread.getX, regs, look, h0]

theorem witness_MutexForms :
    (∃ (s : State) (a : Reg), Settled s.th [xr a] ∧ s.th.wait = .none ∧ MayLock s (s.th.getX a).toNat ∧
      isMutexLine (s.th.getX a).toNat = true ∧ (s.mtx (s.th.getX a).toNat).holder = none) ∧
    (∃ (s : State) (a : Reg), Settled s.th [xr a] ∧ s.th.wait = .none ∧ MayLock s (s.th.getX a).toNat ∧
      (s.mtx (s.th.getX a).toNat).holder = none ∧ (s.mtx (s.th.getX a).toNat).aband = true) ∧
    (∃ (s : State) (a : Reg), Settled s.th [xr a] ∧ s.th.wait = .none ∧ MayLock s (s.th.getX a).toNat ∧
      (s.mtx (s.th.getX a).toNat).holder ≠ none ∧ (s.mtx (s.th.getX a).toNat).holder ≠ some s.th.tid) ∧
    (∃ (s : State) (a : Reg), Settled s.th [xr a] ∧ s.th.wait = .none ∧ MayLock s (s.th.getX a).toNat ∧
      (s.mtx (s.th.getX a).toNat).holder = some s.th.tid ∧
      ∀ u ∈ s.threads, ∀ rd n, u.wait ≠ .mtx (s.th.getX a).toNat rd n) ∧
    (∃ (s : State) (a : Reg) (u : Thread) (rd n : Nat), Settled s.th [xr a] ∧ s.th.wait = .none ∧
      MayLock s (s.th.getX a).toNat ∧ (s.mtx (s.th.getX a).toNat).holder = some s.th.tid ∧ s.slots[0]? = some u ∧
      u.live = true ∧ u.wait = .mtx (s.th.getX a).toNat rd n ∧
      ∀ w ∈ s.threads, w ≠ u → ∀ rd' n', w.live = true → w.wait = .mtx (s.th.getX a).toNat rd' n' → n < n') := by
  refine ⟨⟨st 0 [(1, 0x00F50000000FFBC0)], 1, settled rfl _, rfl,
      .inr ⟨by decide +kernel, fun o h => (by cases h), 255, 0xBC0, by decide +kernel, by decide +kernel⟩, by decide +kernel,
      by decide +kernel⟩,
    ⟨stMtx ⟨none, true, 0⟩ none, 1, settled rfl _, rfl, ?_, ?_, ?_⟩,
    ⟨stMtx ⟨some 2, false, 0⟩ none, 1, settled rfl _, rfl, ?_, ?_, ?_⟩,
    ⟨stMtx ⟨some 1, false, 0⟩ none, 1, settled rfl _, rfl, ?_, ?_, ?_⟩,
    ⟨stMtx ⟨some 1, false, 0⟩ (some 4), 1, _, 3, 4, settled rfl _, rfl, ?_, ?_, rfl, rfl, ?_, ?_⟩⟩
  all_goals rw [mtxReg]
  any_goals exact mayLock _ _
  any_goals decide +kernel
  · intro u hu rd n
    obtain rfl : u = (stMtx ⟨some 1, false, 0⟩ none).th := by simpa [State.threads, stMtx, stObj, stWith, user] using hu
    simp [stMtx, stObj, stWith, user, Thread.idle]
  · intro w hw hne rd n _ hwt
    have : w = (stMtx ⟨some 1, false, 0⟩ (some 4)).th := by
      simp only [State.threads, stMtx, stObj, stWith, user, Thread.idle, id, if_true, List.mem_cons, Option.toList, List.map,
        List.not_mem_nil, or_false] at hw
      rcases hw with rfl | rfl
      · rfl
      · exact absurd rfl hne
    subst this
    simp [stMtx, stObj, stWith, user, Thread.idle] at hwt

/-- A state with a counter in x1, a value in x2, and slot 1 waiting for a threshold. -/
def Test.stCnt (v x2 : Word) (thr : Nat) : State :=
  { stObj (.cnt v 3) [(1, 0x00F4000000000000), (2, x2)] id with
    slots := [{ user [] with slot := 1, tid := 2, wait := .cnt h0 thr 3 0 }] }

/-- What every clause about a counter assumes. -/
def Test.CntAt (s : State) (a b : Reg) (v : Word) : Prop :=
  Settled s.th [xr a, xr b] ∧ s.th.wait = .none ∧
    ∃ o p, CanUse s (s.th.getX a).toNat .cnt o ∧ o.kind = .cnt v p ∧ o.poison = false

theorem Test.cntAt (v x2 : Word) (thr : Nat) : CntAt (stCnt v x2 thr) 1 2 v := by
  have h : ((stCnt v x2 thr).th.getX 1).toNat = h0 := by simp [stCnt, stObj, stWith, user, Thread.getX, regs, look, h0]
  refine ⟨settled rfl _, rfl, ⟨0, true, false, .cnt v 3⟩, 3, ?_, rfl, rfl⟩
  rw [h]
  exact ⟨by decide, by decide, by decide, rfl, rfl, (tenant0 rfl rfl).symm⟩

theorem witness_CounterForms :
    (∃ s a b v u thr, CntAt s a b v ∧ s.slots[0]? = some u ∧ u.live = true ∧ u.wait = .cnt (s.th.getX a).toNat thr 3 0 ∧
      thr ≤ (s.th.getX b).toNat ∧ s.th.getX b ≤ v) ∧
    (∃ s a b v u thr, CntAt s a b v ∧ s.slots[0]? = some u ∧ u.live = true ∧ u.wait = .cnt (s.th.getX a).toNat thr 3 0 ∧
      (v + s.th.getX b).toNat < thr) ∧
    (∃ s a b v, CntAt s a b v ∧ v < s.th.getX b) :=
  ⟨⟨_, 1, 2, _, _, 5, cntAt 5 5 5, rfl, rfl, rfl, by decide, by decide⟩, ⟨_, 1, 2, _, _, 5, cntAt (-1) 5 5, rfl, rfl, rfl, by decide⟩,
    ⟨_, 1, 2, _, cntAt 4 5 5, by decide⟩⟩

/-- A state with a running launch and its threads: the current one, and one more in slot 1 where asked. -/
def Test.stLaunch (x1 : Word) (more : Bool) : State :=
  { st 0 [(1, x1)] with
    lp := { LaunchSys.reset with tenants := [wholeTenant], launches := [launch .running] }
    slots := if more then [{ user [] with slot := 1, tid := 2 }] else [] }

/-- Whether the write of a record waits for a page. -/
def Test.waits (r : Recorded) : Bool := match r with | .wait => true | _ => false

theorem Test.waited {r : Recorded} (h : waits r = true) : r = .wait := by cases r <;> simp_all [waits]

theorem Test.notWaited {r : Recorded} (h : waits r = false) : r ≠ .wait := by rintro rfl; simp [waits] at h

/-- What every clause about a launch's last arrival assumes. -/
def Test.LastArrival (s : State) (a d : Reg) (l l' : Launch) : Prop :=
  Settled s.th [xr a] ∧ s.th.wait = .none ∧ (s.th.getX a).toNat % 32 = 0 ∧ s.launch s.th.lid = some l ∧ s.th.live = true ∧
    gbarMissing s { l with garr := s.th.tid :: l.garr } = false ∧
    (gbarJoin s d (s.th.getX a).toNat l).launch s.th.lid = some l'

theorem witness_GlobalBarrier :
    (∃ (s : State) (a : Reg), Settled s.th [xr a] ∧ s.th.wait = .none ∧ (s.th.getX a).toNat % 32 ≠ 0) ∧
    (∃ (s : State) (a : Reg), Settled s.th [xr a] ∧ s.th.wait = .none ∧ (s.th.getX a).toNat % 32 = 0 ∧
      s.launch s.th.lid = none) ∧
    (∃ (s : State) (a : Reg) (l : Launch), Settled s.th [xr a] ∧ s.th.wait = .none ∧ (s.th.getX a).toNat % 32 = 0 ∧
      s.launch s.th.lid = some l ∧ gbarMissing s { l with garr := s.th.tid :: l.garr } = true) ∧
    (∃ s a d l l', LastArrival s a d l l' ∧ (s.th.getX a).toNat = 0) ∧
    (∃ s a d l l', LastArrival s a d l l' ∧ gbarRecord (gbarJoin s d (s.th.getX a).toNat l) l' ≠ .wait) ∧
    (∃ s a d l l', LastArrival s a d l l' ∧ (s.th.getX a).toNat ≠ 0 ∧
      gbarRecord (gbarJoin s d (s.th.getX a).toNat l) l' = .wait) :=
  ⟨⟨stLaunch 31 false, 1, settled rfl _, rfl, by decide⟩, ⟨st 0 [], 1, settled rfl _, rfl, by decide, rfl⟩,
    ⟨stLaunch 0 true, 1, launch .running, settled rfl _, rfl, by decide, by decide +kernel, by decide +kernel⟩,
    ⟨stLaunch 0 false, 1, 3, launch .running, _, ⟨settled rfl _, rfl, by decide, by decide +kernel, rfl, by decide +kernel, rfl⟩,
      by decide⟩,
    ⟨stLaunch 32 false, 1, 3, launch .running, _, ⟨settled rfl _, rfl, by decide, by decide +kernel, rfl, by decide +kernel, rfl⟩,
      notWaited (by decide +kernel)⟩,
    ⟨inTrans (stLaunch 0x10020 false), 1, 3, launch .running, _,
      ⟨settled rfl _, rfl, by decide, by decide +kernel, rfl, by decide +kernel, rfl⟩, by decide, waited (by decide +kernel)⟩⟩

/-- A state whose die 0 has retired every slot and shares no part of its overflow area. -/
def Test.stRetired (l : List (Nat × Word)) : State :=
  { st 0 l with sync := { SyncSys.reset with
      retired := (List.range 65536).map (slotAddr 0)
      dies := SyncSys.reset.dies.set 0 { Die.reset with ovf := 1 } } }

theorem Test.find_noQuad (l : List (Nat × Word)) : findQuad (stRetired l) 0 = none := by
  have hd : (65536 + sharedSlots ((stRetired l).die 0)) / 4 = 16384 := by
    have ho : ((stRetired l).die 0).ovf = 1 := rfl
    have hs : ((stRetired l).die 0).spill = 1 := rfl
    simp [sharedSlots, ho, hs]
  simp only [findQuad, hd, List.find?_eq_none, List.mem_map, forall_exists_index, and_imp]
  rintro x i - rfl
  rw [Bool.not_eq_true, List.all_eq_false]
  refine ⟨0, by simp, ?_⟩
  have hlt : ((Config.freeWord (stRetired l).fresh).toNat + i) % 16384 * 4 < 65536 := by omega
  generalize ((Config.freeWord (stRetired l).fresh).toNat + i) % 16384 * 4 = k at hlt
  have h : slotAddr 0 k ∈ (stRetired l).sync.retired := by
    simp only [stRetired]
    exact List.mem_map.2 ⟨k, List.mem_range.2 hlt, rfl⟩
  simp [slotFree, h]

theorem Test.find_quad (l : List (Nat × Word)) : ∃ h, findQuad (st 0 l) 0 = some h := by
  rw [← Option.isSome_iff_exists]
  have ho : ∀ h, slotFree (st 0 l) h = true := fun _ => rfl
  have hn : (st 0 l).sync.objs = [] ∧ (st 0 l).sync.retired = [] := ⟨rfl, rfl⟩
  have hm : 0 < min ((65536 + sharedSlots ((st 0 l).die 0)) / 4) (0 + 0 + 1) := by omega
  rw [findQuad, List.find?_isSome]
  exact ⟨_, List.mem_map.2 ⟨0, List.mem_range.2 (by rw [hn.1, hn.2]; exact hm), rfl⟩, by simp [ho]⟩

/-- A state with a rime record in x1, a value in x2, and bindings. -/
def Test.stRime (x2 : Word) (bs : List Bind) : State :=
  let s := stObj (.rime (rime false)) [(1, 0x00F4000000000000), (2, x2)] id
  { s with sync := { s.sync with binds := bs } }

/-- What every clause about a rime record assumes. -/
def Test.RimeAt (s : State) (a b : Reg) (r : Rime) : Prop :=
  Settled s.th [xr a, xr b] ∧ ∃ o, CanUse s (s.th.getX a).toNat .rime o ∧ o.kind = .rime r ∧ o.poison = false

theorem Test.rimeAt (x2 : Word) (bs : List Bind) : RimeAt (stRime x2 bs) 1 2 (rime false) := by
  have h : ((stRime x2 bs).th.getX 1).toNat = h0 := by simp [stRime, stObj, stWith, user, Thread.getX, regs, look, h0]
  refine ⟨settled rfl _, ⟨0, true, false, .rime (rime false)⟩, ?_, rfl, rfl⟩
  rw [h]
  exact ⟨by decide, by decide, by decide, rfl, rfl, (tenant0 rfl rfl).symm⟩

/-- The range that a bind or unbind names: its base and length (R128). -/
def Test.rangeOf (s : State) (b : Reg) : Nat × Nat :=
  ((s.th.getX b).toNat / 2 ^ 16 * 2 ^ 16, ((s.th.getX b).toNat % 2 ^ 16 + 1) * 65536)

theorem witness_RimeForms :
    (∃ (s : State) (a : Reg), Settled s.th [xr a] ∧ rimeFmt ((s.th.getX a).toNat / 2 ^ 16 % 16) = none) ∧
    (∃ (s : State) (a : Reg), Settled s.th [xr a] ∧ (s.th.getX a).toNat / 2 ^ 20 % 16 ≠ 0) ∧
    (∃ (s : State) (a : Reg), Settled s.th [xr a] ∧ (s.th.getX a).toNat / 4 % 2 ^ 14 ≠ 0) ∧
    (∃ (s : State) (a : Reg) (f : Fmt), Settled s.th [xr a] ∧ rimeFmt ((s.th.getX a).toNat / 2 ^ 16 % 16) = some f ∧
      (s.th.getX a).toNat / 2 ^ 20 % 16 = 0 ∧ (s.th.getX a).toNat / 4 % 2 ^ 14 = 0 ∧
      findQuad s (dieOfCore s.th.core) = none) ∧
    (∃ (s : State) (a : Reg) (f : Fmt) (h : Nat), Settled s.th [xr a] ∧
      rimeFmt ((s.th.getX a).toNat / 2 ^ 16 % 16) = some f ∧ (s.th.getX a).toNat / 2 ^ 20 % 16 = 0 ∧
      (s.th.getX a).toNat / 4 % 2 ^ 14 = 0 ∧ slotsUsed s (dieOfCore s.th.core) true + 4 ≤ 65536 ∧
      findQuad s (dieOfCore s.th.core) = some h) ∧
    (∃ s a b r, RimeAt s a b r ∧ (rangeOf s b).1 + (rangeOf s b).2 = 0x00F0000000010000) ∧
    (∃ s a b r, RimeAt s a b r ∧ (rangeOf s b).1 + (rangeOf s b).2 = 0x00F0000000000000 ∧
      ∃ e ∈ s.sync.binds, e.base < (rangeOf s b).1 + (rangeOf s b).2 ∧ (rangeOf s b).1 < e.base + e.len) ∧
    (∃ s a b r, RimeAt s a b r ∧ (rangeOf s b).1 + (rangeOf s b).2 ≤ 0x00F0000000000000 ∧ s.sync.binds.length = 1024 ∧
      ¬ ∃ e ∈ s.sync.binds, e.base < (rangeOf s b).1 + (rangeOf s b).2 ∧ (rangeOf s b).1 < e.base + e.len) ∧
    (∃ s a b r, RimeAt s a b r ∧ (rangeOf s b).1 + (rangeOf s b).2 ≤ 0x00F0000000000000 ∧ s.sync.binds.length < 1024 ∧
      ¬ ∃ e ∈ s.sync.binds, e.base < (rangeOf s b).1 + (rangeOf s b).2 ∧ (rangeOf s b).1 < e.base + e.len) ∧
    (∃ s a b r, RimeAt s a b r ∧
      ∃ e ∈ s.sync.binds, e.handle = (s.th.getX a).toNat ∧ e.base = (rangeOf s b).1 ∧ e.len = (rangeOf s b).2) ∧
    (∃ s a b r, RimeAt s a b r ∧
      ∀ e ∈ s.sync.binds, ¬ (e.handle = (s.th.getX a).toNat ∧ e.base = (rangeOf s b).1 ∧ e.len = (rangeOf s b).2)) ∧
    (∃ s a b r, RimeAt s a b r ∧ (s.th.getX b).toNat % 8 ≠ 0) ∧
    (∃ s a b r, RimeAt s a b r ∧ (s.th.getX b).toNat % 8 = 0 ∧ 256 < (s.th.getX b).toNat) ∧
    (∃ s a b r, RimeAt s a b r ∧ (s.th.getX b).toNat = 256) ∧
    (∃ s a b r, RimeAt s a b r ∧ (s.th.getX b).toNat % 8 = 0 ∧ (s.th.getX b).toNat < 256) ∧
    (∃ s a b r, RimeAt s a b r ∧ ∃ e ∈ s.sync.binds, e.handle = (s.th.getX a).toNat) ∧
    (∃ s a b r, RimeAt s a b r ∧ ∀ e ∈ s.sync.binds, e.handle ≠ (s.th.getX a).toNat) := by
  refine ⟨⟨st 0 [(1, 0x90000)], 1, settled rfl _, by decide +kernel⟩, ⟨st 0 [(1, 0x840000)], 1, settled rfl _, by decide +kernel⟩,
    ⟨st 0 [(1, 0x48000)], 1, settled rfl _, by decide +kernel⟩,
    ⟨stRetired [(1, 0x40003)], 1, .e4m3, settled rfl _, ?_, ?_, ?_, find_noQuad _⟩,
    ⟨st 0 [(1, 0x40003)], 1, .e4m3, (find_quad _).choose, settled rfl _, by decide +kernel, by decide +kernel, by decide +kernel,
      by decide +kernel, (find_quad [(1, 0x40003)]).choose_spec⟩,
    ⟨_, 1, 2, _, rimeAt 0x00F0000000000000 [], by decide +kernel⟩,
    ⟨_, 1, 2, _, rimeAt 0x00EFFFFFFFFF0000 [⟨0, 0x00EFFFFFFFFF0000, 0x10000, 64⟩], by decide +kernel,
      ⟨0, 0x00EFFFFFFFFF0000, 0x10000, 64⟩, by decide +kernel, by decide +kernel, by decide +kernel⟩,
    ⟨_, 1, 2, _, rimeAt 0x10000 (List.replicate 1024 ⟨0, 0x20000, 0x10000, 64⟩), by decide +kernel, List.length_replicate, ?_⟩,
    ⟨_, 1, 2, _, rimeAt 0x10000 [⟨0, 0x20000, 0x10000, 64⟩], by decide +kernel, by decide +kernel, by decide +kernel⟩,
    ⟨_, 1, 2, _, rimeAt 0x1FFFF [⟨h0, 0x10000, 0x100000000, 64⟩], by decide +kernel⟩,
    ⟨_, 1, 2, _, rimeAt 0x1FFFF [⟨h0, 0x10000, 0x10000, 64⟩], by decide +kernel⟩,
    ⟨_, 1, 2, _, rimeAt 257 [], by decide +kernel⟩, ⟨_, 1, 2, _, rimeAt 264 [], by decide +kernel, by decide +kernel⟩,
    ⟨_, 1, 2, _, rimeAt 256 [], by decide +kernel⟩, ⟨_, 1, 2, _, rimeAt 248 [], by decide +kernel, by decide +kernel⟩,
    ⟨_, 1, 2, _, rimeAt 0 [⟨h0, 0x10000, 0x10000, 64⟩], by decide +kernel⟩, ⟨_, 1, 2, _, rimeAt 0 [], by decide +kernel⟩⟩
  all_goals decide +kernel

/-- A tile task queued by the current thread: a drain of accumulator `acc`, or a zeroing. -/
def Test.task (acc : Nat) (zero : Bool) (run : TaskRun) : Task :=
  { desc := BitVec.ofNat 256 (acc * 2 ^ 8 + 2 ^ 32 + 2 ^ 40 + 2 ^ 52), zero := zero, shape := 0x404040, stride := 256
    aTile := 0, bTile := 0, by_ := ⟨1, 0, 0, 0, 0, 3, 0, 0, 0⟩, run := run, age := 0, tiles := [] }

/-- A copy command of the current thread. -/
def Test.cmd (regs : Vector Word 7) : CopyCmd :=
  { regs := regs, src := 0x10000, dst := 0x18000, inc := 0, prog := 0, by_ := ⟨1, 0, 0, 0, 0, 3, 0, 0, 0⟩, run := false
    status := none, te := 0 }

/-- A state with bytes in memory behind an SWC page, floe 0 and registers given. -/
def Test.stFloe (l : List (Nat × Word)) (bs : Memory) (x : Floe) (f : Thread → Thread) : State :=
  { (stWith 1 l f).onMem fun m => { m with bytes := bs } with floes := [(0, x)] }

theorem witness_MatrixAndRingForms :
    (∃ (s : State) (a b : Reg), Settled s.th [xr a, xr b] ∧ s.th.hold = none ∧ (s.th.getX a).toNat % 32 ≠ 0) ∧
    (∃ (s : State) (a b : Reg), Settled s.th [xr a, xr b] ∧ s.th.hold = none ∧ (s.th.getX a).toNat % 32 = 0 ∧
      (s.th.getX b).toNat < 1) ∧
    (∃ (s : State) (a b : Reg), Settled s.th [xr a, xr b] ∧ s.th.hold = none ∧ (s.th.getX a).toNat % 32 = 0 ∧
      64 < (s.th.getX b).toNat) ∧
    (∃ (s : State) (a b : Reg) (key : Nat) (cls : Cls), Settled s.th [xr a, xr b] ∧ s.th.hold = none ∧
      (s.th.getX a).toNat % 32 = 0 ∧ (s.th.getX b).toNat = 1 ∧ CanAccess s .rd (s.th.getX a).toNat 32 key cls ∧ Quiet s ∧
      checkTask (s.floe (floeOfCore s.th.core)) s.th.enc s.th.mxshape s.th.mxdstr
        (BitVec.ofNat 256 (sees s (s.th.getX a).toNat key 32 cls)) = none) ∧
    (∃ (s : State) (a b : Reg) (key : Nat) (cls : Cls), Settled s.th [xr a, xr b] ∧ s.th.hold = none ∧
      (s.th.getX a).toNat % 32 = 0 ∧ (s.th.getX b).toNat = 1 ∧ CanAccess s .rd (s.th.getX a).toNat 32 key cls ∧ Quiet s ∧
      (checkTask (s.floe (floeOfCore s.th.core)) s.th.enc s.th.mxshape s.th.mxdstr
        (BitVec.ofNat 256 (sees s (s.th.getX a).toNat key 32 cls))).isSome = true ∧
      queueLen (s.floe (floeOfCore s.th.core)) = 63) ∧
    (∃ (s : State) (a : Reg), Settled s.th [xr a] ∧ s.th.hold = none ∧ (s.th.getX a).toNat = 65536) ∧
    (∃ (s : State) (a : Reg), Settled s.th [xr a] ∧ s.th.hold = none ∧ (s.th.getX a).toNat = 65535 ∧
      queueLen (s.floe (floeOfCore s.th.core)) + 16 = 64 ∧ Quiet s) ∧
    (∃ (s : State) (a : Reg), Settled s.th [xr a] ∧ s.th.fails = [] ∧ (s.th.getX a).toNat % 65536 / 2 ^ 15 % 2 = 1 ∧
      ∃ k ∈ (s.floe (floeOfCore s.th.core)).tasks, k.by_.tid = s.th.tid ∧ k.acc = 15) ∧
    (∃ (s : State) (a : Reg), Settled s.th [xr a] ∧ s.th.fails = [] ∧ (s.th.getX a).toNat % 65536 = 1 ∧
      ¬ ∃ k ∈ (s.floe (floeOfCore s.th.core)).tasks, k.by_.tid = s.th.tid ∧ k.acc = 0) ∧
    (∃ (s : State) (a : Reg) (r : Fail) (k : Nat) (rest : List Fail), Settled s.th [xr a] ∧ s.th.fails = r :: rest ∧
      r.tile = some k ∧ (s.th.getX a).toNat % 65536 = 0) ∧
    (∃ (s : State) (a : Reg), Settled s.th [xr a] ∧ ringWordOk (s.th.getX a).toNat = false) ∧
    (∃ (s : State) (a : Reg) (n : Fin 16), Settled s.th [xr a] ∧ ringWordOk (s.th.getX a).toNat = true ∧
      ringUsed (s.floe (floeOfCore s.th.core)) n.val = true) ∧
    (∃ (s : State) (a : Reg) (n : Fin 16), Settled s.th [xr a] ∧ ringWordOk (s.th.getX a).toNat = true ∧
      ringUsed (s.floe (floeOfCore s.th.core)) n.val = false) :=
  ⟨⟨st 1 [(1, 0x10010)], 1, 2, settled rfl _, rfl, by decide⟩, ⟨st 1 [], 1, 2, settled rfl _, rfl, by decide, by decide⟩,
    ⟨st 1 [(2, 65)], 1, 2, settled rfl _, rfl, by decide, by decide⟩,
    ⟨st 1 [(1, 0x10000), (2, 1)], 1, 2, vkey 0x10000, .swc, settled rfl _, rfl, by decide, by decide,
      access (by decide) (by decide +kernel) (by decide +kernel) rfl, quiet0 _ rfl, by decide +kernel⟩,
    ⟨stFloe [(1, 0x10000), (2, 1)] [(vkey 0x10004, 1), (vkey 0x10005, 1), (vkey 0x10006, 0x10)]
        { Floe.reset with tasks := List.replicate 63 (task 0 false .queued) } id, 1, 2, vkey 0x10000, .swc, settled rfl _, rfl,
      by decide, by decide, access (by decide) (by decide +kernel) (by decide +kernel) rfl, quiet0 _ rfl, by decide +kernel, by decide +kernel⟩,
    ⟨st 1 [(1, 65536)], 1, settled rfl _, rfl, by decide⟩,
    ⟨stFloe [(1, 65535)] [] { Floe.reset with tasks := List.replicate 48 (task 0 false .queued) } id, 1, settled rfl _, rfl,
      by decide, by decide +kernel, quiet0 _ rfl⟩,
    ⟨stFloe [(1, 0x8000)] [] { Floe.reset with tasks := [task 15 true .queued] } id, 1, settled rfl _, rfl, by decide,
      task 15 true .queued, by decide +kernel⟩,
    ⟨stFloe [(1, 1)] [] { Floe.reset with tasks := [task 15 true .queued] } id, 1, settled rfl _, rfl, by decide,
      by decide +kernel⟩,
    ⟨stWith 1 [] fun t => { t with fails := [⟨0, 1, 8, 0, 0x10000, some 15⟩] }, 1, _, 15, [], settled rfl _, rfl, rfl, by decide⟩,
    ⟨st 1 [(1, 0x100000000000001)], 1, settled rfl _, by decide +kernel⟩,
    ⟨stFloe [(1, 0x0006008000000000)] [] { Floe.reset with
        copies := [cmd ((Vector.replicate 7 0).set 0 (BitVec.ofNat 64 (2 ^ 51 + 15 * 2 ^ 52)))] } id, 1, 15, settled rfl _,
      by decide +kernel, by decide +kernel⟩,
    ⟨st 1 [(1, 0x0000000100000000)], 1, 15, settled rfl _, by decide +kernel, by decide +kernel⟩⟩

theorem witness_CopyForms :
    (∃ (s : State) (a : Reg) (k : Fin 8), Settled s.th [xr a] ∧ k.val = 6) ∧
    (∃ (s : State) (a b : Reg), Settled s.th [xr a, xr b] ∧ s.th.cp[5].toNat = 0 ∧
      (s.floe (floeOfCore s.th.core)).copies.length = 32) ∧
    (∃ (s : State) (a b : Reg) (o : Obj), Settled s.th [xr a, xr b] ∧ CanUse s s.th.cp[5].toNat .bar o ∧
      (s.floe (floeOfCore s.th.core)).copies.length < 32 ∧ Quiet s) ∧
    (∃ s : State, (∀ r ∈ s.th.fails, r.tile ≠ none) ∧ 0 < copiesOf s s.th) ∧
    (∃ s : State, (∀ r ∈ s.th.fails, r.tile ≠ none) ∧ copiesOf s s.th = 0 ∧ s.th.cpStale = false) ∧
    (∃ s : State, (∀ r ∈ s.th.fails, r.tile ≠ none) ∧ copiesOf s s.th = 0 ∧ s.th.cpStale = true) :=
  ⟨⟨st 1 [], 1, 6, settled rfl _, rfl⟩,
    ⟨stFloe [] [] { Floe.reset with copies := List.replicate 32 (cmd (Vector.replicate 7 0)) } id, 1, 2, settled rfl _, by decide,
      by decide +kernel⟩,
    ⟨stObj (.bar (bar false 1 0 0)) [] fun t => { t with cp := t.cp.set 5 0x00F4000000000000 }, 1, 2,
      ⟨0, true, false, .bar (bar false 1 0 0)⟩, settled rfl _, canUse (by decide +kernel) (by decide +kernel), by decide, quiet0 _ rfl⟩,
    ⟨stFloe [] [] { Floe.reset with copies := [cmd (Vector.replicate 7 0)] } id, by decide, by decide +kernel⟩,
    ⟨stWith 1 [] fun t => { t with fails := [⟨0, 1, 8, 0, 0x10000, some 15⟩] }, by decide, by decide +kernel, rfl⟩,
    ⟨stWith 1 [] fun t => { t with cpStale := true }, by decide, by decide +kernel, rfl⟩⟩

theorem Test.passes {s : State} {a sz key : Nat} {cls : Cls} (h : CanAccess s .rd a sz key cls) : Passes s a sz 1 :=
  fun k => by simp [checkPieces, access_ok h]

theorem Test.unwatched {s : State} (h : s.host.dbg = []) : Unwatched s := by simp [Unwatched, h]

theorem Test.ended {e : EngineEnd} (h : (match e with | .done _ _ => true | _ => false) = true) : ∃ s te, e = .done s te := by
  cases e <;> simp_all

/-- A state with blocks in memory, one group of floe 0 alone, and operations in flight. -/
def Test.stFab (l : List (Nat × Word)) (bs : Memory) (ops : List FabOp) : State :=
  { stFloe l bs Floe.reset id with
    fab := { FabSys.reset with groups := [⟨0, [⟨0, 0, 0⟩], true, false, []⟩], ops := ops } }

/-- An operation in flight: a block or a descriptor of thread 1 on the group of floe 0 alone. -/
def Test.op (mc : Bool) (block : BitVec 1024) : FabOp :=
  { id := 0, addr := 0x10000, mc := mc, by_ := ⟨1, 0, 0, 0, 0, 3, 0, 0, 0⟩, floe := 0, block := block, map := 0, vtab := []
    members := [⟨0, 0, 0⟩], inc := 0, stage := .issued, num := 0, alg := 0, got := [], parts := [], bad := false, unit := false
    sorted := false, chunks := [], status := none, te := 0 }

/-- What an accepted block assumes (R262, R263, R271, R273). -/
def Test.GoesOk (s : State) (a b : Reg) (stx : Bool) : Prop :=
  let e := (s.th.getX a).toNat
  let map := if stx then some (s.th.getX b).toNat else none
  let s0 := fenceRel s .sys
  let l1 := loadPieces s0 e 128 1
  let blk := BitVec.ofNat 1024 (l1.1.headD 0)
  let v := collView blk
  let m := mapOperand v map
  let n := if v.op = 5 ∧ v.vtab ≠ 0 ∧ v.vtab % 16 = 0 then v.nranks else 0
  let l2 := match m with
    | some m => loadPieces l1.2 m 64 1
    | none => ([], l1.2)
  let sm := BitVec.ofNat 512 (l2.1.headD 0)
  let l3 := if v.op = 5 then loadPieces l2.2 v.vtab 16 n else ([], l2.2)
  let vt := l3.1.map fun x => vtabEntry (BitVec.ofNat 128 x)
  let ms := s.members v.group
  e % 128 = 0 ∧ (map.getD 0) % 64 = 0 ∧ Passes s e 128 1 ∧ peek s e 128 = l1.1.headD 0 ∧
    loadMeets s (m.getD 0) 64 m.toList.length = [] ∧ loadMeets s v.vtab 16 n = [] ∧ Unwatched s ∧ (v.done = 0 ∨ ∃ o, CanUse s v.done .bar o) ∧
    ¬ flying s 0 e ∧ (stx = true → v.op = 6) ∧ (v.op = 6 → m ≠ none) ∧
    collBad blk sm vt ms s.ownNode (floeOfCore s.th.core) = false ∧ s.fab.ops.length < 256 ∧
    accepts l3.2 (newOp l3.2 e false v.corr blk sm vt ms v.done) (e + 96) (hwField 1 0)

/-- What an accepted multicast descriptor assumes (R262, R273, R281). -/
def Test.McOk (s : State) (a : Reg) : Prop :=
  let e := (s.th.getX a).toNat
  let l := loadPieces (fenceRel s .sys) e 64 1
  let blk := BitVec.ofNat 1024 (l.1.headD 0)
  let v := mcView blk
  e % 64 = 0 ∧ Passes s e 64 1 ∧ peek s e 64 = l.1.headD 0 ∧ (v.done = 0 ∨ ∃ o, CanUse s v.done .bar o) ∧
    ¬ flying s 1 e ∧ mcBad blk (s.members v.group) = false ∧ s.fab.ops.length < 256 ∧
    accepts l.2 (newOp l.2 e true v.corr blk 0 [] (s.members v.group) v.done) (e + 48) (leBytes 2 1)

/-- A barrier block, a stitch block with its map, and a multicast descriptor. -/
def Test.blk7 : Memory := [(vkey 0x10000, 7), (vkey 0x10008, 1)]
def Test.blk6 : Memory :=
  [(vkey 0x10000, 6), (vkey 0x10008, 1), (vkey 0x10011, 0x80), (vkey 0x10012, 1), (vkey 0x10019, 0xC0), (vkey 0x1001A, 1), (vkey 0x10080, 1),
    (vkey 0x10084, 1)]
def Test.desc : Memory := [(vkey 0x10018, 1)]

theorem Test.goes7 : GoesOk (stFab [(1, 0x10000)] blk7 []) 1 2 false := by
  have h : CanAccess (stFab [(1, 0x10000)] blk7 []) .rd 0x10000 128 (vkey 0x10000) .swc :=
    access (by decide) (by decide +kernel) (by decide +kernel) rfl
  refine ⟨by decide, by decide, passes h, by decide +kernel, by decide +kernel,
    by decide +kernel, unwatched rfl, .inl (by decide +kernel), by simp [flying, stFab, FabSys.reset], by decide, by decide +kernel,
    by decide +kernel, by decide, ended (by decide +kernel)⟩

theorem Test.goes6 : GoesOk (stFab [(1, 0x10000), (2, 0x10080)] blk6 []) 1 2 true := by
  have h : CanAccess (stFab [(1, 0x10000), (2, 0x10080)] blk6 []) .rd 0x10000 128 (vkey 0x10000) .swc :=
    access (by decide) (by decide +kernel) (by decide +kernel) rfl
  refine ⟨by decide, by decide, passes h, by decide +kernel, by decide +kernel,
    by decide +kernel, unwatched rfl, .inl (by decide +kernel), by simp [flying, stFab, FabSys.reset], by decide +kernel,
    by decide +kernel, by decide +kernel, by decide, ended (by decide +kernel)⟩

theorem Test.mcOk : McOk (stFab [(1, 0x10000)] desc []) 1 := by
  have h : CanAccess (stFab [(1, 0x10000)] desc []) .rd 0x10000 64 (vkey 0x10000) .swc :=
    access (by decide) (by decide +kernel) (by decide +kernel) rfl
  exact ⟨by decide, passes h, by decide +kernel, .inl (by decide +kernel), by simp [flying, stFab, FabSys.reset],
    by decide +kernel, by decide, ended (by decide +kernel)⟩

theorem witness_CollectiveForms :
    (∃ (i : Instr) (s : State) (rs : List Reg), masterTable i = some rs ∧ Settled s.th (rs.map xr) ∧
      coreInFloe s.th.core ≠ 0) ∧
    (∃ (s : State) (a b : Reg), Settled s.th [xr a, xr b] ∧ coreInFloe s.th.core = 0 ∧ GoesOk s a b false) ∧
    (∃ (s : State) (a b : Reg), Settled s.th [xr a, xr b] ∧ coreInFloe s.th.core = 0 ∧ GoesOk s a b true) ∧
    (∃ (s : State) (a : Reg), Settled s.th [xr a] ∧ coreInFloe s.th.core = 0 ∧ McOk s a) ∧
    (∃ (i : Instr) (s : State) (kind al off : Nat) (a d : Reg), fabWaitTable i = some (kind, a, d, al, off) ∧
      Settled s.th [xr a] ∧ (s.th.getX a).toNat % al ≠ 0) ∧
    (∃ (i : Instr) (s : State) (kind al off : Nat) (a d : Reg), fabWaitTable i = some (kind, a, d, al, off) ∧
      Settled s.th [xr a] ∧ (s.th.getX a).toNat % al = 0 ∧ flying s kind (s.th.getX a).toNat) ∧
    (∃ (i : Instr) (s : State) (kind al off : Nat) (a d : Reg) (key : Nat) (cls : Cls),
      fabWaitTable i = some (kind, a, d, al, off) ∧ Settled s.th [xr a] ∧ (s.th.getX a).toNat % al = 0 ∧
      ¬ flying s kind (s.th.getX a).toNat ∧ CanAccess s .rd ((s.th.getX a).toNat + off) 1 key cls) ∧
    (∃ (s : State) (a : Reg), Settled s.th [xr a] ∧ coreInFloe s.th.core = 0 ∧ flying s 0 (s.th.getX a).toNat) ∧
    (∃ (s : State) (a : Reg), Settled s.th [xr a] ∧ coreInFloe s.th.core = 0 ∧ ¬ flying s 0 (s.th.getX a).toNat ∧
      ¬ flying s 1 (s.th.getX a).toNat) ∧
    (∃ (s : State) (d : Reg), coreInFloe s.th.core = 0 ∧ ∀ m ∈ (s.floe (floeOfCore s.th.core)).mail, m.lid ≠ s.th.lid) ∧
    (∃ (s : State) (m : Mail) (rest : List Mail), coreInFloe s.th.core = 0 ∧
      (s.floe (floeOfCore s.th.core)).mail = m :: rest ∧ m.lid = s.th.lid) :=
  ⟨⟨.grpSet 1 2 3, stWith 1 [] fun t => { t with core := 1 }, [1, 2], rfl, settled rfl _, by decide⟩,
    ⟨_, 1, 2, settled rfl _, by decide, goes7⟩, ⟨_, 1, 2, settled rfl _, by decide, goes6⟩,
    ⟨_, 1, settled rfl _, by decide, mcOk⟩,
    ⟨.collWait 1 3, st 1 [(1, 64)], 0, 128, 96, 1, 3, rfl, settled rfl _, by decide⟩,
    ⟨.collWaitMc 1 3, stFab [(1, 0x10000)] [] [op true 0], 1, 64, 48, 1, 3, rfl, settled rfl _, by decide,
      op true 0, .head _, rfl, rfl, rfl⟩,
    ⟨.aucWait 1 3, st 1 [(1, 0x1FFC0)], 2, 64, 58, 1, 3, vkey 0x1FFFA, .swc, rfl, settled rfl _, by decide,
      by simp [flying, st, State.reset, FabSys.reset], access (by decide) (by decide +kernel) (by decide +kernel) rfl⟩,
    ⟨stFab [(1, 0x10000)] [] [op false 0], 1, settled rfl _, by decide, op false 0, .head _, rfl, rfl, rfl⟩,
    ⟨st 1 [], 1, settled rfl _, by decide, by simp [flying, st, State.reset, FabSys.reset],
      by simp [flying, st, State.reset, FabSys.reset]⟩,
    ⟨stFloe [] [] { Floe.reset with mail := [⟨1, 0, 1⟩] } id, 3, by decide, by decide +kernel⟩,
    ⟨stFloe [] [] { Floe.reset with mail := [⟨1, 5, 0⟩] } id, ⟨1, 5, 0⟩, [], by decide, by decide +kernel, rfl⟩⟩

/-- What every clause of `coll.req` assumes. -/
def Test.MailAt (s : State) (a : Reg) : Prop :=
  Settled s.th [xr a] ∧ s.th.wait = .none ∧ s.tenantOf (coreOfFloe (floeOfCore s.th.core) 0) = s.tenant ∧
    ∃ c, s.tenantCfg s.tenant = some c ∧ holdsCore c (coreOfFloe (floeOfCore s.th.core) 0) = true

theorem Test.mailAt (l : List (Nat × Word)) (x : Floe) : MailAt (stFloe l [] x id) 1 := by
  have hc : coreOfFloe (floeOfCore (stFloe l [] x id).th.core) 0 = 0 := by
    rw [show (stFloe l [] x id).th.core = 0 from rfl]; decide
  have ht : (stFloe l [] x id).tenant = 0 := tenant0 rfl rfl
  refine ⟨settled rfl _, rfl, ?_, wholeTenant, ?_, ?_⟩
  · rw [hc]; rfl
  · rw [ht]; rfl
  · rw [hc]; decide

theorem witness_CollectiveForms_mailbox :
    (∃ s a, MailAt s a ∧ (s.th.getX a).toNat % 8 = 6) ∧ (∃ s a, MailAt s a ∧ (s.th.getX a).toNat % 8 = 0) ∧
    (∃ s a, MailAt s a ∧ (s.th.getX a).toNat / 8 % 8 ≠ 0) ∧ (∃ s a, MailAt s a ∧ (s.th.getX a).toNat / 2 ^ 57 ≠ 0) ∧
    (∃ s a, MailAt s a ∧ (s.th.getX a).toNat % 8 = 5 ∧ (s.th.getX a).toNat / 8 % 8 = 0 ∧ (s.th.getX a).toNat / 2 ^ 57 = 0 ∧
      (s.floe (floeOfCore s.th.core)).mail.length = 8) ∧
    (∃ s a, MailAt s a ∧ (s.th.getX a).toNat % 8 = 1 ∧ (s.th.getX a).toNat / 8 % 8 = 0 ∧ (s.th.getX a).toNat / 2 ^ 57 = 0 ∧
      (s.floe (floeOfCore s.th.core)).mail.length = 7 ∧ taker s (floeOfCore s.th.core) s.th.lid = none) :=
  ⟨⟨_, 1, mailAt [(1, 6)] Floe.reset, by decide⟩, ⟨_, 1, mailAt [(1, 64)] Floe.reset, by decide⟩,
    ⟨_, 1, mailAt [(1, 9)] Floe.reset, by decide⟩, ⟨_, 1, mailAt [(1, 0x0200000000000001)] Floe.reset, by decide⟩,
    ⟨_, 1, mailAt [(1, 0x01FFFFFFFFFFFFC5)] { Floe.reset with mail := List.replicate 8 ⟨1, 0, 0⟩ }, by decide, by decide, by decide,
      by decide +kernel⟩,
    ⟨_, 1, mailAt [(1, 1)] { Floe.reset with mail := List.replicate 7 ⟨1, 0, 0⟩ }, by decide, by decide, by decide,
      by decide +kernel, by decide +kernel⟩⟩

/-- What every clause of a group form assumes: the group is in the tenant's range. -/
def Test.GroupAt (s : State) (a b : Reg) (c : TenantCfg) : Prop :=
  Settled s.th [xr a, xr b] ∧ coreInFloe s.th.core = 0 ∧ s.tenantCfg s.tenant = some c

/-- What an accepted run assumes (R282, R283). -/
def Test.RunOk (s : State) (a : Reg) : Prop :=
  let e := (s.th.getX a).toNat
  let l := loadPieces (fenceRel s .sys) e 64 1
  let blk := BitVec.ofNat 512 (l.1.headD 0)
  let s1 := noteRows (settleRows l.2 [(e + 58, 1)]) s.th.lid [(e + 58, 1)]
  let busy : List Byte := leBytes 1 (1 + blk.toNat / 2 ^ 468 % 16 * 16)
  e % 64 = 0 ∧ Passes s e 64 1 ∧ peek s e 64 = l.1.headD 0 ∧
    ((runView blk).done = 0 ∨ ∃ o, CanUse s (runView blk).done .bar o) ∧ runBad blk s.tenant = false ∧ ¬ flying s 2 e ∧
    s.fab.runs.length < 64 ∧
    ∃ s2 te, engineOp s1 s.th.core s.tenant l.2.th.pts [] [(e + 58, 1)] (fun _ => busy) = .done s2 te

/-- A run block: one FP32 score of one token for one expert. -/
def Test.runBlk : Memory := [(vkey 0x10000, 0x10), (vkey 0x10008, 1), (vkey 0x1000C, 1), (vkey 0x10014, 4)]

theorem Test.runOk : RunOk (stFab [(1, 0x10000)] runBlk []) 1 := by
  have h : CanAccess (stFab [(1, 0x10000)] runBlk []) .rd 0x10000 64 (vkey 0x10000) .swc :=
    access (by decide) (by decide +kernel) (by decide +kernel) rfl
  exact ⟨by decide, passes h, by decide +kernel, .inl (by decide +kernel), by decide +kernel,
    by simp [flying, stFab, FabSys.reset], by decide, ended (by decide +kernel)⟩

/-- A router run of thread 1 on a block. -/
def Test.run (block : BitVec 512) : Run :=
  { seq := 1, addr := 0x10000, by_ := ⟨1, 0, 0, 0, 0, 3, 0, 0, 0⟩, block := block, inc := 0, begun := false, scores := [], prices := []
    held := [], rounds := 0, fill := 0, failed := false, stage := 0, te := 0 }

/-- The fields of a price selector (R286): the bank, the first register, the count, and whether it is good. -/
def Test.Good (s : State) (a : Reg) : Prop :=
  let v := (s.th.getX a).toNat
  v / 2 ^ 34 = 0 ∧ v / 2 ^ 26 % 2 ^ 6 = 0 ∧ v / 2 ^ 11 % 2 ^ 5 = 0 ∧ 1 ≤ v % 2 ^ 11 ∧ v % 2 ^ 11 ≤ 1024 ∧
    v / 2 ^ 16 % 2 ^ 10 + v % 2 ^ 11 ≤ 1024
def Test.bankOf (s : State) (a : Reg) : Nat := s.tenant * 4 + (s.th.getX a).toNat / 2 ^ 32 % 4

/-- A state where a live thread's price form waits on the tenant's bank of context 3. -/
def Test.stForm (tid : Nat) (l : List (Nat × Word)) : State :=
  { st 1 l with
    fab := { FabSys.reset with forms := [⟨0, 3, .inl tid⟩] }
    slots := [{ user [] with slot := 1, tid := 2 }] }

theorem Test.hasTurn {s : State} {b : Nat} (hf : s.fab.forms = []) (hr : s.fab.runs = []) : HasTurn s b :=
  .inl ⟨by simp [formOf, hf], by simp [bankBusy, hr], by simp [formsOn, hf]⟩

theorem witness_GroupAndRouterForms :
    (∃ s a b c, GroupAt s a b c ∧ ¬ (c.gFirst ≤ (s.th.getX a).toNat % 256 ∧ (s.th.getX a).toNat % 256 < c.gFirst + c.gCount)) ∧
    (∃ s a b c l m, GroupAt s a b c ∧
      (c.gFirst ≤ (s.th.getX a).toNat % 256 ∧ (s.th.getX a).toNat % 256 < c.gFirst + c.gCount) ∧
      (s.th.getX b).toNat % 16 = 0 ∧ (s.th.getX a).toNat / 256 % 256 = 0 ∧ (s.th.getX a).toNat / 2 ^ 32 = 0 ∧
      (s.th.getX a).toNat / 2 ^ 16 % 2 ^ 16 = 1 ∧ loadMeets s (s.th.getX b).toNat 16 1 = [] ∧ Unwatched s ∧
      (loadPieces s (s.th.getX b).toNat 16 1).1.mapM memberOf = some l ∧ dupMember (namedBy s.node l) = false ∧
      groupBusy s ((s.th.getX a).toNat % 256) = false ∧ l.head? = some m ∧ s.ownNode m.node = true) ∧
    (∃ s a b c, GroupAt s a b c ∧
      (c.gFirst ≤ (s.th.getX a).toNat % 256 ∧ (s.th.getX a).toNat % 256 < c.gFirst + c.gCount) ∧
      groupBusy s ((s.th.getX a).toNat % 256) = true) ∧
    (∃ s a b c m, GroupAt s a b c ∧
      (c.gFirst ≤ (s.th.getX a).toNat % 256 ∧ (s.th.getX a).toNat % 256 < c.gFirst + c.gCount) ∧
      groupBusy s ((s.th.getX a).toNat % 256) = false ∧ (s.members ((s.th.getX a).toNat % 256)).head? = some m ∧
      s.ownNode m.node = true) ∧
    (∃ s a, Settled s.th [xr a] ∧ coreInFloe s.th.core = 0 ∧ RunOk s a) ∧
    (∃ (s : State) (a b : Reg), Settled s.th [xr a, xr b] ∧ coreInFloe s.th.core = 0 ∧ ¬ Good s a) ∧
    (∃ (s : State) (a b : Reg), Settled s.th [xr a, xr b] ∧ coreInFloe s.th.core = 0 ∧ Good s a ∧
      (s.th.getX b).toNat % 4 ≠ 0) ∧
    (∃ (s : State) (a b : Reg), Settled s.th [xr a, xr b] ∧ coreInFloe s.th.core = 0 ∧ Good s a ∧
      (s.th.getX b).toNat % 4 = 0 ∧ formOf s (.inl s.th.tid) = none ∧ bankBusy s (bankOf s a) = true) ∧
    (∃ (s : State) (a b : Reg), Settled s.th [xr a, xr b] ∧ coreInFloe s.th.core = 0 ∧ Good s a ∧
      (s.th.getX b).toNat % 4 = 0 ∧ formOf s (.inl s.th.tid) = none ∧ bankBusy s (bankOf s a) = false ∧
      formsOn s (bankOf s a) ≠ []) ∧
    (∃ (s : State) (bank : Nat) (f : PriceWait), formOf s (.inl s.th.tid) = some f ∧ f.bank = bank ∧
      formFirst s f = true ∧ HasTurn s bank) ∧
    (∃ (s : State) (a b : Reg) (l : List Span), Settled s.th [xr a, xr b] ∧ coreInFloe s.th.core = 0 ∧ Good s a ∧
      (s.th.getX b).toNat % 4 = 0 ∧ HasTurn s (bankOf s a) ∧ (s.bank (bankOf s a)).poison = false ∧
      (s.th.getX a).toNat % 2 ^ 11 = 2 ∧
      spansList (settleRows s [((s.th.getX b).toNat, 8)]) s.th.core s.tenant .rd [((s.th.getX b).toNat, 8)] = .ok l) ∧
    (∃ (s s2 : State) (a b : Reg) (te : Nat), Settled s.th [xr a, xr b] ∧ Good s a ∧
      (s.th.getX b).toNat % 4 = 0 ∧ HasTurn s (bankOf s a) ∧ (s.bank (bankOf s a)).poison = false ∧
      (s.th.getX a).toNat % 2 ^ 11 = 2 ∧ (s.th.getX a).toNat / 2 ^ 16 % 2 ^ 10 = 1022 ∧
      engineOp (settleRows (noteForm s (s.th.getX b).toNat 2) [((s.th.getX b).toNat, 8)]) s.th.core s.tenant s.th.pts [] [((s.th.getX b).toNat, 8)]
        (fun _ => (List.range 2).flatMap fun j =>
          leBytes 4 (BitVec.ofInt 32 ((s.bank (bankOf s a)).price (1022 + j))).toNat) = .done s2 te) ∧
    (∃ (s : State) (a : Reg), Settled s.th [xr a] ∧ coreInFloe s.th.core = 0 ∧ 4 ≤ (s.th.getX a).toNat) ∧
    (∃ (s : State) (a : Reg), Settled s.th [xr a] ∧ coreInFloe s.th.core = 0 ∧ (s.th.getX a).toNat < 4 ∧
      formOf s (.inl s.th.tid) = none ∧ bankBusy s (s.tenant * 4 + (s.th.getX a).toNat) = true) ∧
    (∃ (s : State) (a : Reg), Settled s.th [xr a] ∧ coreInFloe s.th.core = 0 ∧ (s.th.getX a).toNat < 4 ∧
      formOf s (.inl s.th.tid) = none ∧ bankBusy s (s.tenant * 4 + (s.th.getX a).toNat) = false ∧
      formsOn s (s.tenant * 4 + (s.th.getX a).toNat) ≠ []) ∧
    (∃ (s : State) (a : Reg), Settled s.th [xr a] ∧ coreInFloe s.th.core = 0 ∧ (s.th.getX a).toNat < 4 ∧
      HasTurn s (s.tenant * 4 + (s.th.getX a).toNat)) := by
  obtain ⟨s2, te, he⟩ := ended (e := engineOp (settleRows (noteForm (st 1 [(1, 0x303FE0002), (2, 0x1FFF8)]) 0x1FFF8 2) [(0x1FFF8, 8)]) 0 0 0 []
    [(0x1FFF8, 8)] fun _ => (List.range 2).flatMap fun j =>
      leBytes 4 (BitVec.ofInt 32 (((st 1 [(1, 0x303FE0002), (2, 0x1FFF8)]).bank 3).price (1022 + j))).toNat)
    (by decide +kernel)
  exact ⟨⟨st 1 [(1, 0x40)], 1, 2, wholeTenant, ⟨settled rfl _, by decide, by decide +kernel⟩, by decide⟩,
    ⟨st 1 [(1, 0x1003F), (2, 0x1FFF0)], 1, 2, wholeTenant, [⟨0, 0, 0⟩], ⟨0, 0, 0⟩, ⟨settled rfl _, by decide, by decide +kernel⟩,
      by decide, by decide, by decide, by decide, by decide, by decide +kernel, unwatched rfl, by decide +kernel, by decide +kernel,
      by decide +kernel, rfl, by decide +kernel⟩,
    ⟨stFab [] [] [op true 0], 1, 2, wholeTenant, ⟨settled rfl _, by decide, by decide +kernel⟩, by decide, by decide +kernel⟩,
    ⟨stFab [] [] [], 1, 2, wholeTenant, ⟨0, 0, 0⟩, ⟨settled rfl _, by decide, by decide +kernel⟩, by decide,
      by decide +kernel, by decide +kernel, by decide +kernel⟩,
    ⟨_, 1, settled rfl _, by decide, runOk⟩,
    ⟨st 1 [(1, 0x03FF0002)], 1, 2, settled rfl _, by decide, by unfold Good; decide⟩,
    ⟨st 1 [(1, 0x03FF0001), (2, 2)], 1, 2, settled rfl _, by decide, by unfold Good; decide, by decide⟩,
    ⟨{ st 1 [(1, 0x300000400)] with fab := { FabSys.reset with runs := [run 3] } }, 1, 2, settled rfl _, by decide,
      by unfold Good; decide, by decide, by decide, by decide +kernel⟩,
    ⟨stForm 2 [(1, 0x300000400)], 1, 2, settled rfl _, by decide, by unfold Good; decide, by decide, by decide,
      by decide +kernel, by decide +kernel⟩,
    ⟨stForm 1 [], 3, _, rfl, rfl, by decide +kernel, .inr ⟨_, rfl, by decide +kernel⟩⟩,
    ⟨st 1 [(1, 0x303FE0002), (2, 0x1FFF8)], 1, 2, _, settled rfl _, by decide, by unfold Good; decide, by decide,
      hasTurn rfl rfl, by decide +kernel, by decide, rfl⟩,
    ⟨st 1 [(1, 0x303FE0002), (2, 0x1FFF8)], s2, 1, 2, te, settled rfl _, by unfold Good; decide, by decide, hasTurn rfl rfl,
      by decide +kernel, by decide, by decide, he⟩,
    ⟨st 1 [(1, 4)], 1, settled rfl _, by decide, by decide⟩,
    ⟨{ st 1 [(1, 3)] with fab := { FabSys.reset with runs := [run 3] } }, 1, settled rfl _, by decide, by decide,
      by decide, by decide +kernel⟩,
    ⟨stForm 2 [(1, 3)], 1, settled rfl _, by decide, by decide, by decide, by decide +kernel, by decide +kernel⟩,
    ⟨st 1 [(1, 3)], 1, settled rfl _, by decide, by decide, hasTurn rfl rfl⟩⟩

/-- A page table at 0x1000 that maps the first GiB to itself as HC memory of domain 0. -/
def Test.tables : Memory := [(0x1001, 0x20), (0x1007, 0x80), (0x2001, 0x30), (0x2007, 0x80), (0x3000, 1), (0x3007, 0x80)]

def Test.cfg : BootCfg :=
  { ver := 1, node := 5, root := 0x1000, firnGiB := 64, ovf := List.replicate 4 (16, 1), tenants := [wholeTenant], ramp := [], aperture := 0
    hostRd := [0], hostWr := [0], frames := [], logs := [], ckpt := true }

/-- A running machine with that page table and an event's input, bytes beyond 0x4000, and its host system changed. -/
def Test.sys (inp : Input) (bs : Memory) (f : HostSys → HostSys) : State :=
  { State.reset with
    th := user []
    mem := { MemSys.reset with bytes := tables ++ bs, root := 0x1000 }
    lp := { LaunchSys.reset with tenants := [wholeTenant] }
    host := f { HostSys.reset with boot := 0x80, cfg := some cfg }
    input := inp }

/-! Which images the fuses accept depends on their hash, which is a free value of `Config`; so the witnesses of a good image start
from one. -/

theorem witness_HostLinkAndDebugEvents_startUp :
    (∃ s : State, s.host.boot ≠ 0x80 ∧ s.host.boot ≠ 1 ∧ 8 ≤ s.host.tries) ∧
    (∃ s : State, s.host.boot ≠ 0x80 ∧ s.host.boot ≠ 1 ∧ s.host.tries = 7 ∧ s.input.value.toNat = 0x1000001) ∧
    (∃ s : State, s.host.boot ≠ 0x80 ∧ s.host.boot ≠ 1 ∧ s.host.tries = 7 ∧ s.input.value.toNat = 0x1000000) ∧
    (∀ (s : State) (c : BootCfg) (otp : Nat), imageError (bootImage s) = none → ∃ t : State, t.host.boot = 1 ∧
      imageError (bootImage t) = none ∧ t.input.boot = .accepted c ∧ t.host.otp = otp) ∧
    (∃ s : State, s.host.boot = 1 ∧ imageError (bootImage s) = some 2) ∧
    (∀ s : State, imageError (bootImage s) = none → ∃ t : State, t.host.boot = 1 ∧ imageError (bootImage t) = none ∧
      t.input.boot = .training) ∧
    (∃ img : List Byte, img.length = 2723) ∧
    (∃ s : State, s.host.linkUp = true ∧ s.input.off + s.input.bytes.length = 0x1000000 ∧ s.host.boot = 0x80) ∧
    (∃ s : State, s.host.linkUp = true ∧ s.input.off + s.input.bytes.length = 0x1000000 ∧ s.host.boot ≠ 0x80 ∧
      Memory.wf s.host.staging) :=
  ⟨⟨sys {} [] fun h => { h with boot := 5, tries := 8 }, by decide, by decide, by decide⟩,
    ⟨sys { value := 0x1000001 } [] fun h => { h with boot := 0, tries := 7 }, by decide, by decide, rfl, by decide⟩,
    ⟨sys { value := 0x1000000 } [] fun h => { h with boot := 6, tries := 7 }, by decide, by decide, rfl, by decide⟩,
    fun s c otp h => ⟨{ s with host := { s.host with boot := 1, otp := otp }, input := { boot := .accepted c } }, rfl, h, rfl,
      rfl⟩,
    ⟨sys {} [] fun h => { h with boot := 1 }, rfl, by decide +kernel⟩,
    fun s h => ⟨{ s with host := { s.host with boot := 1 }, input := { boot := .training } }, rfl, h, rfl⟩,
    ⟨List.replicate 2723 0, List.length_replicate⟩,
    ⟨sys { off := 0xFFFFFF, bytes := [7] } [] id, rfl, by decide, rfl⟩,
    ⟨sys { off := 0xFFFFFF, bytes := [7] } [] fun h => { h with boot := 0 }, rfl, by decide, by decide, by decide⟩⟩

theorem witness_HostLinkAndDebugEvents_accesses :
    (∃ s : State, LogRoom s 4 ∧ s.host.linkUp = true) ∧ (∃ s : State, LogRoom s 4 ∧ s.host.linkUp = false) ∧
    (∃ (s : State) (a key k0 n : Nat) (cls c0 : Cls), s.host.linkUp = true ∧ a = apertureAddr s s.input.off ∧ 1 ≤ n ∧
      a % 128 + n = 128 ∧ s.input.off + n ≤ 2 ^ 39 ∧ n = s.input.bytes.length ∧ s.host.ckptState ≠ 1 ∧
      Memory.wf (bringRange s a n .hd).mem.bytes ∧ leasedTo s 0 a n = false ∧ hostAccess s true a = some (.ok k0 c0) ∧
      hostAccess (bringRange s a n .hd) true a = some (.ok key cls)) ∧
    (∃ (s : State) (a k0 n : Nat) (c0 : Cls), s.host.linkUp = true ∧ a = apertureAddr s s.input.off ∧ 1 ≤ n ∧
      a % 128 + n = 128 ∧ s.input.off + n ≤ 2 ^ 39 ∧ n = s.input.bytes.length ∧ s.host.ckptState ≠ 1 ∧
      hostAccess s true a = some (.ok k0 c0) ∧ leasedTo s 0 a n = true) ∧
    (∃ (s : State) (a n : Nat), s.host.linkUp = true ∧ a = apertureAddr s s.input.off ∧ 1 ≤ n ∧ a % 128 + n ≤ 128 ∧
      s.input.off + n = 2 ^ 39 ∧ n = s.input.bytes.length ∧ s.host.ckptState ≠ 1 ∧ hostAccess s true a = none) ∧
    (∃ (s : State) (a key k0 n : Nat) (cls c0 : Cls), s.host.linkUp = true ∧ a = apertureAddr s s.input.off ∧ 1 ≤ n ∧
      a % 128 + n = 128 ∧ s.input.off + n ≤ 2 ^ 39 ∧ n = s.input.len ∧ s.input.port = 0 ∧
      hostAccess s false a = some (.ok k0 c0) ∧ hostAccess (bringRange s a n .hd) false a = some (.ok key cls)) ∧
    (∃ s : State, s.host.linkUp = true ∧ s.input.port = 1 ∧ s.input.off = 0x100) ∧
    (∃ s : State, s.host.linkUp = true ∧ s.input.off = 0x10000 + 0x20 * (63 : Fin 64).val) ∧
    (∃ s : State, s.host.linkUp = true ∧ s.input.off = 0x2010000) :=
  ⟨⟨sys {} [] id, by unfold LogRoom; decide, rfl⟩,
    ⟨sys {} [] fun h => { h with linkUp := false }, by unfold LogRoom; decide, rfl⟩,
    ⟨sys { off := 0x2007F, bytes := [9] } [] id, 0x2007F, vkey 0x2007F, 0x2007F, 1, .hc, .hc, rfl, by decide, by decide, by decide,
      by decide, rfl, by decide, by decide +kernel, by decide, by decide +kernel, by decide +kernel⟩,
    ⟨{ sys { off := 0x2007F, bytes := [9] } [] id with fab := { FabSys.reset with leases := [⟨0, 0x2007F, 1⟩] } }, 0x2007F, 0x2007F,
      1, .hc, rfl, by decide, by decide, by decide, by decide, rfl, by decide, by decide +kernel, by decide +kernel⟩,
    ⟨sys { off := 2 ^ 39 - 1, bytes := [9] } [] id, 2 ^ 39 - 1, 1, rfl, by decide, by decide, by decide, by decide, rfl, by decide,
      by decide +kernel⟩,
    ⟨sys { off := 0x20000, len := 128 } [] id, 0x20000, vkey 0x20000, 0x20000, 128, .hc, .hc, rfl, by decide, by decide, by decide,
      by decide, rfl, rfl, by decide +kernel, by decide +kernel⟩,
    ⟨sys { off := 0x100, port := 1 } [] id, rfl, rfl, rfl⟩, ⟨sys { off := 0x107E0 } [] id, rfl, by decide⟩,
    ⟨sys { off := 0x2010000 } [] id, rfl, rfl⟩⟩

/-- An enabled ring of priority 0 in device memory, of the whole tenant, and one with a packet between head and tail. -/
def Test.ring (en : Bool) (tail : Nat) : SubRing :=
  { base := 0x40000, cfg := if en then 0x80400000 else 0, tail := tail, head := 0, err := 0, read := 0, open_ := []
    held := none, pend := none, seen := [] }

/-- A machine with ring 0 given. -/
def Test.sysRing (inp : Input) (bs : Memory) (x : SubRing) : State :=
  let s := sys inp bs id
  { s with lp := { s.lp with rings := [(0, x)] } }

theorem witness_HostLinkAndDebugEvents_rings :
    (∃ s : State, (s.ring (s.input.ring % 64)).en = false ∧ bits s.input.value.toNat 20 4 = 8) ∧
    (∃ s : State, (s.ring (s.input.ring % 64)).en = false ∧ bits s.input.value.toNat 20 4 = 9) ∧
    (∃ s : State, (s.ring (s.input.ring % 64)).en = true ∧ s.input.value.getLsbD 31 = true) ∧
    (∃ s : State, (s.ring (s.input.ring % 64)).en = true ∧ s.input.value.getLsbD 31 = false) ∧
    (∃ s : State, (s.ring (s.input.ring % 64)).en = true ∧ (s.ring (s.input.ring % 64)).halted = false ∧
      s.input.value.toNat % 64 = 0 ∧ s.input.value.toNat + 64 = (s.ring (s.input.ring % 64)).size) ∧
    (∃ s : State, (s.ring (s.input.ring % 64)).en = true ∧ (s.ring (s.input.ring % 64)).halted = false ∧
      s.input.value.toNat = (s.ring (s.input.ring % 64)).size) ∧
    (∃ s : State, (s.ring (s.input.ring % 64)).en = true ∧ (s.ring (s.input.ring % 64)).halted = false ∧
      s.input.value.toNat % 64 ≠ 0) :=
  ⟨⟨sysRing { value := 0x800000 } [] (ring false 0), by decide +kernel⟩,
    ⟨sysRing { value := 0x900000 } [] (ring false 0), by decide +kernel⟩,
    ⟨sysRing { value := 0x80000000 } [] (ring true 0), by decide +kernel⟩,
    ⟨sysRing { value := 0 } [] (ring true 0), by decide +kernel⟩,
    ⟨sysRing { value := BitVec.ofNat 64 ((ring true 0).size - 64) } [] (ring true 0), by decide +kernel⟩,
    ⟨sysRing { value := BitVec.ofNat 64 (ring true 0).size } [] (ring true 0), by decide +kernel⟩,
    ⟨sysRing { value := 63 } [] (ring true 0), by decide +kernel⟩⟩

theorem witness_HostLinkAndDebugEvents_time :
    (∃ s : State, LogRoom s 4 ∧ s.host.time.state = 1) ∧ (∃ s : State, LogRoom s 4 ∧ s.host.time.state ≠ 1) ∧
    (∃ (s : State) (f : Nat), s.host.time.frozen = some f ∧ s.host.time.ns = f) :=
  ⟨⟨sys {} [] fun h => { h with time := ⟨0, 0, none, 0, 0, 1, 0⟩ }, by unfold LogRoom; decide, rfl⟩,
    ⟨sys {} [] id, by unfold LogRoom; decide, by decide⟩,
    ⟨sys {} [] fun h => { h with time := ⟨7, 0, some 7, 0, 0, 1, 0⟩ }, 7, rfl, rfl⟩⟩

theorem witness_HostLinkAndDebugEvents_checkpoints :
    (∃ s : State, s.host.ckptState ≠ 1 ∧ s.input.value.getLsbD 0 = true ∧ ¬ ∃ c, s.host.cfg = some c ∧ c.ckpt = true) ∧
    (∃ s : State, s.host.ckptState ≠ 1 ∧ s.input.value.getLsbD 0 = true ∧ (∃ c, s.host.cfg = some c ∧ c.ckpt = true) ∧
      ¬ ∀ i < 8, (s.port (24 + i)).up = true) ∧
    (∃ s : State, s.host.ckptState ≠ 1 ∧ s.input.value.getLsbD 0 = true ∧ (∃ c, s.host.cfg = some c ∧ c.ckpt = true) ∧
      ∀ i < 8, (s.port (24 + i)).up = true) ∧
    (∃ s : State, s.host.ckptState = 1 ∧ s.lp.launches ≠ [] ∧
      ∀ l ∈ s.lp.launches, l.state ≠ .running ∧ l.state ≠ .stopping ∧ l.state ≠ .ending) :=
  ⟨⟨sys { value := 1 } [] fun h => { h with cfg := none }, by decide, by decide, fun ⟨_, h, _⟩ => by cases h⟩,
    ⟨{ sys { value := 1 } [] id with fab := { FabSys.reset with ports := [⟨31, false, false, 0, false, 0, 0, 0, 0, 0, 0⟩] } },
      by decide, by decide, ⟨cfg, rfl, rfl⟩, by decide +kernel⟩,
    ⟨sys { value := 1 } [] id, by decide, by decide, ⟨cfg, rfl, rfl⟩, by decide +kernel⟩,
    ⟨{ sys {} [] fun h => { h with ckptState := 1 } with lp := { LaunchSys.reset with launches := [launch .out] } }, rfl,
      by decide, by decide⟩⟩

/-- A debug module of core 0 with a step whose instruction has been issued. -/
def Test.dbg (halted : Bool) : Dbg :=
  { core := 0, sslot := 0, halted := halted, why := 0, cmp := 0, slot := 0, iter := 0, ia := Vector.replicate 4 0
    da := Vector.replicate 2 0, armed := some 0, inside := false, stepping := some (0x10000, 1, 0), passed := false }

theorem witness_HostLinkAndDebugEvents_debug :
    (∃ s : State, (s.dbg (s.input.core % 2048)).halted = false) ∧
    (∃ (s : State) (k tid since : Nat) (pc : Word), (s.dbg (s.input.core % 2048)).armed = some k ∧
      (s.dbg (s.input.core % 2048)).stepping = some (pc, tid, since) ∧ stepOver s (s.input.core % 2048) tid = true ∧
      asyncWork s tid since = false ∧ (s.dbg (s.input.core % 2048)).halted = true) ∧
    (∃ (s : State) (k tid since : Nat) (pc : Word) (u : Thread), (s.dbg (s.input.core % 2048)).armed = some k ∧
      (s.dbg (s.input.core % 2048)).stepping = some (pc, tid, since) ∧ stepOver s (s.input.core % 2048) tid = true ∧
      asyncWork s tid since = false ∧ (s.dbg (s.input.core % 2048)).halted = false ∧
      (landCore (s.setDbg { s.dbg (s.input.core % 2048) with armed := none, stepping := none }) (s.input.core % 2048)).atLoc
        ⟨s.input.core % 2048, k⟩ = some u ∧ u.tid = tid) :=
  ⟨⟨sys {} [] id, by decide +kernel⟩,
    ⟨sys {} [] fun h => { h with dbg := [dbg true] }, 0, 1, 0, 0x10000, by decide +kernel, by decide +kernel, by decide +kernel,
      by decide +kernel, by decide +kernel⟩,
    ⟨sys {} [] fun h => { h with dbg := [dbg false] }, 0, 1, 0, 0x10000, user [], by decide +kernel, by decide +kernel,
      by decide +kernel, by decide +kernel, by decide +kernel, by decide +kernel, rfl⟩⟩

theorem witness_HostLinkAndDebugEvents_attestation :
    (∃ s : State, s.input.value = 1 ∧ s.host.attState ≠ 1 ∧ s.host.attUsed = 1024) ∧
    (∃ s : State, s.input.value = 1 ∧ s.host.attState ≠ 1 ∧ s.host.attCert = some 7 ∧ s.host.attUsed = 1023) ∧
    (∃ s : State, s.input.value = 1 ∧ s.host.attState ≠ 1 ∧ s.host.attCert = none) ∧
    (∃ nonce : List Byte, nonce.length = 32) ∧
    (∃ (s s2 : State) (te : Nat) (l : List Span), s.host.attState = 1 ∧
      spans (settle (settle s s.host.attNonce.toNat 32) s.host.attRpt.toNat 5536) 2048 chirnaore .rd s.host.attNonce.toNat 32 =
        .ok l ∧
      s.host.attRpt.toNat % 64 = 0 ∧
      engineOp (settle (settle s s.host.attNonce.toNat 32) s.host.attRpt.toNat 5536) 2048 chirnaore 0
        [(s.host.attNonce.toNat, 32)] [(s.host.attRpt.toNat, 5536)]
        (fun bs => attReport (settle (settle s s.host.attNonce.toNat 32) s.host.attRpt.toNat 5536) (bs.take 32)) =
          .done s2 te) := by
  let s := sys {} [] fun h => { h with attState := 1, attNonce := 0x20000, attRpt := 0x30000 }
  obtain ⟨s2, te, h⟩ := ended (e := engineOp (settle (settle s s.host.attNonce.toNat 32) s.host.attRpt.toNat 5536) 2048 chirnaore
    0 [(s.host.attNonce.toNat, 32)] [(s.host.attRpt.toNat, 5536)]
    (fun bs => attReport (settle (settle s s.host.attNonce.toNat 32) s.host.attRpt.toNat 5536) (bs.take 32)))
    (by decide +kernel)
  exact ⟨⟨sys { value := 1 } [] fun h => { h with attUsed := 1024 }, rfl, by decide, rfl⟩,
    ⟨sys { value := 1 } [] fun h => { h with attUsed := 1023, attCert := some 7 }, rfl, by decide, rfl, rfl⟩,
    ⟨sys { value := 1 } [] id, rfl, by decide, rfl⟩, ⟨List.replicate 32 0, rfl⟩,
    ⟨s, s2, te, [⟨0x20000, vkey 0x20000, 32, .hc⟩], rfl, by decide +kernel, by decide, h⟩⟩

theorem Test.devRead_host (s : State) (h : HostSys) (a n : Nat) : devRead { s with host := h } a n = devRead s a n := by
  induction n generalizing a with
  | zero => rfl
  | succ n ih =>
    have e : xlate { s with host := h } 2048 a = xlate s 2048 a := rfl
    simp only [devRead, e, ih]

theorem Test.rangeFit_host (s : State) (h : HostSys) (t a n : Nat) (d : Need) :
    rangeFit { s with host := h } t d a n = rangeFit s t d a n := rfl

theorem Test.launchFit_host (s : State) (h : HostSys) (t : Nat) (bs : List Byte) :
    launchFit { s with host := h } t bs = launchFit s t bs := by
  have e : headerOf { s with host := h } (pf bs 8 8) = headerOf s (pf bs 8 8) := by
    simp only [headerOf, devRead_host]
  simp only [launchFit, e, rangeFit_host]
  rfl

theorem Test.packetCode_host (s : State) (h : HostSys) (x : SubRing) (bs : List Byte) :
    packetCode { s with host := h } x bs = packetCode s x bs := by
  simp only [packetCode, launchFit_host]
  rfl

/-- A kernel image's header at 0x10000 with no rings (R24), and a launch packet of it at an address, on core 0 (R330). -/
def Test.image : Memory :=
  [(0x10000, 0x5A), (0x10001, 0x44), (0x10002, 0x51), (0x10003, 0x4B), (0x10004, 0x13), (0x10005, 0xFF), (0x10018, 0x40),
    (0x10020, 0x40)]
def Test.packet (a : Nat) : Memory := [(a, 1), (a + 1, 3), (a + 10, 1), (a + 90, 0x10)]

/-- A replay session's descriptor at 0x20000: one event, the launch packet at 0x20100, the result at 0x30000 (R340). -/
def Test.session : Memory := [(0x20001, 1), (0x20002, 2), (0x2001A, 3), (0x20020, 1)]

/-- The state that reads it. -/
def Test.stReplay : State := sys { value := 1 } (image ++ session ++ packet 0x20100) fun h => { h with replayAddr := 0x20000 }

/-- What the memory of that state holds at the two addresses. -/
def Test.dRead : List Byte := (List.range 128).map fun i => (look [(1, (1 : Byte)), (2, 2), (0x1A, 3), (0x20, 1)] i).getD 0
def Test.lRead : List Byte := (List.range 256).map fun i => (look (packet 0) i).getD 0

theorem Test.dRead_eq : devRead stReplay 0x20000 128 = some dRead := by decide +kernel
theorem Test.lRead_eq : devRead stReplay 0x20100 256 = some lRead := by decide +kernel

def Test.fitHeader : Header := ⟨3, 1, 15, 15, 0, 0x10100, []⟩

theorem Test.lFit : launchFit stReplay 0 lRead = some fitHeader := by decide +kernel

theorem Test.lCode : packetCode stReplay ⟨0, 0, 0, 0, 0, 0, [], none, none, []⟩ lRead = 0 := by decide +kernel

theorem witness_HostLinkAndDebugEvents_replaygo :
    (∃ s : State, s.input.value = 1 ∧ s.host.replayState ≠ 1 ∧ devRead s s.host.replayAddr.toNat 128 = none) ∧
    (∃ (s : State) (d bs : List Byte) (k : Header), s.input.value = 1 ∧ s.host.replayState ≠ 1 ∧
      devRead s s.host.replayAddr.toNat 128 = some d ∧ 1 ≤ pf d 32 1 ∧ pf d 32 1 ≤ 64 ∧ pf d 8 8 % 0x10000 = 0 ∧
      pf d 24 8 % 64 = 0 ∧ devRead s (pf d 0 8) 256 = some bs ∧ pf bs 0 1 = 1 ∧ s.lp.launches.length < 256 ∧
      ∀ h, packetCode { s with host := h } ⟨0, BitVec.ofNat 64 (s.tenantOf (pf bs 25 1 * 64 + pf bs 24 1) * 2 ^ 24), 0, 0, 0, 0,
          [], none, none, []⟩ bs = 0 ∧
        launchFit { s with host := h } (s.tenantOf (pf bs 25 1 * 64 + pf bs 24 1)) bs = some k) := by
  have h0 : pf dRead 0 8 = 0x20100 := by decide +kernel
  have ht : stReplay.tenantOf (pf lRead 25 1 * 64 + pf lRead 24 1) = 0 := by decide +kernel
  refine ⟨⟨sys { value := 1 } [] fun h => { h with replayAddr := -1 }, rfl, by decide, by decide +kernel⟩,
    stReplay, dRead, lRead, fitHeader, rfl, by decide, dRead_eq, by decide +kernel, by decide +kernel, by decide +kernel,
    by decide +kernel, h0 ▸ lRead_eq, by decide +kernel, by decide +kernel, fun h => ?_⟩
  rw [ht, packetCode_host, launchFit_host]
  exact ⟨lCode, lFit⟩

/-- A session whose launch has ended. -/
def Test.stPass (n : Nat) : State :=
  sys {} (image ++ session ++ packet 0x20100) fun h => { h with replayState := 1, replayPass := n, replayDesc := dRead }

theorem Test.recorded {r : Recorded} (h : (match r with | .done _ _ => true | _ => false) = true) : ∃ s te, r = .done s te := by
  cases r <;> simp_all

theorem Test.passRecord : ∃ s2 te, record (replayNote (stPass 1)) 2048 chirnaore 0 (replayField (replayNote (stPass 1)) 24 8)
    ((replayCores (replayNote (stPass 1))).flatMap (replayEntry (replayNote (stPass 1)))) = .done s2 te := by
  exact recorded (by decide +kernel)

theorem witness_HostLinkAndDebugEvents_replayPassEnd :
    (∃ s : State, s.host.replayState = 1 ∧ s.host.replayLid ≠ noLid ∧ s.launch s.host.replayLid = none ∧
      s.host.replayPass + 1 = replayPasses s) ∧
    (∃ (s s2 : State) (te : Nat), s.host.replayState = 1 ∧ s.host.replayLid ≠ noLid ∧ s.launch s.host.replayLid = none ∧
      s.host.replayPass = replayPasses s ∧ record (replayNote s) 2048 chirnaore 0 (replayField (replayNote s) 24 8)
        ((replayCores (replayNote s)).flatMap (replayEntry (replayNote s))) = .done s2 te) := by
  obtain ⟨s2, te, h⟩ := passRecord
  exact ⟨⟨stPass 0, by decide +kernel, by decide +kernel, by decide +kernel, by decide +kernel⟩,
    ⟨stPass 1, s2, te, by decide +kernel, by decide +kernel, by decide +kernel, by decide +kernel, h⟩⟩

/-- A host ring's packet: the bytes that are not 0, by offset. -/
def Test.pkt (l : List (Nat × Byte)) : List Byte := (List.range 256).map fun i => (look l i).getD 0

/-- The packet at the head of the event's ring, once the host link has answered. -/
def Test.headOf (s : State) : List Byte :=
  match readHead (lookRing s s.evRing) ((lookRing s s.evRing).ring s.evRing) with
  | .packet bs => bs
  | _ => []

/-- `AtHead` and `Serves` as tests. -/
def Test.atHeadB (s : State) (kind : Nat) : Bool :=
  !outranked s s.evRing && readHead (lookRing s s.evRing) ((lookRing s s.evRing).ring s.evRing) = .packet (headOf s) &&
    packetKind (headOf s) = kind
def Test.servesB (s : State) (kind : Nat) : Bool :=
  atHeadB s kind && packetCode (served s (headOf s)) ((served s (headOf s)).ring s.evRing) (headOf s) = 0 &&
    !packetWaits (served s (headOf s)) s.evRing (headOf s)

theorem Test.atHead {s : State} {kind : Nat} (h : atHeadB s kind = true) : AtHead s kind (headOf s) := by
  simp only [atHeadB, Bool.and_eq_true, decide_eq_true_eq, Bool.not_eq_true'] at h
  exact ⟨h.1.1, h.1.2, h.2⟩

theorem Test.serves {s : State} {kind : Nat} (h : servesB s kind = true) : Serves s kind (headOf s) := by
  simp only [servesB, Bool.and_eq_true, decide_eq_true_eq, Bool.not_eq_true'] at h
  exact ⟨atHead h.1.1, h.1.2, h.2⟩

/-- A machine whose ring 0, in host memory, has a packet, and with an object at `h0`. -/
def Test.stPkt (n : Nat) (l : List (Nat × Byte)) (k : Kind) : State :=
  let s := sysRing { bytes := pkt l } image (ring true n)
  { s with sync := { s.sync with objs := [(h0, ⟨0, true, false, k⟩)] } }

/-- A packet that names the object: its operation, its value and its action. -/
def Test.objPkt (op v act : Byte) : List (Nat × Byte) := [(0, op), (14, 0xF4), (16, v), (24, act)]

/-- The end of a price form, as a test. -/
theorem Test.priced {e : PriceEnd} (h : (match e with | .done _ _ _ => true | .wait => false) = true) :
    ∃ st s te, e = .done st s te := by cases e <;> simp_all

/-- Router packets: an action on price 0 of context 0, at 0x20000. -/
def Test.stPrice (act : Byte) : State := stPkt 64 [(0, 4), (8, 1), (18, 2), (24, act)] (.cnt 0 0)

theorem witness_PacketAndLaunchEvents_bad :
    ∃ (i : Instr) (kind : Nat) (s : State) (bs : List Byte), packetTable i = some kind ∧ AtHead s kind bs ∧
      packetCode (served s bs) ((served s bs).ring s.evRing) bs ≠ 0 :=
  ⟨.launch, 0, stPkt 64 [(0, 7)] (.cnt 0 0), headOf (stPkt 64 [(0, 7)] (.cnt 0 0)), rfl, atHead (by decide +kernel),
    by decide +kernel⟩

theorem witness_PacketAndLaunchEvents_launch : ∃ s bs, Serves s 0 bs :=
  ⟨stPkt 256 (packet 0) (.cnt 0 0), _, serves (by decide +kernel)⟩

theorem witness_PacketAndLaunchEvents_wait :
    (∃ s bs, Serves s 1 bs ∧ objectReady s (pf bs 8 8) (BitVec.ofNat 64 (pf bs 16 8)) = true) ∧
    (∃ s bs, Serves s 1 bs ∧ objectReady s (pf bs 8 8) (BitVec.ofNat 64 (pf bs 16 8)) = false) :=
  ⟨⟨stPkt 64 (objPkt 2 3 0) (.cnt 3 0), _, serves (by decide +kernel), by decide +kernel⟩,
    ⟨stPkt 64 (objPkt 2 4 0) (.cnt 3 0), _, serves (by decide +kernel), by decide +kernel⟩⟩

theorem witness_PacketAndLaunchEvents_signals :
    (∃ (s : State) (bs : List Byte) (b : Bar), Serves s 2 bs ∧ s.bar (pf bs 8 8) = some b ∧ poisonedObj s (pf bs 8 8) = false ∧
      b.brk = false ∧ pf bs 16 8 % 65536 = b.phase ∧ b.arr + 2 = b.exp) ∧
    (∃ (s : State) (bs : List Byte) (n p : Nat) (sr : Bool) (v : Word), Serves s 3 bs ∧
      s.obj (pf bs 8 8) = some ⟨n, sr, false, .cnt v p⟩) :=
  ⟨⟨stPkt 64 (objPkt 3 0 0) (.bar (bar false 2 0 0)), _, bar false 2 0 0, serves (by decide +kernel), by decide +kernel,
      by decide +kernel, rfl, by decide +kernel, rfl⟩,
    ⟨stPkt 64 (objPkt 3 1 1) (.cnt (-1) 0), _, 0, 0, true, -1, serves (by decide +kernel), by decide +kernel⟩⟩

/-- The state in which a router packet is performed. -/
def Test.atRouter (s : State) : State :=
  { lookRing s s.evRing with lp := { (lookRing s s.evRing).lp with rr := s.evRing } }

/-- The turn of the event's ring has come on a bank. -/
def Test.RingTurn (s : State) (bank : Nat) : Prop :=
  (formOf (atRouter s) (.inr s.evRing)).isSome = true ∨ (bankBusy (atRouter s) bank = false ∧ formsOn (atRouter s) bank = [])

/-- A state whose ring's form waits on bank 0, or whose bank has another form of thread 1 before it. -/
def Test.stTurn (src : Nat ⊕ Nat) (act : Byte) : State :=
  let s := stPrice act
  { s with fab := { FabSys.reset with forms := [⟨0, 0, src⟩] } }

theorem witness_PacketAndLaunchEvents_prices :
    (∃ (s s2 : State) (bs : List Byte) (c first count te : Nat) (st : Word),
      packetSelector (pf bs 24 1) (pf bs 8 8) = some (c, first, count) ∧ RingTurn s (packetBank (s.ring s.evRing) bs) ∧
      Serves s 4 bs ∧ priceSet (atRouter s) 2048 (s.ring s.evRing).tenant (atRouter s).mem.hts
        (packetBank (s.ring s.evRing) bs) first count (pf bs 16 8) = .done st s2 te) ∧
    (∃ (s s2 : State) (bs : List Byte) (c first count te : Nat) (st : Word),
      packetSelector (pf bs 24 1) (pf bs 8 8) = some (c, first, count) ∧ RingTurn s (packetBank (s.ring s.evRing) bs) ∧
      Serves s 5 bs ∧ priceGet (atRouter s) 2048 (s.ring s.evRing).tenant (atRouter s).mem.hts
        (packetBank (s.ring s.evRing) bs) first count (pf bs 16 8) = .done st s2 te) ∧
    (∃ s bs c first count, packetSelector (pf bs 24 1) (pf bs 8 8) = some (c, first, count) ∧
      RingTurn s (packetBank (s.ring s.evRing) bs) ∧ Serves s 6 bs) ∧
    (∃ s bs, Serves s 6 bs ∧ (formOf (atRouter s) (.inr s.evRing)).isSome = true) ∧
    (∃ s bs, Serves s 5 bs ∧ formOf (atRouter s) (.inr s.evRing) = none ∧
      formsOn (atRouter s) (packetBank (s.ring s.evRing) bs) ≠ []) ∧
    (∃ s bs, Serves s 4 bs ∧ formOf (atRouter s) (.inr s.evRing) = none ∧
      bankBusy (atRouter s) (packetBank (s.ring s.evRing) bs) = true) := by
  obtain ⟨a, b, c, h⟩ := priced (e := priceSet (atRouter (stPrice 0)) 2048
    ((stPrice 0).ring (stPrice 0).evRing).tenant (atRouter (stPrice 0)).mem.hts
    (packetBank ((stPrice 0).ring (stPrice 0).evRing) (headOf (stPrice 0))) 0 1 (pf (headOf (stPrice 0)) 16 8)) (by decide +kernel)
  obtain ⟨a', b', c', h'⟩ := priced (e := priceGet (atRouter (stPrice 1)) 2048
    ((stPrice 1).ring (stPrice 1).evRing).tenant (atRouter (stPrice 1)).mem.hts
    (packetBank ((stPrice 1).ring (stPrice 1).evRing) (headOf (stPrice 1))) 0 1 (pf (headOf (stPrice 1)) 16 8)) (by decide +kernel)
  exact ⟨⟨stPrice 0, b, _, 0, 0, 1, c, a, by decide +kernel, .inr (by decide +kernel), serves (by decide +kernel), h⟩,
    ⟨stPrice 1, b', _, 0, 0, 1, c', a', by decide +kernel, .inr (by decide +kernel), serves (by decide +kernel), h'⟩,
    ⟨stPkt 64 [(0, 4), (12, 3), (24, 2)] (.cnt 0 0), _, 3, 0, 1024, by decide +kernel, .inr (by decide +kernel),
      serves (by decide +kernel)⟩,
    ⟨{ stPkt 64 [(0, 4), (24, 2)] (.cnt 0 0) with fab := { FabSys.reset with forms := [⟨0, 0, .inr 0⟩] } }, _,
      serves (by decide +kernel), by decide +kernel⟩,
    ⟨stTurn (.inl 1) 1, _, serves (by decide +kernel), by decide +kernel, by decide +kernel⟩,
    ⟨{ stPrice 0 with fab := { FabSys.reset with runs := [run 0] } }, _, serves (by decide +kernel), by decide +kernel,
      by decide +kernel⟩⟩

theorem witness_PacketAndLaunchEvents_time : (∃ s bs, Serves s 7 bs) ∧ (∃ s bs, Serves s 8 bs) :=
  ⟨⟨stPkt 64 [(0, 5), (15, 0x80)] (.cnt 0 0), _, serves (by decide +kernel)⟩,
    ⟨stPkt 64 [(0, 5), (8, 1), (16, 1)] (.cnt 0 0), _, serves (by decide +kernel)⟩⟩

/-- A machine with Chirnaore's requests given. -/
def Test.stMm (q : List MmReq) : State :=
  let s := sys {} [] id
  { s with lp := { s.lp with mm := q } }

theorem witness_PacketAndLaunchEvents_memoryRequests :
    (∃ (i : Instr) (a r0 : Nat) (s : State) (bs : List Byte), mmTable i = some a ∧ s.input.src = .ring r0 ∧
      Serves { s with input := { s.input with ring := r0 } } (9 + a) bs) ∧
    (∃ (s : State) (q : MmReq), s.lp.mm.find? (fun q => q.tenant = s.input.tenant) = some q ∧ q.stage = 2 ∧
      partIn s [(q.start, q.len)] = false) ∧
    (∃ (s : State) (q : MmReq), s.lp.mm.find? (fun q => q.tenant = s.input.tenant) = some q ∧ q.stage = 2 ∧
      partIn s [(q.start, q.len)] = true) ∧
    (∃ (s : State) (q q5 : MmReq), s.lp.mm.find? (fun q => q.tenant = s.input.tenant) = some q ∧ q.stage = 3 ∧
      (recordReq (installReq s q) { q with stage := 4, held := [] }).lp.mm.find? (fun q => q.tenant = s.input.tenant) = some q5 ∧
      q5.stage = 5 ∧ q.ring = some 0) ∧
    (∃ (s : State) (q q5 : MmReq), s.lp.mm.find? (fun q => q.tenant = s.input.tenant) = some q ∧ q.stage = 3 ∧
      (recordReq (installReq s q) { q with stage := 4, held := [] }).lp.mm.find? (fun q => q.tenant = s.input.tenant) = some q5 ∧
      q5.stage = 5 ∧ q.ring = none ∧ nextEntry (recordReq (installReq s q) { q with stage := 4, held := [] }) q.tenant = none) ∧
    (∃ (s : State) (q : MmReq), s.lp.mm.find? (fun q => q.tenant = s.input.tenant) = some q ∧ q.stage = 3 ∧ q.comp ≠ 0 ∧
      q.comp % 16 = 0 ∧ record (installReq s q) 2048 chirnaore 0 q.comp
        (leBytes 8 q.val.toNat ++ leBytes 4 q.result ++ leBytes 4 q.pages) = .wait) :=
  ⟨⟨.compress, 1, 0, { stPkt 64 [(0, 6), (10, 1), (18, 1), (24, 1)] (.cnt 0 0) with
      input := { bytes := pkt [(0, 6), (10, 1), (18, 1), (24, 1)], src := .ring 0, ring := 3 } }, _, rfl, rfl,
      serves (by decide +kernel)⟩,
    ⟨stMm [mmReq 2], mmReq 2, by decide +kernel, rfl, by decide +kernel⟩,
    ⟨{ stMm [mmReq 2] with th := { user [] with vpart := some ⟨[⟨0, 0x1FFF8, 0x1FFF8, .hc, 0⟩], [], 0⟩ } }, mmReq 2,
      by decide +kernel, rfl, by decide +kernel⟩,
    ⟨stMm [mmReq 3], mmReq 3, { mmReq 3 with stage := 5 }, by decide +kernel, rfl, by decide +kernel, rfl, rfl⟩,
    ⟨stMm [{ mmReq 3 with ring := none }], { mmReq 3 with ring := none }, { mmReq 3 with ring := none, stage := 5 },
      by decide +kernel, rfl, by decide +kernel, rfl, rfl, by decide +kernel⟩,
    ⟨stMm [{ mmReq 3 with comp := 0x30010 }, { mmReq 2 with tenant := 1, held := [(0x30000, 0x10000)] }],
      { mmReq 3 with comp := 0x30010 }, by decide +kernel, rfl, by decide, by decide, waited (by decide +kernel)⟩⟩

/-- A machine whose ring 0 has read a launch packet, with launches in the table. -/
def Test.stAccept (l : List (Nat × Byte)) : State :=
  sysRing {} image { ring true 256 with pend := some (pkt l, 0) }

/-- A machine with launches and its thread given; the event names launch 7. -/
def Test.stL (ls : List Launch) (t : Thread) (stop : Bool) : State :=
  let s := sys { lid := 7 } [] id
  { s with th := t, lp := { s.lp with launches := ls, stopped := stop } }

/-- Launch 7 on core 0. -/
def Test.l7 (st : LaunchState) : Launch := { launch st with lid := 7, save := 0x100000 }

/-- What every clause about a launch's end assumes, and its completion record's write. -/
def Test.Ends (s : State) (l : Launch) : Prop :=
  s.launch s.input.lid = some l ∧ l.state = .running ∧ (∀ u ∈ s.threads, u.lid ≠ l.lid) ∧ pooled s l.lid = false ∧
    engineWork s l.lid = false
def Test.endOf (s : State) (l : Launch) : Recorded :=
  if l.comp = 0 then Recorded.fault else record s 2048 l.tenant l.pts l.comp (launchRecord s l)

theorem witness_PacketAndLaunchEvents_launchLife :
    (∃ (s : State) (bs : List Byte) (mark : Nat) (k : Header), (s.ring s.evRing).pend = some (bs, mark) ∧
      pendBefore s s.evRing = false ∧
      packetCode s (s.ring s.evRing) bs = 0 ∧ launchFit s (s.ring s.evRing).tenant bs = some k ∧ s.lp.launches.length < 256) ∧
    (∃ (s : State) (bs : List Byte) (mark : Nat), (s.ring s.evRing).pend = some (bs, mark) ∧
      pendBefore s s.evRing = false ∧ packetCode s (s.ring s.evRing) bs ≠ 0) ∧
    (∃ (s : State) (l : Launch), s.launch s.input.lid = some l ∧ startsNow s l = true) ∧
    (∃ s l, Ends s l ∧ endOf s l ≠ .wait) ∧ (∃ s l s1 te, Ends s l ∧ endOf s l = .done s1 te) ∧
    (∃ s l, Ends s l ∧ endOf s l = .wait) := by
  refine ⟨⟨stAccept (packet 0), pkt (packet 0), 0, fitHeader, rfl, by decide +kernel, by decide +kernel, by decide +kernel,
      by decide⟩,
    ⟨stAccept [(0, 1)], pkt [(0, 1)], 0, rfl, by decide +kernel, by decide +kernel⟩,
    ⟨stL [l7 .accepted] (Thread.idle 0 0) false, l7 .accepted, by decide +kernel, by decide +kernel⟩,
    ⟨stL [l7 .running] (user []) false, l7 .running, ⟨by decide +kernel, rfl, by decide +kernel, by decide +kernel,
      by decide +kernel⟩, notWaited (by decide +kernel)⟩, ?_,
    ⟨inTrans (stL [{ l7 .running with comp := 0x10000 }] (user []) false), { l7 .running with comp := 0x10000 },
      ⟨by decide +kernel, rfl, by decide +kernel, by decide +kernel, by decide +kernel⟩, waited (by decide +kernel)⟩⟩
  obtain ⟨s1, te, h⟩ := recorded (r := endOf (stL [{ l7 .running with comp := 0x10000 }] (user []) false)
    { l7 .running with comp := 0x10000 }) (by decide +kernel)
  exact ⟨stL [{ l7 .running with comp := 0x10000 }] (user []) false, { l7 .running with comp := 0x10000 }, s1, te,
    ⟨by decide +kernel, rfl, by decide +kernel, by decide +kernel, by decide +kernel⟩, h⟩

theorem Test.stored {α : Type} {e : SaveEnd α} (h : (match e with | .ok _ => true | _ => false) = true) : ∃ a, e = .ok a := by
  cases e <;> simp_all

/-- A stopped launch whose thread has ended. -/
def Test.stEnded : State := stL [l7 .stopping] (user []) false

/-- A launch that is out with its thread, and the states of its restoring. -/
def Test.lOut : Launch := { l7 .out with saved := [(0, { user [] with lid := 7 })] }
def Test.stBack : State := stL [lOut] (Thread.idle 0 0) false

theorem witness_PacketAndLaunchEvents_preemption :
    (∃ (s : State) (l : Launch), s.launch s.input.lid = some l ∧ l.state = .running ∧ heldByDebug s l = false ∧
      (∃ d ∈ s.lp.launches, ∃ v, victim s d = some v ∧ v.lid = l.lid)) ∧
    (∃ (s : State) (l : Launch), s.launch s.input.lid = some l ∧ l.state = .running ∧ heldByDebug s l = false ∧
      s.lp.stopped = true) ∧
    (∃ (s : State) (l : Launch), s.launch s.input.lid = some l ∧ l.logBad ≠ 0) :=
  ⟨⟨{ stL [l7 .running, { launch .accepted with lid := 8, prio := 1 }] { user [] with lid := 7 } false with
      slots := [1, 2, 3].map fun k => { user [] with slot := k, tid := k + 1, lid := 7 } }, l7 .running,
      by decide +kernel, rfl, by decide +kernel, { launch .accepted with lid := 8, prio := 1 }, .tail _ (.head _), l7 .running,
      by decide +kernel, rfl⟩,
    ⟨stL [l7 .running] { user [] with lid := 7 } true, l7 .running, by decide +kernel, rfl, by decide +kernel, rfl⟩,
    ⟨stL [{ lOut with logBad := 8 }] (Thread.idle 0 0) false, { lOut with logBad := 8 }, by decide +kernel, by decide⟩⟩

set_option maxRecDepth 100000 in
theorem witness_PacketAndLaunchEvents_save :
    ∃ (s s1 s2 : State) (l k : Launch), s.launch s.input.lid = some l ∧ l.state = .stopping ∧
      (∀ f ∈ l.floes, floeGoes (s.floe f) l.lid = false) ∧ (∀ u ∈ s.threads, u.lid = l.lid → mustFinish u = false) ∧
      drainAll ((onThreadsOf s l.lid Thread.stop).threads.filter fun t => t.lid = l.lid) (onThreadsOf s l.lid Thread.stop) =
        some s1 ∧
      putAll l.tenant l.pts (saveImage s1 l) s1 = .ok s2 ∧ s2.launch l.lid = some k := by
  have hd : drainAll ((onThreadsOf stEnded 7 Thread.stop).threads.filter fun t => t.lid = 7) (onThreadsOf stEnded 7 Thread.stop) =
    some stEnded := by decide +kernel
  have hp : (match putAll 0 0 (saveImage stEnded (l7 .stopping)) stEnded with
    | .ok s => decide (s.launch 7 = some (l7 .stopping)) | _ => false) = true := by decide +kernel
  cases he : putAll 0 0 (saveImage stEnded (l7 .stopping)) stEnded with
  | ok s2 =>
    rw [he] at hp
    exact ⟨stEnded, stEnded, s2, l7 .stopping, l7 .stopping, by decide +kernel, rfl, by decide +kernel, by decide +kernel, hd, he,
      of_decide_eq_true hp⟩
  | bad c => rw [he] at hp; simp at hp
  | wait => rw [he] at hp; simp at hp

theorem witness_PacketAndLaunchEvents_restore :
    ∃ (s s1 s2 : State) (l k : Launch), s.launch s.input.lid = some l ∧ l.logBad = 0 ∧ comesBack s l = true ∧
      reloadFloes l ((List.range l.floes.length).zip l.floes) s = .ok s1 ∧ reloadSlots l l.saved s1 = .ok s2 ∧
      s2.launch l.lid = some k := by
  have hp : (match reloadFloes lOut ((List.range lOut.floes.length).zip lOut.floes) stBack with
    | .ok s1 => (match reloadSlots lOut lOut.saved s1 with | .ok s => decide (s.launch 7 = some lOut) | _ => false)
    | _ => false) = true := by decide +kernel
  cases h1 : reloadFloes lOut ((List.range lOut.floes.length).zip lOut.floes) stBack with
  | ok s1 =>
    rw [h1] at hp
    cases h2 : reloadSlots lOut lOut.saved s1 with
    | ok s2 =>
      simp only [h2] at hp
      exact ⟨stBack, s1, s2, lOut, lOut, by decide +kernel, rfl, by decide +kernel, h1, h2, of_decide_eq_true hp⟩
    | bad c => simp [h2] at hp
    | wait => simp [h2] at hp
  | bad c => simp [h1] at hp
  | wait => simp [h1] at hp

/-- A record of launch 7. -/
def Test.rec7 : Rec := { rec with lid := 7 }

/-- A machine with launch 7, and a record in a pool. -/
def Test.stRec (floe : Bool) (cycle : Nat) : State :=
  let s := stL [l7 .running] (Thread.idle 0 0) false
  { s with
    host := { s.host with cycle := cycle }
    floes := if floe then [(0, { Floe.reset with pool := [rec7] })] else []
    sync := { s.sync with
      dies := if floe then s.sync.dies else s.sync.dies.set 1 { Die.reset with pool := [rec7] } } }

theorem witness_PacketAndLaunchEvents_records :
    (∃ (s : State) (e : Option Nat × Rec) (l : Launch), s.input.loc.slot ∈ freeSlots s s.input.loc.core ∧
      slotHeld s s.input.loc.core = false ∧ (s.island (islandOfFloe (floeOfCore s.input.loc.core))).gated = false ∧
      chooseRec s s.input.loc.core = some e ∧ s.launch e.2.lid = some l ∧ e.1 = none) ∧
    (∃ (s : State) (e : Option Nat × Rec) (l : Launch) (d : Nat), s.input.loc.slot ∈ freeSlots s s.input.loc.core ∧
      slotHeld s s.input.loc.core = false ∧ (s.island (islandOfFloe (floeOfCore s.input.loc.core))).gated = false ∧
      chooseRec s s.input.loc.core = some e ∧ s.launch e.2.lid = some l ∧ e.1 = some d) ∧
    (∃ (s : State) (r : Rec) (rest : List Rec), (s.floe s.input.floe).pool = r :: rest ∧ r.since + 4096 ≤ s.host.cycle ∧
      (s.die (s.input.floe / 64)).pool.length < dieCap (s.die (s.input.floe / 64))) :=
  ⟨⟨stRec true 0, (none, rec7), l7 .running, by decide +kernel, by decide +kernel, by decide +kernel, by decide +kernel,
      by decide +kernel, rfl⟩,
    ⟨stRec false 0, (some 1, rec7), l7 .running, 1, by decide +kernel, by decide +kernel, by decide +kernel, by decide +kernel,
      by decide +kernel, rfl⟩,
    ⟨stRec true 4096, rec7, [], by decide +kernel, by decide +kernel, by decide +kernel⟩⟩

/-- A running machine whose thread is changed. -/
def Test.sysT (inp : Input) (bs : Memory) (f : Thread → Thread) : State :=
  let s := sys inp bs id
  { s with th := f (user []) }

theorem Test.oneTid (s : State) : OneTid s s.th := fun _ _ => rfl
theorem Test.oneLoc (s : State) : OneLoc s s.th := fun _ _ => rfl

/-- A slot that waits for a walk of an address, and for an expansion of it. -/
def Test.stWalk (bs : Memory) (va : Nat) : State := sysT {} bs fun t => { t with wait := .walk va none }
def Test.stExpand (frames : List (Nat × Nat)) : State :=
  (sysT {} [(0x3008, 1), (0x300F, 0x40)] fun t => { t with wait := .expand 0x40000000 none }).onMem fun m =>
    { m with frames := frames }

/-- The compressed page that it waits for. -/
def Test.firnPage : Plb := ⟨.g1, 1, 0, 0, 0, 0⟩

/-- A state where an expansion of the page at 0x40000000 has begun. -/
def Test.begun (s : State) : State :=
  { s with input := { addr := 0x40000000 }, mem := { s.mem with expand := [0x40000000] } }

/-- What precedes EXPANSION_COMPLETE's own work. -/
def Test.taken (s : State) : State := { s with mem := { s.mem with expand := s.mem.expand.filter fun x => x ≠ s.input.addr } }

theorem witness_SlotEngineAndMemoryEvents_slots :
    (∃ (i : Instr) (s : State) (u v : Thread), s.atLoc s.input.loc = some u ∧ OneTid s u ∧ slotTable i s u = some v ∧
      u.stall = 1) ∧
    (∃ (s : State) (u v : Thread), s.atLoc s.input.loc = some u ∧ OneTid s u ∧ slotTable .wakeupMessage s u = some v ∧
      wakesNext s u = true ∧ queued s u = false) ∧
    (∃ (s : State) (u : Thread) (va : Nat) (elem : Option Nat) (p : Plb), s.atLoc s.input.loc = some u ∧
      u.wait = .walk va elem ∧ OneLoc s u ∧ walk s.mem va = .leaf p ∧
      (s.island (islandOfFloe (floeOfCore s.input.loc.core))).gated = false) ∧
    (∃ (s : State) (u : Thread) (va : Nat) (elem : Option Nat) (p : Plb), s.atLoc s.input.loc = some u ∧
      u.wait = .walk va elem ∧ OneLoc s u ∧ walk s.mem va = .leaf p ∧
      (s.island (islandOfFloe (floeOfCore s.input.loc.core))).gated = true) ∧
    (∃ (s : State) (u : Thread) (va ea : Nat) (elem : Option Nat) (p : Plb), s.atLoc s.input.loc = some u ∧
      u.wait = .walk va elem ∧ OneLoc s u ∧ walk s.mem va = .firn ea p) ∧
    (∃ (s : State) (u : Thread) (va : Nat) (elem : Option Nat), s.atLoc s.input.loc = some u ∧ u.wait = .walk va elem ∧
      OneLoc s u ∧ walk s.mem va = .absent) ∧
    (∃ (s : State) (u : Thread) (va : Nat) (elem : Option Nat), s.atLoc s.input.loc = some u ∧ u.wait = .walk va elem ∧
      OneLoc s u ∧ walk s.mem va = .bad) ∧
    (∃ (s : State) (u : Thread) (ea : Nat) (p : Plb) (m : MemSys) (l : Loc) (a : Nat) (elem : Option Nat),
      s.input.addr ∈ s.mem.expand ∧ walk (taken s).mem s.input.addr = .firn ea p ∧
      expandPage (taken s).mem s.input.addr = some m ∧ s.atLoc l = some u ∧ u.wait = .expand a elem ∧
      ∀ ea' p', walk m a ≠ .firn ea' p') ∧
    (∃ (s : State) (ea : Nat) (p : Plb) (l : Loc) (a : Nat) (elem : Option Nat), s.input.addr ∈ s.mem.expand ∧
      walk (taken s).mem s.input.addr = .firn ea p ∧ expandPage (taken s).mem s.input.addr = none ∧
      waitsExpand (taken s) p = [(l, a, elem)]) ∧
    (∃ s : State, s.input.addr ∉ s.mem.expand) := by
  have he : (match expandPage (taken (begun (stExpand [(0x40000000, 0x40000000)]))).mem 0x40000000 with
    | some m => (match walk m 0x40000000 with | .firn _ _ => false | _ => true)
    | none => false) = true := by decide +kernel
  cases hm : expandPage (taken (begun (stExpand [(0x40000000, 0x40000000)]))).mem 0x40000000 with
  | none => rw [hm] at he; cases he
  | some m =>
    rw [hm] at he
    exact ⟨⟨.stallCountExpire, sysT {} [] fun t => { t with stall := 1 }, _, _, rfl, oneTid _, rfl, rfl⟩,
      ⟨sysT {} [] fun t => { t with wait := .waking 7 0 0 }, _, _, rfl, oneTid _, rfl, by decide +kernel, by decide +kernel⟩,
      ⟨stWalk [] 0x3FFFFFFF, _, 0x3FFFFFFF, none, ⟨.g1, 0, 0, 0, 0, 0⟩, rfl, rfl, oneLoc _, by decide +kernel, by decide +kernel⟩,
      ⟨(stWalk [] 0x3FFFFFFF).setIsland 0 ⟨0, [], 0, true⟩, _, 0x3FFFFFFF, none, ⟨.g1, 0, 0, 0, 0, 0⟩, rfl, rfl, oneLoc _,
        by decide +kernel, by decide +kernel⟩,
      ⟨stWalk [(0x3008, 1), (0x300F, 0x40)] 0x40000000, _, 0x40000000, 0x3008, none, firnPage, rfl, rfl, oneLoc _,
        by decide +kernel⟩,
      ⟨stWalk [] (2 ^ 48), _, 2 ^ 48, none, rfl, rfl, oneLoc _, by decide +kernel⟩,
      ⟨stWalk [(0x1008, 1), (0x100F, 0x80)] (2 ^ 48), _, 2 ^ 48, none, rfl, rfl, oneLoc _, by decide +kernel⟩,
      ⟨begun (stExpand [(0x40000000, 0x40000000)]), _, 0x3008, firnPage, m, ⟨0, 0⟩, 0x40000000, none, by decide +kernel,
        by decide +kernel, hm, rfl, rfl, fun ea' p' hw => by simp only [hw] at he; cases he⟩,
      ⟨begun (stExpand []), 0x3008, firnPage, ⟨0, 0⟩, 0x40000000, none, by decide +kernel, by decide +kernel, by decide +kernel,
        by decide +kernel⟩,
      ⟨sys {} [] id, by decide +kernel⟩⟩

/-- A stream port of one vector at 0x20000. -/
def Test.port1 (write : Bool) : Port :=
  { desc := 0x30000, write := write, base := 0x20000, stride := 128, count := 1, hint := 0, done := 0, pushed := 0, ovf := false
    flt := false, ahead := [], queue := if write then [(5, 0)] else [], fail := none, te := 0 }

def Test.stPort (write : Bool) : State := sysT {} [] fun t => { t with gran := 1, ports := [(0, port1 write)] }

theorem witness_SlotEngineAndMemoryEvents_streams :
    (∃ (s s2 : State) (u : Thread) (p p2 : Port), s.atLoc s.input.loc = some u ∧ OneTid s u ∧
      look u.ports s.input.port = some p ∧ p.write = false ∧ p.ahead.length < 8 ∧ p.done + p.ahead.length < p.count ∧
      (∀ f ∈ p.ahead, f.fail = none) ∧
      portFetch (settleHint s (p.addr (p.done + p.ahead.length)) u.vbytes (hintOf p.hint)) u p = some (s2, p2)) ∧
    (∃ (s s2 : State) (u : Thread) (p p2 : Port), s.atLoc s.input.loc = some u ∧ OneTid s u ∧
      look u.ports s.input.port = some p ∧ p.write = true ∧ portPush (noteRange (settleHint s (p.addr p.done) u.vbytes (hintOf p.hint)) u.lid (p.addr p.done) u.vbytes) u p =
        some (s2, p2)) := by
  obtain ⟨⟨s2, p2⟩, h⟩ := Option.isSome_iff_exists.1 (by decide +kernel : (portFetch (settleHint (stPort false)
    ((port1 false).addr 0) (stPort false).th.vbytes .hd) (stPort false).th (port1 false)).isSome = true)
  obtain ⟨⟨s3, p3⟩, h'⟩ := Option.isSome_iff_exists.1 (by decide +kernel : (portPush (noteRange (settleHint (stPort true)
    ((port1 true).addr 0) (stPort true).th.vbytes .hd) 0 ((port1 true).addr 0) (stPort true).th.vbytes) (stPort true).th (port1 true)).isSome = true)
  exact ⟨⟨stPort false, s2, _, port1 false, p2, rfl, oneTid _, rfl, rfl, by decide, by decide, by decide, h⟩,
    ⟨stPort true, s3, _, port1 true, p3, rfl, oneTid _, rfl, rfl, h'⟩⟩

/-- A copy command of one element of 2^`esz` bytes, moving it or filling ring 1. -/
def Test.cmd1 (cpx : Word) (dst : Word) : CopyCmd :=
  { cmd ((Vector.replicate 7 0).set 0 cpx) with src := 0x20000, dst := dst }

/-- A floe whose ring 1 holds two tiles of 256 bytes at offset 0 of the bank, with copies. -/
def Test.fcopy (cs : List CopyCmd) : Floe :=
  { Floe.reset with copies := cs, rings := [(1, ⟨true, 0, 0, 0, 0x0001000100000000, []⟩)] }

/-- A running machine with floe 0 given. -/
def Test.stF (inp : Input) (x : Floe) : State :=
  let s := sys inp [] id
  { s with floes := [(0, x)] }

theorem witness_SlotEngineAndMemoryEvents_copies :
    (∃ (s : State) (c : CopyCmd) (rest : List CopyCmd) (a : Nat), (s.floe s.input.floe).copies = c :: rest ∧ c.run = false ∧
      c.status = none ∧ copyBad (s.floe s.input.floe) c = some a) ∧
    (∃ (s : State) (c : CopyCmd) (rest : List CopyCmd), (s.floe s.input.floe).copies = c :: rest ∧ c.run = false ∧
      c.status = none ∧ copyBad (s.floe s.input.floe) c = none ∧ c.view.e1 = 0) ∧
    (∃ (s : State) (c : CopyCmd) (rest : List CopyCmd), (s.floe s.input.floe).copies = c :: rest ∧ c.run = false ∧
      c.status = none ∧ copyBad (s.floe s.input.floe) c = none ∧ 0 < c.view.e0 ∧ 0 < c.view.e1 ∧ c.prog < c.view.e2 ∧
      c.view.rf = true) ∧
    (∃ (s s2 : State) (te : Nat) (c : CopyCmd) (rest : List CopyCmd), (s.floe s.input.floe).copies = c :: rest ∧
      c.run = false ∧ c.status = none ∧ copyBad (s.floe s.input.floe) c = none ∧ 0 < c.view.e0 ∧ 0 < c.view.e1 ∧
      c.prog < c.view.e2 ∧ c.view.rf = false ∧
      copyOp (noteRows (c.settle s ((List.range c.view.e2).flatMap (srcRows c c.view))
          ((List.range c.view.e2).flatMap fun (i2 : Nat) => dstRows c.view (c.dst.toNat + i2 * c.view.ds2))) c.by_.lid
          ((List.range c.view.e2).flatMap fun (i2 : Nat) => dstRows c.view (c.dst.toNat + i2 * c.view.ds2))) s.input.floe c
        ((List.range c.view.e2).flatMap (srcRows c c.view))
        ((List.range c.view.e2).flatMap fun (i2 : Nat) => dstRows c.view (c.dst.toNat + i2 * c.view.ds2)) = .done s2 te) ∧
    (∃ (s s2 : State) (te : Nat) (c : CopyCmd) (rest : List CopyCmd), (s.floe s.input.floe).copies = c :: rest ∧
      c.run = true ∧ c.status = none ∧ (((s.floe s.input.floe).ring c.view.ring).tail + 65536 -
        ((s.floe s.input.floe).ring c.view.ring).head) % 65536 ≠ ((s.floe s.input.floe).ring c.view.ring).cap ∧
      copyOp (c.settle s (srcRows c c.view c.prog) []) s.input.floe c (srcRows c c.view c.prog)
        (dstRows c.view (floeKey s.input.floe (((s.floe s.input.floe).ring c.view.ring).at_
          ((s.floe s.input.floe).ring c.view.ring).tail) : Nat)) = .done s2 te) ∧
    (∃ (s : State) (c : CopyCmd) (rest : List CopyCmd) (st a : Nat), (s.floe s.input.floe).copies = c :: rest ∧
      c.status = some (st, a) ∧ c.regs[5] = 0 ∧ s.th.live = true ∧ s.th.tid = c.by_.tid ∧ st ≠ 0) := by
  obtain ⟨s2, te, h⟩ := ended (e := copyOp (noteRows ((cmd1 0x0003000100010001 0x21000).settle
      (stF {} (fcopy [cmd1 0x0003000100010001 0x21000])) [(0x20000, 8)] [(0x21000, 8)]) 0 [(0x21000, 8)]) 0 (cmd1 0x0003000100010001 0x21000) [(0x20000, 8)] [(0x21000, 8)]) (by decide +kernel)
  obtain ⟨s3, te3, h3⟩ := ended (e := copyOp (({ cmd1 0x001B000100010001 0 with run := true } : CopyCmd).settle
      (stF {} (fcopy [{ cmd1 0x001B000100010001 0 with run := true }])) [(0x20000, 8)] []) 0 { cmd1 0x001B000100010001 0 with run := true } [(0x20000, 8)]
      (dstRows (cmd1 0x001B000100010001 0).view (floeKey 0 0 : Nat))) (by decide +kernel)
  exact ⟨⟨stF {} (fcopy [cmd1 0x010300010001FFFF 0x21000]), cmd1 0x010300010001FFFF 0x21000, [], 0x21000, by decide +kernel, rfl, rfl,
      by decide +kernel⟩,
    ⟨stF {} (fcopy [cmd1 0x0003000100000001 0x21000]), cmd1 0x0003000100000001 0x21000, [], by decide +kernel, rfl, rfl,
      by decide +kernel, by decide +kernel⟩,
    ⟨stF {} (fcopy [cmd1 0x001B000100010001 0]), cmd1 0x001B000100010001 0, [], by decide +kernel, rfl, rfl, by decide +kernel,
      by decide +kernel, by decide +kernel, by decide +kernel, by decide +kernel⟩,
    ⟨stF {} (fcopy [cmd1 0x0003000100010001 0x21000]), s2, te, cmd1 0x0003000100010001 0x21000, [], by decide +kernel, rfl, rfl,
      by decide +kernel, by decide +kernel, by decide +kernel, by decide +kernel, by decide +kernel, h⟩,
    ⟨stF {} (fcopy [{ cmd1 0x001B000100010001 0 with run := true }]), s3, te3, { cmd1 0x001B000100010001 0 with run := true }, [],
      by decide +kernel, rfl, rfl, by decide +kernel, h3⟩,
    ⟨stF {} (fcopy [{ cmd1 0 0 with status := some (8, 0) }]), { cmd1 0 0 with status := some (8, 0) }, [], 8, 0, by decide +kernel,
      rfl, rfl, rfl, rfl, by decide⟩⟩

/-- A multiply–accumulate of two FP32 tiles of rings 1 and 2 into accumulator 0, shape 1 × 1 × 1. -/
def Test.mac (run : TaskRun) : Task :=
  { task 0 false run with desc := BitVec.ofNat 256 (2 ^ 16 + 2 ^ 21 + 2 ^ 56 + 2 ^ 32 + 2 ^ 36), shape := 0x010101 }

/-- A drain of one FP32 element of accumulator 0 to 0x21000, and a zeroing of it. -/
def Test.drn (run : TaskRun) : Task :=
  { task 0 false run with
    desc := BitVec.ofNat 256 (2 ^ 32 + 2 ^ 40 + 2 ^ 52 + 0x21000 * 2 ^ 192), shape := 0x010101 }
def Test.zro (run : TaskRun) : Task := { task 0 true run with desc := 0 }

/-- A floe with tasks, whose rings 1 and 2 each hold one tile. -/
def Test.ftask (ts : List Task) : Floe :=
  { Floe.reset with
    tasks := ts, rings := [(1, ⟨true, 1, 1, 0, 0x0001000100000000, []⟩), (2, ⟨true, 1, 1, 0, 0x0001000100000004, []⟩)] }

def Test.vmac : TaskView := ((mac .queued).view).getD ⟨0, 0, ⟨.fp32, false⟩, ⟨.fp32, false⟩, .fp32, false, 32, 0, 0, 0, 0, 0, 0, 0, .fp32,
  .rne, false, 0, 0⟩
def Test.vdrn : TaskView := ((drn .queued).view).getD vmac

theorem witness_SlotEngineAndMemoryEvents_dispatch :
    (∃ (s : State) (i : Nat) (k : Task), dispatchOne s s.input.floe = none ∧
      (∀ t ∈ (s.floe s.input.floe).tasks, t.draining = none) ∧
      findTask (s.floe s.input.floe) (fun t => !t.mac) = some (i, k)) ∧
    (∃ (s : State) (e i : Nat) (k : Task), findTask (s.floe s.input.floe) (fun t => t.mac && hopeless (s.floe s.input.floe) t) = none ∧
      e < 4 ∧ 0 < e ∧ (∀ t ∈ (s.floe s.input.floe).tasks, (t.engine.map (·.1)) ≠ some e) ∧
      (∀ j < e, ∃ t ∈ (s.floe s.input.floe).tasks, (t.engine.map (·.1)) = some j) ∧
      findTask (s.floe s.input.floe) (fun t => t.mac && tilesHere (s.floe s.input.floe) t) = some (i, k) ∧
      dispatchOne (s.setFloe s.input.floe { s.floe s.input.floe with
        tasks := (s.floe s.input.floe).tasks.modify i fun t => { t with run := .engine e 0 } }) s.input.floe = none ∧
      (∃ t ∈ (s.floe s.input.floe).tasks, t.draining ≠ none)) :=
  ⟨⟨stF {} (ftask [drn .queued]), 0, drn .queued, by decide +kernel, by decide +kernel, by decide +kernel⟩,
    ⟨stF {} (ftask [mac .queued, { zro (.drain 3) with desc := 0x100 },
        { mac (.engine 0 0) with desc := (mac .queued).desc + 0x200 }]), 1, 0, mac .queued,
      by decide +kernel, by decide, by decide, by decide +kernel, by decide +kernel, by decide +kernel, by decide +kernel,
      by decide +kernel⟩⟩

/-- A limiter step is due in every fourth cycle, and in no other. -/
theorem witness_SlotEngineAndMemoryEvents_limiter :
    (∃ s : State, stepDue s s.input.island = true ∧ s.host.cycle = 4) ∧ (∃ s : State, stepDue s s.input.island = false) :=
  ⟨⟨sys { island := 31 } [] fun h => { h with cycle := 4 }, by decide +kernel, rfl⟩,
    ⟨sys { island := 31 } [] fun h => { h with cycle := 5 }, by decide +kernel⟩⟩

theorem witness_SlotEngineAndMemoryEvents_retire :
    (∃ (s : State) (i w : Nat) (k : Task) (v : TaskView),
      ((s.floe s.input.floe).tasks.findIdx? fun t => t.engine.map (·.1) = some s.input.port) = some i ∧
      (s.floe s.input.floe).tasks[i]? = some k ∧ k.engine = some (s.input.port, w) ∧ k.view = some v ∧ v.need ≤ w ∧
      poisonedTile s s.input.floe v k = none ∧ poisonedAcc s s.input.floe v = false ∧
      (∀ y ∈ s.host.trace, y.core ≠ k.by_.core)) ∧
    (∃ (s s2 : State) (i te : Nat) (k : Task) (v : TaskView), drained (s.floe s.input.floe) (fun t => !t.zero) = some (i, k) ∧
      k.view = some v ∧ k.mac = false ∧ drainOp (noteRows (settleRows s (drainRows v) (hintOf (tf k.desc 44 2))) k.by_.lid (drainRows v)) s.input.floe v k.by_ = .done s2 te ∧
      (∀ y ∈ s2.host.trace, y.core ≠ k.by_.core)) ∧
    (∃ (s : State) (i : Nat) (k : Task), drained (s.floe s.input.floe) (fun t => t.zero) = some (i, k) ∧
      (∀ y ∈ s.host.trace, y.core ≠ k.by_.core)) := by
  have hp : (match drainOp (noteRows (settleRows (stF {} (ftask [drn (.drain 0)])) (drainRows vdrn) .hd) 0 (drainRows vdrn)) 0 vdrn (drn .queued).by_ with
    | .done s2 _ => decide (s2.host.trace = []) | _ => false) = true := by decide +kernel
  cases he : drainOp (noteRows (settleRows (stF {} (ftask [drn (.drain 0)])) (drainRows vdrn) .hd) 0 (drainRows vdrn)) 0 vdrn (drn .queued).by_ with
  | done s2 te =>
    rw [he] at hp
    exact ⟨⟨stF { port := 1 } (ftask [mac (.engine 1 vmac.need)]), 0, vmac.need, mac (.engine 1 vmac.need), vmac, by decide +kernel,
        by decide +kernel, by decide +kernel, by decide +kernel, by decide +kernel, by decide +kernel, by decide +kernel,
        by decide +kernel⟩,
      ⟨stF {} (ftask [drn (.drain 0)]), s2, 0, te, drn (.drain 0), vdrn, by decide +kernel, by decide +kernel, by decide +kernel, he,
        by simp [of_decide_eq_true hp]⟩,
      ⟨stF {} (ftask [zro (.drain 0)]), 0, zro (.drain 0), by decide +kernel, by decide +kernel⟩⟩
  | fault a => rw [he] at hp; cases hp
  | wait => rw [he] at hp; cases hp

/-- A running machine with objects given. -/
def Test.stO (inp : Input) (l : List (Nat × Obj)) : State :=
  let s := sys inp [] id
  { s with sync := { s.sync with objs := l } }

theorem witness_SlotEngineAndMemoryEvents_objects :
    (∃ (s : State) (c : Nat) (st : Stats) (r : Rime),
      ((s.die s.input.die).partials.find? fun p => p.1 = s.input.handle) = some (s.input.handle, c, st) ∧
      s.rime s.input.handle = some r ∧ st.total ≠ 0) ∧
    (∃ (s : State) (o : Obj), s.obj s.input.handle = some o ∧ inSync s.input.handle = true ∧ (∀ r, o.kind ≠ .rime r) ∧
      o.sram = true ∧ overflowUsed s (dieOfHandle s.input.handle) < sharedSlots (s.die (dieOfHandle s.input.handle))) ∧
    (∃ (s : State) (o : Obj), s.obj s.input.handle = some o ∧ inSync s.input.handle = true ∧ (∀ r, o.kind ≠ .rime r) ∧
      o.sram = false ∧ slotsUsed s (dieOfHandle s.input.handle) true < 65536) ∧
    (∃ s : State, ∀ c, s.input.cfg = some c →
      tenantOk (s.lp.tenants.filter fun x => x.id ≠ s.input.tenant) { c with id := s.input.tenant } = true) ∧
    (∃ (s : State) (c : TenantCfg), s.input.cfg = some c ∧
      tenantOk (s.lp.tenants.filter fun x => x.id ≠ s.input.tenant) { c with id := s.input.tenant } = true) ∧
    (∃ s : State, ¬ ∀ c, s.input.cfg = some c →
      tenantOk (s.lp.tenants.filter fun x => x.id ≠ s.input.tenant) { c with id := s.input.tenant } = true) :=
  ⟨⟨{ stO { handle := h0 } [(h0, ⟨0, true, false, .rime (rime false)⟩)] with
      sync := { SyncSys.reset with
        objs := [(h0, ⟨0, true, false, .rime (rime false)⟩)]
        dies := SyncSys.reset.dies.set 0 { Die.reset with partials := [(h0, 1, { Stats.zero with total := 1 })] } } }, 1,
      { Stats.zero with total := 1 }, rime false, by decide +kernel, by decide +kernel, by decide⟩,
    ⟨stO { handle := h0 } [(h0, ⟨0, true, false, .cnt 0 0⟩)], _, rfl, by decide +kernel, by simp, rfl, by decide +kernel⟩,
    ⟨stO { handle := h0 } [(h0, ⟨0, false, false, .cnt 0 0⟩)], _, rfl, by decide +kernel, by simp, rfl, by decide +kernel⟩,
    ⟨sys { tenant := 3 } [] id, fun c h => by cases h⟩,
    ⟨sys { tenant := 0, cfg := some { wholeTenant with wlog := 0, hlog := 0, x0 := 63, y0 := 31 } } [] id, _, rfl, by decide +kernel⟩,
    ⟨sys { tenant := 15, cfg := some wholeTenant } [] id, fun h => absurd (h _ rfl) (by decide +kernel)⟩⟩

theorem witness_SlotEngineAndMemoryEvents_softErrors :
    (∃ (s : State) (unit key core corr n : Nat), s.input.found = .corrected unit key core corr n) ∧
    (∃ (s : State) (unit key core corr : Nat), s.input.found = .poisoned unit key core corr) ∧
    (∃ (s : State) (core a corr : Nat), s.input.found = .l1 core a false corr) ∧
    (∃ (s : State) (core a corr : Nat), s.input.found = .l1 core a true corr) ∧
    (∃ (s : State) (f tile off : Nat), s.input.found = .tile f tile off) ∧
    (∃ (s : State) (l : Loc) (off : Nat) (u : Thread), s.input.found = .slice l off ∧ s.atLoc l = some u ∧ OneTid s u ∧
      off / 8 * 8 + 8 = u.gran * 0x4000 ∧ (off / 8 * 8) ∉ u.bad) ∧
    (∃ (s : State) (h : Nat) (o : Obj) (r : Rime), s.input.found = .object h ∧ s.obj h = some o ∧ o.kind = .rime r ∧
      o.poison = false) ∧
    (∃ (s : State) (tid : Nat) (r : Rec), s.input.found = .record tid ∧ recOf s tid = some r) ∧
    (∃ (s : State) (d h : Nat) (r : Rime), s.input.found = .partialStat d h ∧ s.rime h = some r) ∧
    (∃ (s : State) (l : Loc) (u : Thread), s.input.found = .parity l true ∧ s.atLoc l = some u) ∧
    (∃ (s : State) (l : Loc) (u : Thread), s.input.found = .parity l false ∧ s.atLoc l = some u) ∧
    (∃ (s : State) (l : Loc), s.input.found = .parity l false ∧ s.atLoc l = none) ∧
    (∃ (s : State) (f : Nat), s.input.found = .vparity f) ∧ (∃ (s : State) (h : Nat), s.input.found = .clean h) ∧
    (∃ (s : State) (b : Nat), s.input.found = .bank b ∧ (s.bank b).poison = false) :=
  ⟨⟨sys { found := .corrected 1 2 3 4 5 } [] id, 1, 2, 3, 4, 5, rfl⟩,
    ⟨sys { found := .poisoned 1 0x20001 3 4 } [] id, 1, 0x20001, 3, 4, rfl⟩,
    ⟨sys { found := .l1 0 0x10001 false 4 } [] id, 0, 0x10001, 4, rfl⟩,
    ⟨sys { found := .l1 2047 0x10001 true 4 } [] id, 2047, 0x10001, 4, rfl⟩,
    ⟨sys { found := .tile 255 15 0x3FFF } [] id, 255, 15, 0x3FFF, rfl⟩,
    ⟨sysT { found := .slice ⟨0, 0⟩ 0x7FFF } [] fun t => { t with gran := 2 }, ⟨0, 0⟩, 0x7FFF, _, rfl, rfl, oneTid _, by decide, by decide⟩,
    ⟨stO { found := .object h0 } [(h0, ⟨0, true, false, .rime (rime false)⟩)], h0, _, rime false, rfl, rfl, rfl, rfl⟩,
    ⟨{ stRec true 0 with input := { found := .record rec7.tid } }, rec7.tid, rec7, rfl, by decide +kernel⟩,
    ⟨stO { found := .partialStat 3 h0 } [(h0, ⟨0, true, false, .rime (rime false)⟩)], 3, h0, rime false, rfl, by decide +kernel⟩,
    ⟨sys { found := .parity ⟨0, 0⟩ true } [] id, ⟨0, 0⟩, _, rfl, rfl⟩, ⟨sys { found := .parity ⟨0, 0⟩ false } [] id, ⟨0, 0⟩, _, rfl, rfl⟩,
    ⟨sys { found := .parity ⟨5, 3⟩ false } [] id, ⟨5, 3⟩, rfl, by decide +kernel⟩,
    ⟨sys { found := .vparity 0 } [] id, 0, rfl⟩, ⟨sys { found := .clean h0 } [] id, h0, rfl⟩,
    ⟨sys { found := .bank 63 } [] id, 63, rfl, by decide +kernel⟩⟩

/-- A collective operation has still to read the last byte of the page that maps the last of this package's memory. -/
def Test.stLeased : State :=
  { (sys { access := .store 0x3FFFFFFF [7] } [] id) with
    fab := { FabSys.reset with leases := [⟨0, 0x3FFFFFFF, 1⟩] } }

theorem witness_SlotEngineAndMemoryEvents_peers :
    (∃ (s : State) (pa n : Nat), s.input.access = .load pa n ∧ 1 ≤ n ∧ pa % 128 + n ≤ 128 ∧ pa + n = 2 ^ 39) ∧
    (∃ s : State, leasedPhys s (peerWrites s.input.access).1 (peerWrites s.input.access).2 = true) ∧
    (∃ (s : State) (pa : Nat) (bs : List Byte), s.input.access = .store pa bs ∧ 1 ≤ bs.length ∧ pa % 128 + bs.length ≤ 128 ∧
      pa + bs.length = 2 ^ 39 ∧ leasedPhys s pa bs.length = false ∧ Memory.wf s.mem.bytes) ∧
    (∃ (s : State) (op pa n e v : Nat), s.input.access = .amo op pa n e v ∧ pa + n = 2 ^ 39 ∧ pa % n = 0 ∧
      leasedPhys s pa n = false ∧ poisoned s (s.mem.frameKey pa) n = true) ∧
    (∃ (s : State) (op pa n e v w : Nat), s.input.access = .amo op pa n e v ∧ pa + n = 2 ^ 39 ∧ pa % n = 0 ∧
      leasedPhys s pa n = false ∧ poisoned s (s.mem.frameKey pa) n = false ∧
      peerAmo op (8 * n) (s.mem.bytes.read (s.mem.frameKey pa) n) (e % 2 ^ (8 * n)) (v % 2 ^ (8 * n)) = some w ∧
      Memory.wf s.mem.bytes) ∧
    (∃ (s : State) (op pa v : Nat) (f : Fmt), s.input.access = .red op f pa v ∧ pa + (f.width + 7) / 8 = 2 ^ 39 ∧
      leasedPhys s pa ((f.width + 7) / 8) = false) ∧
    (∃ (s : State) (pa : Nat) (l : List (Nat × Byte)) (o : Nat) (b : Byte), s.input.access = .writeBack pa l ∧ pa % 128 = 0 ∧
      pa < 2 ^ 39 ∧ (∀ e ∈ l, e.1 < 128) ∧ leasedPhys s pa (peerWrites s.input.access).2 = false ∧ l = [(o, b)] ∧ o = 127 ∧
      Memory.wf s.mem.bytes) ∧
    (∃ s : State, s.input.good = true) ∧ (∃ s : State, s.input.good = false) :=
  ⟨⟨sys { access := .load (2 ^ 39 - 8) 8 } [] id, _, _, rfl, by decide, by decide, by decide⟩,
    ⟨stLeased, by decide +kernel⟩,
    ⟨sys { access := .store (2 ^ 39 - 1) [7] } [] id, _, _, rfl, by decide, by decide, by decide, by decide, by decide +kernel⟩,
    ⟨(sys { access := .amo 0 (2 ^ 39 - 8) 8 0 1 } [] id).onMem fun m =>
        { m with poison := [(2 ^ 39 - 8) / granule (2 ^ 39 - 8) * granule (2 ^ 39 - 8)] }, 0, 2 ^ 39 - 8, 8, 0, 1,
      rfl, by decide, by decide, by decide, by decide +kernel⟩,
    ⟨sys { access := .amo 0 (2 ^ 39 - 8) 8 0 1 } [] id, 0, 2 ^ 39 - 8, 8, 0, 1, 1, rfl, by decide, by decide, by decide,
      by decide +kernel, by decide +kernel, by decide +kernel⟩,
    ⟨sys { access := .red 0 .fp32 (2 ^ 39 - 4) 1 } [] id, 0, 2 ^ 39 - 4, 1, .fp32, rfl, by decide, by decide⟩,
    ⟨sys { access := .writeBack (2 ^ 39 - 128) [(127, 9)] } [] id, _, _, 127, 9, rfl, by decide, by decide, by decide, by decide, rfl,
      rfl, by decide +kernel⟩,
    ⟨sys { good := true } [] id, rfl⟩, ⟨sys {} [] id, rfl⟩⟩

/-- A block of fields, each at its lowest bit. -/
def Test.fields (l : List (Nat × Nat)) : BitVec 1024 := l.foldl (fun b e => b ||| BitVec.ofNat 1024 e.2 <<< e.1) 0

/-- An all-reduce of one FP32 element from 0x20000 to 0x21000 in the switch, an all-to-all of one, and a multicast descriptor. -/
def Test.redBlock (tmo : Nat) : BitVec 1024 :=
  fields [(8, 1), (12, 1), (64, 1), (128, 0x20000), (192, 0x21000), (256, 1), (352, tmo)]
def Test.a2aBlock : BitVec 1024 := fields [(0, 4), (8, 1), (12, 1), (64, 2), (128, 0x20000), (192, 0x21000), (256, 1)]
def Test.mcBlock : BitVec 1024 := fields [(16, 1), (20, 1), (64, 0x20000), (128, 0x21000), (192, 1)]

def Test.redOp (tmo : Nat) : FabOp := { op false (redBlock tmo) with stage := .admitted, alg := 3 }
def Test.a2aOp : FabOp := { op false a2aBlock with stage := .admitted }
def Test.mcOp : FabOp := { op true mcBlock with stage := .admitted, alg := 3 }

/-- A machine with operations, plans and coordinated groups. -/
def Test.stG (inp : Input) (ops : List FabOp) (ps : List Plan) (cs : List Coord) : State :=
  let s := sys inp [] id
  { s with fab := { FabSys.reset with groups := [⟨0, [⟨0, 0, 0⟩], true, false, []⟩], ops := ops, plans := ps, coords := cs } }

/-- What the coordinating expander keeps for a group of one member at node 5, floe 0. -/
def Test.crd (order : List Admission) (w : List Arrived) : Coord :=
  ⟨0, 1, [⟨0, 5, 0⟩], [(5, 0)], [], [(5, 0, 1)], [], w, order, false⟩

/-- The input that names the operation at 0x10000. -/
def Test.inOp (mc : Nat) : Input := { addr := 0x10000, seq := mc }

def Test.oneKey : BlockKey := (redOp 0).key

theorem witness_FabricEvents_groups :
    (∃ (s : State) (l : List Member), s.input.list = some l ∧ onNode (namedBy s.input.node l) s.input.node ≠ [] ∧
      s.coord s.input.group = none) ∧
    (∃ (s : State) (l : List Member) (c : Coord), s.input.list = some l ∧
      onNode (namedBy s.input.node l) s.input.node ≠ [] ∧ s.coord s.input.group = some c ∧ c.list = namedBy s.input.node l ∧
      ∀ m ∈ onNode (namedBy s.input.node l) s.input.node, m ∉ c.recorded) ∧
    (∃ (s : State) (l : List Member) (c : Coord), s.input.list = some l ∧
      onNode (namedBy s.input.node l) s.input.node ≠ [] ∧ s.coord s.input.group = some c ∧ c.list = namedBy s.input.node l ∧
      ∃ m ∈ onNode (namedBy s.input.node l) s.input.node, m ∈ c.recorded) ∧
    (∃ (s : State) (c : Coord), s.input.list = none ∧ s.coord s.input.group = some c) ∧
    (∃ (s : State) (o : FabOp) (c : Coord) (g : Group) (a : Nat), s.input.fwd = .own a ∧ Names s o ∧ o.stage = .issued ∧
      o.mc = false ∧ mayForward s o = true ∧ s.group o.group = some g ∧ g.dead = false ∧ g.known = true ∧ cutOff s o = false ∧
      coordinated s o = true ∧ s.coord o.group = some c ∧ arrivalStatus (some c) (s.node, o.floe) = none ∧
      (s.node, o.floe) ∉ c.cleared) ∧
    (∃ (s : State) (n f : Nat) (key : BlockKey) (c : Coord), s.input.fwd = .peer n f key ∧ s.coord s.input.group = some c ∧
      arrivalStatus (some c) (n, f) = none ∧ (n, f) ∉ c.cleared) ∧
    (∃ (s : State) (n : Nat) (desc : BitVec 512) (c : Coord), s.input.fwd = .peerMc n desc ∧ s.coord s.input.group = some c ∧
      mcStatus (some c) n = none) ∧
    (∃ (s : State) (c : Coord) (num : Nat) (rest : List Admission), (∀ p ∈ s.fab.plans, p.group ≠ s.input.group) ∧
      s.coord s.input.group = some c ∧ c.order = .block num :: rest ∧
      ((c.waiting.filter fun a => a.num = num).filterMap fun a => a.op.map fun i => (a.key.rank, i)) ≠ [] ∧ c.dead = false ∧
      agreeAll ((c.waiting.filter fun a => a.num = num).map (·.key)) = true) :=
  ⟨⟨stG { list := some [⟨0, 0, 0⟩], node := 5, group := 1 } [] [] [], [⟨0, 0, 0⟩], rfl, by decide, by decide +kernel⟩,
    ⟨stG { list := some [⟨0, 0, 0⟩], node := 5 } [] [] [{ crd [] [] with recorded := [] }], [⟨0, 0, 0⟩],
      { crd [] [] with recorded := [] }, rfl, by decide, by decide +kernel, by decide, by decide⟩,
    ⟨stG { list := some [⟨0, 5, 0⟩], node := 5 } [] [] [crd [] []], [⟨0, 5, 0⟩], crd [] [], rfl, by decide, by decide +kernel,
      by decide, by decide⟩,
    ⟨stG {} [] [] [crd [] []], crd [] [], rfl, by decide +kernel⟩,
    ⟨stG { inOp 0 with fwd := .own 0x10000 } [{ redOp 0 with stage := .issued }] [] [crd [] []], { redOp 0 with stage := .issued },
      crd [] [], ⟨0, [⟨0, 0, 0⟩], true, false, []⟩, 0x10000, rfl, ⟨by decide +kernel, by decide +kernel⟩, rfl, rfl,
      by decide +kernel, by decide +kernel, rfl, rfl, by decide +kernel, by decide +kernel, by decide +kernel, by decide +kernel,
      by decide +kernel⟩,
    ⟨stG { fwd := .peer 5 0 oneKey } [] [] [crd [] []], 5, 0, oneKey, crd [] [], rfl, by decide +kernel, by decide +kernel,
      by decide +kernel⟩,
    ⟨stG { fwd := .peerMc 6 1 } [] [] [crd [] []], 6, 1, crd [] [], rfl, by decide +kernel, by decide +kernel⟩,
    ⟨stG {} [] [] [crd [.block 0] [⟨5, 0, 0, oneKey, some 0, none⟩]], crd [.block 0] [⟨5, 0, 0, oneKey, some 0, none⟩], 0, [],
      by decide, by decide +kernel, by decide +kernel, by decide +kernel, by decide +kernel, by decide +kernel⟩⟩

/-- The plan of operation 0, of members on nodes and with an algorithm's hint. -/
def Test.plan (ready : Bool) (ns : List Nat) (k : BlockKey) (hint : Nat) : Plan :=
  { newPlan 0 (ns.map fun n => ⟨0, n, 0⟩) none k hint [(0, 0)] [] [] with ready := ready }

/-- An all-reduce in the switch on this package alone, and on two; an all-to-all between this package and node 6. -/
def Test.redPlan (ready : Bool) : Plan := plan ready [5] oneKey 0
def Test.redPlan2 (ready : Bool) : Plan := plan ready [5, 6] oneKey 0
def Test.a2aPlan : Plan := plan true [5, 6] a2aOp.key 0

/-- The elements of the next packet of the event's stream. -/
def Test.amount (s : State) (p : Plan) : Nat := min (p.most s.input.flow) (p.ready_ s s.input.flow - p.pos s.input.flow)

/-- The next packet of the event's stream can be formed and has its credit (R302, R307). -/
def Test.Goes (s s1 s2 : State) (p q : Plan) (bs : List Byte) (te : Nat) : Prop :=
  Streams s p ∧ s.ownNode (p.srcNode s.input.flow) = true ∧ p.starved s s.input.flow = false ∧ 0 < amount s p ∧
    hasUnit s p s.input.flow = true ∧ Machine.packet s p s.input.flow (p.pos s.input.flow) (amount s p) = .data s1 bs te ∧
    takeCredit s1 p s.input.flow (amount s p * p.unit s.input.flow) = some (s2, q) ∧ p.own ≠ [] ∧ s1.fab = s.fab

def Test.goes (s : State) (p : Plan) : Bool :=
  match Machine.packet s p s.input.flow (p.pos s.input.flow) (amount s p) with
  | .data s1 _ _ => (takeCredit s1 p s.input.flow (amount s p * p.unit s.input.flow)).isSome && decide (s1.fab = s.fab)
  | _ => false

theorem Test.going {s : State} {p : Plan} (h : goes s p = true) (hs : Streams s p)
    (ho : s.ownNode (p.srcNode s.input.flow) = true) (hv : p.starved s s.input.flow = false) (ha : 0 < amount s p)
    (hu : hasUnit s p s.input.flow = true) (hn : p.own ≠ []) : ∃ s1 s2 q bs te, Goes s s1 s2 p q bs te := by
  unfold goes at h
  split at h
  · rename_i s1 bs te e
    simp only [Bool.and_eq_true, decide_eq_true_eq] at h
    obtain ⟨⟨s2, q⟩, hq⟩ := Option.isSome_iff_exists.1 h.1
    exact ⟨s1, s2, q, bs, te, hs, ho, hv, ha, hu, e, hq, hn, h.2⟩
  · cases h

/-- A port with all its slots but one reserved. -/
def Test.last (n : Nat) : FabPort := ⟨n, true, false, 0, false, 0, 0, 0, 0, 511, 0⟩

/-- A plan that waits for its first window, and the stream that would cross this switch between nodes 6 and 7. -/
def Test.hopPlan : Plan := { redPlan false with hops := [⟨.cast 0, 23, 1, false, 0⟩] }
def Test.crossPlan : Plan :=
  { plan false [6, 7] { oneKey with op := 2 } 1 with own := [], hops := [⟨.direct 9 9, 23, 1, true, 0⟩, ⟨.direct 8 8, 23, 1, false, 0⟩] }

theorem witness_FabricEvents_reservations :
    (∃ (s : State) (p : Plan) (h : Hop) (rest : List Hop),
      s.fab.plans.find? (fun p => p.group = s.input.group && !p.ready) = some p ∧
      (p.uses s.input.flow = true → s.ownNode (p.srcNode s.input.flow) = true) ∧ p.hops.filter (fun h => !h.held) = h :: rest ∧
      p.lowerNodes s = false ∧ h.port = 23 ∧ (s.port h.port).up = true ∧ (s.port h.port).slots + h.win = 512) ∧
    (∃ (s : State) (p : Plan), s.fab.plans.find? (fun p => p.group = s.input.group && !p.ready) = some p ∧
      (p.uses s.input.flow = true → s.ownNode (p.srcNode s.input.flow) = true) ∧ p.hops.filter (fun h => !h.held) = [] ∧
      p.higherNodes s = true ∧ s.input.good = true ∧ s.fab.plans.foldl (fun a q => a + q.accs) (accNeed s p) ≤ accBytes) ∧
    (∃ (s : State) (p : Plan), s.fab.plans.find? (fun p => p.group = s.input.group && !p.ready) = some p ∧
      p.uses s.input.flow = true ∧ s.ownNode (p.srcNode s.input.flow) = false ∧
      (∀ q ∈ p.dstNodes s.input.flow, s.ownNode q = false) ∧ s.input.port = 23 ∧
      (∀ h ∈ p.hops, if h.held = true then h.port ≤ s.input.port else s.input.port ≤ h.port) ∧
      (∀ h ∈ p.hops, h.way ≠ p.way s.input.flow) ∧ (s.port s.input.port).up = true ∧
      (s.port s.input.port).slots + min 16 s.input.len = 512) :=
  ⟨⟨(stG {} [redOp 0] [hopPlan] []).setPort (last 23), hopPlan, ⟨.cast 0, 23, 1, false, 0⟩, [], by decide +kernel, by decide +kernel,
      by decide +kernel, by decide +kernel, rfl, by decide +kernel, by decide +kernel⟩,
    ⟨stG { good := true } [redOp 0] [redPlan2 false] [], redPlan2 false, by decide +kernel, by decide +kernel, by decide +kernel,
      by decide +kernel, rfl, by decide +kernel⟩,
    ⟨(stG { flow := .ring 0 0, port := 23, len := 1 } [] [crossPlan] []).setPort (last 23), crossPlan, by decide +kernel,
      by decide +kernel, by decide +kernel, by decide +kernel, rfl, by decide +kernel, by decide +kernel, by decide +kernel,
      by decide +kernel⟩⟩

/-- One FP32 partial of 40 bytes. -/
def Test.part1 : List Byte := oneKey.dtype |> fun _ => (redPlan true).red.liftAll [0, 0, 0x80, 0x3F]

/-- A reduction whose only member has given its element. -/
def Test.gavePlan : Plan := { redPlan true with moved := [(.give 0, 1)], point := [⟨0, part1⟩] }

theorem witness_FabricEvents_steps :
    (∃ (s : State) (p : Plan), Streams s p ∧ s.ownNode (p.srcNode s.input.flow) = true ∧ p.starved s s.input.flow = true) ∧
    (∃ (s s1 s2 : State) (p q : Plan) (bs : List Byte) (te a b i : Nat) (o : FabOp), Goes s s1 s2 p q bs te ∧
      s.input.flow = .direct a b ∧ p.own.find? (fun e => e.1 = b) = some (b, i) ∧ s.fabOp i = some o) ∧
    (∃ (s s1 s2 : State) (p q : Plan) (bs : List Byte) (te r : Nat), Goes s s1 s2 p q bs te ∧ p.reduces = true ∧ p.alg = 3 ∧
      s.input.flow = .cast r) ∧
    (∃ (s : State) (p : Plan) (bs : List Byte) (n a b i : Nat) (o : FabOp), Streams s p ∧
      s.ownNode (p.srcNode s.input.flow) = false ∧ s.input.data = some bs ∧ 0 < n ∧ bs.length = n * p.unit s.input.flow ∧
      0 < p.unit s.input.flow ∧ bs.length ≤ 1024 ∧ p.pos s.input.flow + n = p.len s s.input.flow ∧
      (∃ q ∈ p.dstNodes s.input.flow, s.ownNode q = true) ∧ p.own ≠ [] ∧ s.input.flow = .direct a b ∧
      p.own.find? (fun e => e.1 = b) = some (b, i) ∧ s.fabOp i = some o) ∧
    (∃ (s : State) (p : Plan), Streams s p ∧ s.ownNode (p.srcNode s.input.flow) = false ∧ s.input.data = none ∧
      p.pos s.input.flow < p.len s s.input.flow) ∧
    (∃ (s : State) (p : Plan) (h : Hop), groupPlan s s.input.group = some p ∧
      p.hops.find? (fun h => h.way = p.way s.input.flow && h.port = s.input.port && 0 < h.used) = some h) ∧
    (∃ (s : State) (p : Plan), s.fab.plans.find? (fun p => p.group = s.input.group && p.ready) = some p ∧ p.reduces = true ∧
      p.alg = 3 ∧ s.ownNode p.head = false) := by
  obtain ⟨s1, s2, q, bs, te, h⟩ := going (s := stG { flow := .direct 0 0 } [a2aOp] [a2aPlan] []) (p := a2aPlan)
    (by decide +kernel) ⟨by decide +kernel, by decide +kernel, by decide +kernel⟩ (by decide +kernel) (by decide +kernel)
    (by decide +kernel) (by decide +kernel) (by decide +kernel)
  obtain ⟨s4, s5, q5, bs4, te4, h4⟩ := going (s := stG { flow := .cast 0 } [redOp 0] [gavePlan] []) (p := gavePlan)
    (by decide +kernel) ⟨by decide +kernel, by decide +kernel, by decide +kernel⟩ (by decide +kernel) (by decide +kernel)
    (by decide +kernel) (by decide +kernel) (by decide +kernel)
  exact ⟨⟨stG { flow := .give 0 } [{ redOp 0 with bad := true }] [redPlan true] [], redPlan true,
      ⟨by decide +kernel, by decide +kernel, by decide +kernel⟩, by decide +kernel, by decide +kernel⟩,
    ⟨_, s1, s2, _, q, bs, te, 0, 0, 0, a2aOp, h, rfl, by decide +kernel, by decide +kernel⟩,
    ⟨_, s4, s5, _, q5, bs4, te4, 0, h4, by decide +kernel, by decide +kernel, rfl⟩,
    ⟨stG { flow := .direct 1 0, data := some [1, 2, 3, 4] } [a2aOp] [a2aPlan] [], a2aPlan, [1, 2, 3, 4], 4, 1, 0, 0, a2aOp,
      ⟨by decide +kernel, by decide +kernel, by decide +kernel⟩, by decide +kernel, rfl, by decide, by decide +kernel,
      by decide +kernel, by decide, by decide +kernel, by decide +kernel, by decide +kernel, rfl, by decide +kernel, by decide +kernel⟩,
    ⟨stG { flow := .direct 1 0 } [a2aOp] [a2aPlan] [], a2aPlan, ⟨by decide +kernel, by decide +kernel, by decide +kernel⟩,
      by decide +kernel, rfl, by decide +kernel⟩,
    ⟨stG { flow := .direct 0 1, port := 23 } [a2aOp] [{ a2aPlan with hops := [⟨.direct 0 1, 23, 1, true, 1⟩] }] [],
      { a2aPlan with hops := [⟨.direct 0 1, 23, 1, true, 1⟩] }, ⟨.direct 0 1, 23, 1, true, 1⟩, by decide +kernel, by decide +kernel⟩,
    ⟨stG {} [] [{ plan true [6, 5] oneKey 0 with own := [] }] [], { plan true [6, 5] oneKey 0 with own := [] }, by decide +kernel,
      by decide +kernel, by decide +kernel, by decide +kernel⟩⟩

/-- An all-reduce whose result has come, with its plan, and a descriptor whose result has come. -/
def Test.fullOp : FabOp := { redOp 0 with got := [⟨0, [0, 0, 0x80, 0x3F]⟩] }
def Test.mcPlan : Plan :=
  { newPlan 0 [⟨0, 5, 0⟩] (some (5, mcBlock)) BlockKey.none 0 [(0, 0)] [] [] with
    ready := true, moved := [(.cast 0, 1), (.give 0, 1)], result := [0, 0, 0x80, 0x3F] }

/-- An operation decided with status 0. -/
def Test.endOp (mc : Bool) : FabOp := { (if mc then mcOp else redOp 0) with status := some 0 }

/-- The same on members of two nodes of which 6, or the first, is lost. -/
def Test.stLost (first : Bool) (ps : List Plan) : State :=
  (stG (inOp 0) [{ redOp 0 with members := if first then [⟨0, 6, 0⟩] else [⟨0, 0, 0⟩, ⟨0, 6, 0⟩] }] ps []).onFabSys fun b =>
    { b with lost := [6] }

/-- The result write of a descriptor. -/
def Test.mcWrite (s : State) : EngineEnd :=
  engineOp (noteRows (settle s 0x21000 4) 0 [(0x21000, 4)]) 0 0 0 [] [(0x21000, 4)] fun _ => mcPlan.result

theorem Test.kept {e : EngineEnd} {s : State} (h : (match e with | .done s2 _ => decide (s2.fab = s.fab) | _ => false) = true) :
    ∃ s2 te, e = .done s2 te ∧ s2.fab = s.fab := by
  cases e with
  | done s2 te => exact ⟨s2, te, rfl, of_decide_eq_true h⟩
  | fault a => cases h
  | wait => cases h

theorem witness_FabricEvents_deliveries :
    (∃ (s s2 : State) (o : FabOp) (p : Plan) (te : Nat), Names s o ∧ planOf s o.id = some p ∧ p.ready = true ∧ o.status = none ∧
      o.mc = false ∧ s.input.chunk < o.chunkCount ∧ s.input.chunk ∉ o.chunks ∧ o.chunkFinal s.input.chunk = true ∧
      chunkOp s o s.input.chunk = .done s2 te ∧ s2.fab.ops = s.fab.ops) ∧
    (∃ (s s2 : State) (o : FabOp) (p : Plan) (core a te : Nat), Names s o ∧ planOf s o.id = some p ∧ o.mc = true ∧
      s.input.rank ∉ p.written ∧ p.elems ≤ p.pos (.cast 0) ∧ (∀ e ∈ p.own, ∃ q, s.fabOp e.2 = some q ∧ q.status = none) ∧
      (p.mcTargets s).find? (fun t => t.1 = s.input.rank) = some (s.input.rank, core, a) ∧
      foreignScratch (p.mcBy s).2 core a p.result.length = false ∧
      engineOp (noteRows (settle s a p.result.length) (((p.opAt s 0).map (·.by_.lid)).getD noLid) [(a, p.result.length)]) core
        (p.mcBy s).1 p.te [] [(a, p.result.length)] (fun _ => p.result) = .done s2 te ∧ s2.fab.plans = s.fab.plans) := by
  obtain ⟨s2, te, h, hf⟩ := kept (e := chunkOp (stG (inOp 0) [fullOp] [redPlan true] []) fullOp 0)
    (s := stG (inOp 0) [fullOp] [redPlan true] []) (by decide +kernel)
  obtain ⟨s3, t3, h3, hf3⟩ := kept (e := mcWrite (stG (inOp 1) [mcOp] [mcPlan] [])) (s := stG (inOp 1) [mcOp] [mcPlan] [])
    (by decide +kernel)
  exact ⟨⟨stG (inOp 0) [fullOp] [redPlan true] [], s2, fullOp, redPlan true, te, ⟨by decide +kernel, by decide +kernel⟩,
      by decide +kernel, by decide +kernel, rfl, rfl, by decide +kernel, by decide +kernel, by decide +kernel, h, by rw [hf]⟩,
    ⟨stG (inOp 1) [mcOp] [mcPlan] [], s3, mcOp, mcPlan, 0, 0x21000, t3, ⟨by decide +kernel, by decide +kernel⟩, by decide +kernel,
      rfl, by decide +kernel, by decide +kernel,
      fun e he => by
        simp only [mcPlan, newPlan, List.mem_singleton] at he
        subst he
        exact ⟨mcOp, by decide +kernel, rfl⟩,
      by decide +kernel, by decide +kernel, h3, by rw [hf3]⟩⟩

theorem witness_FabricEvents_decisions :
    (∃ (s : State) (o : FabOp), Names s o ∧ o.status = none ∧ o.tmo ≠ 0 ∧ mcBegun s o = false) ∧
    (∃ (s : State) (o : FabOp), Names s o ∧ o.status = none ∧ o.tmo = 0) ∧
    (∃ (s : State) (o : FabOp), Names s o ∧ o.status = none ∧ mcBegun s o = true) ∧
    (∃ (s : State) (o : FabOp) (p : Plan) (e : Nat × Nat) (q : FabOp), Names s o ∧ o.status = none ∧ o.mc = false ∧
      planOf s o.id = some p ∧ e ∈ p.own ∧ s.fabOp e.2 = some q ∧ q.status = none) ∧
    (∃ (s : State) (o : FabOp), Names s o ∧ o.status = none ∧ o.mc = false ∧ planOf s o.id = none) ∧
    (∃ (s : State) (o : FabOp), Names s o ∧ o.status = none ∧ o.mc = true ∧ mcBegun s o = false) ∧
    (∃ (s : State) (o : FabOp), Names s o ∧ o.status = none ∧ lostRanks s o.members ≠ [] ∧ cutOff s o = true) ∧
    (∃ (s : State) (o : FabOp), Names s o ∧ o.status = none ∧ lostRanks s o.members ≠ [] ∧ planOf s o.id = none) ∧
    (∃ (s : State) (o : FabOp) (p : Plan) (r : Nat) (m : Member), Names s o ∧ o.status = none ∧ lostRanks s o.members ≠ [] ∧
      cutOff s o = false ∧ planOf s o.id = some p ∧ p.mc = none ∧ r ∈ lostRanks s p.members ∧ p.members[r]? = some m) :=
  ⟨⟨stG (inOp 0) [redOp 7] [] [], redOp 7, ⟨by decide +kernel, by decide +kernel⟩, rfl, by decide +kernel, by decide +kernel⟩,
    ⟨stG (inOp 0) [redOp 0] [] [], redOp 0, ⟨by decide +kernel, by decide +kernel⟩, rfl, by decide +kernel⟩,
    ⟨stG (inOp 1) [mcOp] [{ mcPlan with written := [0] }] [], mcOp, ⟨by decide +kernel, by decide +kernel⟩, rfl, by decide +kernel⟩,
    ⟨stG (inOp 0) [redOp 0] [redPlan false] [], redOp 0, redPlan false, (0, 0), redOp 0, ⟨by decide +kernel, by decide +kernel⟩, rfl,
      rfl, by decide +kernel, by decide +kernel, by decide +kernel, rfl⟩,
    ⟨stG (inOp 0) [redOp 0] [] [], redOp 0, ⟨by decide +kernel, by decide +kernel⟩, rfl, rfl, by decide +kernel⟩,
    ⟨stG (inOp 1) [mcOp] [mcPlan] [], mcOp, ⟨by decide +kernel, by decide +kernel⟩, rfl, rfl, by decide +kernel⟩,
    ⟨stLost true [], { redOp 0 with members := [⟨0, 6, 0⟩] }, ⟨by decide +kernel, by decide +kernel⟩, rfl, by decide +kernel,
      by decide +kernel⟩,
    ⟨stLost false [], { redOp 0 with members := [⟨0, 0, 0⟩, ⟨0, 6, 0⟩] }, ⟨by decide +kernel, by decide +kernel⟩, rfl,
      by decide +kernel, by decide +kernel⟩,
    ⟨stLost false [redPlan2 true], { redOp 0 with members := [⟨0, 0, 0⟩, ⟨0, 6, 0⟩] }, redPlan2 true, 1, ⟨0, 6, 0⟩,
      ⟨by decide +kernel, by decide +kernel⟩, rfl, by decide +kernel, by decide +kernel, by decide +kernel, by decide +kernel,
      by decide +kernel, by decide +kernel⟩⟩

theorem witness_FabricEvents_ends :
    (∃ (s s2 : State) (o : FabOp) (st te : Nat), s.input.node = 0 ∧ Names s o ∧ o.status = some st ∧ o.stage ≠ .issued ∧
      o.mc = true ∧ finalOp s o (finalWrites s o st none) = some (s2, te)) ∧
    (∃ (s s2 : State) (o : FabOp) (st te : Nat), s.input.node = 0 ∧ Names s o ∧ o.status = some st ∧ o.stage ≠ .issued ∧
      o.mc = false ∧ planOf s o.id = none ∧ inMatched s o = false ∧
      finalOp s o (finalWrites s o st (some (aloneStatuses o st))) = some (s2, te)) ∧
    (∃ (s s2 : State) (o : FabOp) (st te : Nat) (p : Plan) (l : List Byte), s.input.node = 0 ∧ Names s o ∧ o.status = some st ∧
      o.stage ≠ .issued ∧ o.mc = false ∧ cutOff s o = false ∧ planOf s o.id = some p ∧ statusesOf s o p = some l ∧
      finalOp s o (finalWrites s o st (some l)) = some (s2, te)) := by
  obtain ⟨⟨s3, t3⟩, h3⟩ := Option.isSome_iff_exists.1 (by decide +kernel : (finalOp (stG (inOp 1) [endOp true] [mcPlan] [])
    (endOp true) (finalWrites (stG (inOp 1) [endOp true] [mcPlan] []) (endOp true) 0 none)).isSome = true)
  obtain ⟨⟨s5, t5⟩, h5⟩ := Option.isSome_iff_exists.1 (by decide +kernel : (finalOp (stG (inOp 0) [endOp false] [] [])
    (endOp false) (finalWrites (stG (inOp 0) [endOp false] [] []) (endOp false) 0 (some (aloneStatuses (endOp false) 0)))).isSome = true)
  obtain ⟨⟨s4, t4⟩, h4⟩ := Option.isSome_iff_exists.1 (by decide +kernel : (finalOp (stG (inOp 0) [endOp false] [redPlan true] [])
    (endOp false) (finalWrites (stG (inOp 0) [endOp false] [redPlan true] []) (endOp false) 0 (some [0]))).isSome = true)
  exact ⟨⟨stG (inOp 1) [endOp true] [mcPlan] [], s3, endOp true, 0, t3, rfl, ⟨by decide +kernel, by decide +kernel⟩,
      by decide +kernel, by decide +kernel, by decide +kernel, h3⟩,
    ⟨stG (inOp 0) [endOp false] [] [], s5, endOp false, 0, t5, rfl, ⟨by decide +kernel, by decide +kernel⟩, by decide +kernel,
      by decide +kernel, by decide +kernel, by decide +kernel, by decide +kernel, h5⟩,
    ⟨stG (inOp 0) [endOp false] [redPlan true] [], s4, endOp false, 0, t4, redPlan true, [0], rfl,
      ⟨by decide +kernel, by decide +kernel⟩, by decide +kernel, by decide +kernel, by decide +kernel, by decide +kernel,
      by decide +kernel, by decide +kernel, h4⟩⟩

/-- A machine whose event names port 31, in a state of its link. -/
def Test.stLink (inp : Input) (x : FabPort) : State := (sys { inp with port := 31 } [] id).setPort x

/-- A port's link: up, training, waiting for a replay, with failures in a row. -/
def Test.link (up tr retry : Bool) (fails : Nat) : FabPort := ⟨31, up, tr, 4095, retry, fails, 8, 4, 6, 0, 0⟩

theorem witness_FabricEvents_links :
    (∃ (s : State) (x : FabPort), s.input.port < 32 ∧ x = s.port s.input.port ∧ x.up = true ∧ x.training = false ∧
      x.retry = false ∧ s.input.good = true ∧ s.input.seq = x.expect) ∧
    (∃ (s : State) (x : FabPort), s.input.port < 32 ∧ x = s.port s.input.port ∧ x.up = true ∧ x.training = false ∧
      x.retry = true ∧ s.input.good = true ∧ s.input.seq = x.expect) ∧
    (∃ (s : State) (x : FabPort), s.input.port < 32 ∧ x = s.port s.input.port ∧ x.up = true ∧ x.training = false ∧
      x.retry = false ∧ s.input.good = false) ∧
    (∃ (s : State) (x : FabPort), s.input.port < 32 ∧ x = s.port s.input.port ∧ x.up = true ∧ x.training = false ∧
      x.retry = true ∧ s.input.good = false ∧ s.input.seq = x.expect ∧ x.fails = 15) ∧
    (∃ (s : State) (x : FabPort), s.input.port < 32 ∧ x = s.port s.input.port ∧
      x.acked + (s.input.seq + 4096 - x.acked % 4096) % 4096 = x.replay) ∧
    (∃ (s : State) (x : FabPort), s.input.port < 32 ∧ x = s.port s.input.port ∧ x.up = true ∧ x.acked < x.replay) ∧
    (∃ (s : State) (x : FabPort), s.input.port < 32 ∧ x = s.port s.input.port ∧ x.training = true ∧ s.input.good = true) ∧
    (∃ (s : State) (x : FabPort), s.input.port < 32 ∧ x = s.port s.input.port ∧ x.training = true ∧ s.input.good = false ∧
      LogRoom s 4) ∧
    (∃ s : State, s.input.port = 32) ∧
    (∃ s : State, 0 < s.input.node ∧ s.input.node < 4096 ∧ s.input.node ≠ s.node ∧ s.isLost s.input.node = false ∧ LogRoom s 4) ∧
    (∃ s : State, s.isLost s.input.node = true) :=
  ⟨⟨stLink { good := true, seq := 4095 } (link true false false 0), _, by decide, rfl, by decide +kernel⟩,
    ⟨stLink { good := true, seq := 4095 } (link true false true 3), _, by decide, rfl, by decide +kernel⟩,
    ⟨stLink { seq := 4095 } (link true false false 0), _, by decide, rfl, by decide +kernel⟩,
    ⟨stLink { seq := 4095 } (link true false true 15), _, by decide, rfl, by decide +kernel⟩,
    ⟨stLink { seq := 6 } (link true false false 0), _, by decide, rfl, by decide +kernel⟩,
    ⟨stLink {} (link true false false 0), _, by decide, rfl, by decide +kernel⟩,
    ⟨stLink { good := true } (link true true true 16), _, by decide, rfl, by decide +kernel⟩,
    ⟨stLink {} (link true true true 16), _, by decide, rfl, by decide +kernel, by decide +kernel, by unfold LogRoom; decide +kernel⟩,
    ⟨sys { port := 32 } [] id, rfl⟩,
    ⟨sys { node := 4095 } [] id, by decide +kernel, by decide +kernel, by decide +kernel, by decide +kernel,
      by unfold LogRoom; decide +kernel⟩,
    ⟨(sys { node := 6 } [] id).onFabSys fun b => { b with lost := [6] }, by decide +kernel⟩⟩

/-- A run of one FP32 score, its arrays at 0x21000 and 0x22000, on context 0 with a limit of `lim` rounds; and a machine with it. -/
def Test.run1 (lim : Nat) (begun : Bool) (held : List (List (Nat × Int))) : Run :=
  { run ((fields [(0, 0x10), (64, 1), (96, 1), (112, lim), (160, 4), (192, 0x20000), (256, 0x21000), (320, 0x22000)]).setWidth 512) with begun := begun, scores := [5], prices := [3], held := held, rounds := 0 }
def Test.stRun (r : Run) (poison : Bool) : State :=
  let s := sys (inOp 0) [] id
  { s with fab := { FabSys.reset with runs := [r], banks := [⟨0, [(0, 3)], poison⟩] } }

theorem Test.fits {f : Fit} (h : (match f with | .ok _ => true | _ => false) = true) : ∃ l, f = .ok l := by
  cases f <;> simp_all

/-- A run whose one copy is held. -/
def Test.runFull : Run := run1 1 true [[(0, 5)]]

/-- What it writes as it ends. -/
def Test.asgWrite (s : State) : EngineEnd :=
  engineOp (noteRows (settleRows s [asgRange runFull.view]) 0 [asgRange runFull.view]) 0 0 0 [] [asgRange runFull.view] fun _ =>
    runFull.asgList.flatMap fun p => leBytes 4 p.1 ++ leBytes 4 p.2
def Test.rowsWrite (s : State) (te : Nat) : EngineEnd :=
  engineOp (noteRows (settleRows s [rowsRange runFull.view]) 0 [rowsRange runFull.view]) 0 0 te [] [rowsRange runFull.view] fun _ =>
    runFull.rowList.flatMap fun x => leBytes 4 x

theorem Test.runWrites :
    ∃ s3 s5 te te', asgWrite (stRun runFull false) = .done s3 te ∧ rowsWrite s3 te = .done s5 te' := by
  have hp : (match asgWrite (stRun runFull false) with
    | .done s3 te => (match rowsWrite s3 te with | .done _ _ => true | _ => false)
    | _ => false) = true := by decide +kernel
  cases h1 : asgWrite (stRun runFull false) with
  | done s3 te =>
    simp only [h1] at hp
    cases h2 : rowsWrite s3 te with
    | done s5 te' => exact ⟨s3, s5, te, te', rfl, h2⟩
    | fault a => simp only [h2] at hp; cases hp
    | wait => simp only [h2] at hp; cases hp
  | fault a => rw [h1] at hp; cases hp
  | wait => rw [h1] at hp; cases hp

theorem witness_FabricEvents_runs :
    (∃ (s : State) (r : Run), eventRun s = some r ∧ r.begun = false ∧ r.failed = false ∧ firstOnBank s r = true ∧
      (s.bank r.view.bank).poison = true) ∧
    (∃ (s : State) (r : Run) (l la lr : List Span), eventRun s = some r ∧ r.begun = false ∧ r.failed = false ∧
      firstOnBank s r = true ∧ (s.bank r.view.bank).poison = false ∧
      spansList (settleRows s (asgRange r.view :: rowsRange r.view :: scoreRows r.view)) r.by_.core r.by_.tenant .rd
        (scoreRows r.view) = .ok l ∧
      spansList (settleRows s (asgRange r.view :: rowsRange r.view :: scoreRows r.view)) r.by_.core r.by_.tenant .wr
        [asgRange r.view] = .ok la ∧
      spansList (settleRows s (asgRange r.view :: rowsRange r.view :: scoreRows r.view)) r.by_.core r.by_.tenant .wr
        [rowsRange r.view] = .ok lr) ∧
    (∃ (s : State) (r : Run), eventRun s = some r ∧ r.begun = true ∧ r.failed = false ∧ r.left ≠ [] ∧ r.rounds < r.view.lim) ∧
    (∃ (s : State) (r : Run), eventRun s = some r ∧ r.begun = true ∧ r.failed = false ∧ r.left ≠ [] ∧ r.rounds = r.view.lim) ∧
    (∃ (s : State) (r : Run), eventRun s = some r ∧ r.failed = true) ∧
    (∃ (s s3 s5 : State) (r : Run) (te te' : Nat), eventRun s = some r ∧ r.begun = true ∧ r.failed = false ∧ r.left = [] ∧
      r.stage = 0 ∧ (s.bank r.view.bank).poison = false ∧
      engineOp (noteRows (settleRows s [asgRange r.view]) r.by_.lid [asgRange r.view]) r.by_.core r.by_.tenant r.te []
        [asgRange r.view] (fun _ => r.asgList.flatMap fun p => leBytes 4 p.1 ++ leBytes 4 p.2) = .done s3 te ∧
      engineOp (noteRows (settleRows s3 [rowsRange r.view]) r.by_.lid [rowsRange r.view]) r.by_.core r.by_.tenant te []
        [rowsRange r.view] (fun _ => r.rowList.flatMap fun x => leBytes 4 x) = .done s5 te') ∧
    (∃ (r : Run) (p : Int), p ∈ r.stored) := by
  let r := run1 0 false []
  let s1 := settleRows (stRun r false) (asgRange r.view :: rowsRange r.view :: scoreRows r.view)
  obtain ⟨l, hl⟩ := fits (f := spansList s1 0 0 .rd (scoreRows r.view)) (by decide +kernel)
  obtain ⟨la, hla⟩ := fits (f := spansList s1 0 0 .wr [asgRange r.view]) (by decide +kernel)
  obtain ⟨lr, hlr⟩ := fits (f := spansList s1 0 0 .wr [rowsRange r.view]) (by decide +kernel)
  obtain ⟨s3, s5, te, te', h2, h3⟩ := runWrites
  exact ⟨⟨stRun r true, r, by decide +kernel, rfl, rfl, by decide +kernel, by decide +kernel⟩,
    ⟨stRun r false, r, l, la, lr, by decide +kernel, rfl, rfl, by decide +kernel, by decide +kernel, hl, hla, hlr⟩,
    ⟨stRun (run1 1 true [[]]) false, run1 1 true [[]], by decide +kernel, rfl, rfl, by decide +kernel, by decide +kernel⟩,
    ⟨stRun (run1 0 true [[]]) false, run1 0 true [[]], by decide +kernel, rfl, rfl, by decide +kernel, by decide +kernel⟩,
    ⟨stRun { r with failed := true } false, { r with failed := true }, by decide +kernel, rfl⟩,
    ⟨stRun runFull false, s3, s5, runFull, te, te', by decide +kernel, rfl, rfl, by decide +kernel, rfl, by decide +kernel, h2, h3⟩,
    ⟨r, 0, by decide +kernel⟩⟩

/-- The word `addi x10, x0, 4096`, in a core's L1I and at its home; a ready slot that is to issue it; one whose turn is an event. -/
def Test.addiWord : Memory := [(1, 0x10), (2, 0x50), (3, 0x12)]
def Test.stStep (l1i : List CopyI) : State :=
  { (st 1 []).onMem fun m => { m with bytes := addiWord.map fun c => (vkey 0x10000 + c.1, c.2), l1i := l1i } with
    turns := [.issue ⟨0, 0⟩] }
def Test.stHappen (e : Instr) : State := { st 1 [] with turns := [.happen e { value := 7 }] }

theorem Test.notDying {w : Wait} (h : w = .none) (c : Cause) : w ≠ .dying c := by rw [h]; simp

/-- What a slot's turn assumes (R39, R40, R136). -/
def Test.TurnOk (s : State) (l : Loc) (rest : List Turn) (key : Nat) (cls : Cls) (w : Lane) (x : Word32) (held : Bool) : Prop :=
  let s0 : State := { s with took := none, turns := rest }
  let s1 := tick (selectSlot s0 l) (some l)
  let s2 : State := { s1 with th := { s1.th with wait := .none } }
  let pc := s2.th.pc.toNat
  let s3 := fillI s2 s2.th.pc
  let s4 : State := { s3 with th := { s3.th with ir := w } }
  let s5 := if s1.th.wait = .none then issued s4 else s4
  s.turns = .issue l :: rest ∧ mayIssue s0 l = true ∧ (∀ c, s1.th.wait ≠ .dying c) ∧ s1.th.vpart = none ∧
    (∀ d ∈ s1.host.dbg, d.core ≠ s1.th.core) ∧ s1.th.pin = none ∧ pc % 4 = 0 ∧ region pc = .virt ∧
    resolve s2 s2.th.core s2.tenant .ex pc = .ok key cls ∧
    (if held then ∃ c, s2.copyI s2.th.core pc = some c ∧ c.bad = false ∧ w = BitVec.ofNat 32 (c.data.read (pc % 128) 4)
     else s2.copyI s2.th.core pc = none ∧ poisoned s2 key 4 = false ∧ w = BitVec.ofNat 32 (s2.mem.bytes.read key 4)) ∧
    decode s2.th.enc w.toNat = some x ∧ ∃ t, exec x.instr s5 = .next t

theorem witness_StepRunsTheDecodedInstruction :
    (∃ (s : State) (l : Loc) (rest : List Turn) (key : Nat) (cls : Cls) (w : Lane) (x : Word32), TurnOk s l rest key cls w x false) ∧
    (∃ (s : State) (l : Loc) (rest : List Turn) (key : Nat) (cls : Cls) (w : Lane) (x : Word32), TurnOk s l rest key cls w x true) ∧
    (∃ (s : State) (e : Instr) (inp : Input) (rest : List Turn), s.turns = .happen e inp :: rest ∧ e.isWord = true) ∧
    (∃ (s t : State) (e : Instr) (inp : Input) (rest : List Turn), s.turns = .happen e inp :: rest ∧ e.isWord = false ∧
      e ≠ .illegalInstruction ∧ exec e { s with took := none, turns := rest, input := inp } = .next t) ∧
    (∃ t : State, matrixIdle t = true ∧ t.mem.l1.length ≤ 12 ∧ t.mem.l1i.length ≤ 4 ∧ t.mem.l2.length ≤ 24) :=
  ⟨⟨stStep [], ⟨0, 0⟩, [], vkey 0x10000, .swc, 0x12501000, ⟨0, .addi 10 0 4096⟩, rfl, by decide +kernel, notDying (by decide +kernel), by decide +kernel, by decide +kernel, by decide +kernel, by decide +kernel,
      by decide +kernel, by decide +kernel, by decide +kernel, by decide +kernel, _, rfl⟩,
    ⟨stStep [⟨0, 512, addiWord, false⟩], ⟨0, 0⟩, [], vkey 0x10000, .swc, 0x12501000, ⟨0, .addi 10 0 4096⟩, rfl, by decide +kernel,
      notDying (by decide +kernel), by decide +kernel, by decide +kernel,
      by decide +kernel, by decide +kernel, by decide +kernel, by decide +kernel,
      ⟨⟨0, 512, addiWord, false⟩, by decide +kernel, rfl, by decide +kernel⟩, by decide +kernel, _, rfl⟩,
    ⟨stHappen (.addi 1 1 1), .addi 1 1 1, { value := 7 }, [], rfl, rfl⟩,
    ⟨stHappen .attgo, _, .attgo, { value := 7 }, [], rfl, rfl, by decide, rfl⟩,
    ⟨st 1 [], by decide +kernel, by decide, by decide, by decide⟩⟩

theorem witness_DecodeOfEncode :
    ∃ (ver : Nat) (x : Word32), wellFormed ver x = true ∧ x.instr.isWord = true ∧ x.w = 3 :=
  ⟨3, ⟨3, .vfsub .f32 4 1 3 0 .rne⟩, by decide +kernel, rfl, rfl⟩

theorem witness_EveryStepKeepsThePlbWithinBounds : ∃ s t : State, PlbFits s ∧ step s = .next t := by
  have h : (match step (stHappen .attgo) with | .next _ => true | _ => false) = true := by decide +kernel
  cases he : step (stHappen .attgo) with
  | next t => exact ⟨stHappen .attgo, t, fun core => Nat.le_trans List.countP_le_length (by decide), he⟩
  | fault f => rw [he] at h; cases h
  | refused f => rw [he] at h; cases h

end
end

section
/-! SUPPORT. Each result function of the integer instructions as arithmetic on the signed and unsigned readings of its operands. -/

namespace Sys2Proof.Machine

/-! ### Shifts, extrema, quotients and remainders, at any width -/

/-- A left shift multiplies by a power of two; the operand may be cut or widened first (R171, R173). -/
theorem setWidth_shiftLeft_eq_ofNat {w : Nat} (v : Nat) (a : BitVec w) (k : Nat) :
    a.setWidth v <<< k = BitVec.ofNat v (a.toNat * 2 ^ k) := by
  apply BitVec.eq_of_toNat_eq
  simp [Nat.shiftLeft_eq]

theorem shiftLeft_eq_ofNat {w : Nat} (a : BitVec w) (k : Nat) : a <<< k = BitVec.ofNat w (a.toNat * 2 ^ k) := by
  rw [← setWidth_shiftLeft_eq_ofNat, BitVec.setWidth_eq]

theorem ushiftRight_eq_ofNat {w : Nat} (a : BitVec w) (k : Nat) : a >>> k = BitVec.ofNat w (a.toNat / 2 ^ k) := by
  rw [← Nat.shiftRight_eq_div_pow, ← BitVec.toNat_ushiftRight, BitVec.ofNat_toNat, BitVec.setWidth_eq]

theorem sshiftRight_eq_ofInt {w : Nat} (a : BitVec w) (k : Nat) : a.sshiftRight k = BitVec.ofInt w (a.toInt / 2 ^ k) := by
  rw [BitVec.sshiftRight_eq, Int.shiftRight_eq_div_pow]; norm_cast

theorem if_slt_eq_min {w : Nat} (a b : BitVec w) :
    (if a.slt b then a else b) = BitVec.ofInt w (min a.toInt b.toInt) := by
  rw [min_def_lt, apply_ite (BitVec.ofInt w)]
  simp only [BitVec.slt_iff_toInt_lt, BitVec.ofInt_toInt]

theorem if_slt_eq_max {w : Nat} (a b : BitVec w) :
    (if a.slt b then b else a) = BitVec.ofInt w (max a.toInt b.toInt) := by
  rw [max_def_lt, apply_ite (BitVec.ofInt w)]
  simp only [BitVec.slt_iff_toInt_lt, BitVec.ofInt_toInt]

theorem if_ult_eq_min {w : Nat} (a b : BitVec w) :
    (if a.ult b then a else b) = BitVec.ofNat w (min a.toNat b.toNat) := by
  rw [min_def_lt, apply_ite (BitVec.ofNat w)]
  simp only [BitVec.ult_iff_toNat_lt, BitVec.ofNat_toNat, BitVec.setWidth_eq]

theorem if_ult_eq_max {w : Nat} (a b : BitVec w) :
    (if a.ult b then b else a) = BitVec.ofNat w (max a.toNat b.toNat) := by
  rw [max_def_lt, apply_ite (BitVec.ofNat w)]
  simp only [BitVec.ult_iff_toNat_lt, BitVec.ofNat_toNat, BitVec.setWidth_eq]

theorem eq_zero_iff_toNat {w : Nat} (b : BitVec w) : b = 0 ↔ b.toNat = 0 := BitVec.toNat_inj.symm

theorem allOnes_eq_ofInt (w : Nat) : BitVec.allOnes w = BitVec.ofInt w (-1) := by
  simp [← BitVec.neg_one_eq_allOnes, BitVec.ofInt_neg]

/-- Signed division truncates; only the lowest value by -1 wraps (R172). -/
theorem divS_eq {w : Nat} (a b : BitVec w) :
    divS a b = if b.toNat = 0 then BitVec.ofInt w (-1) else BitVec.ofInt w (a.toInt.tdiv b.toInt) := by
  have h : a.sdiv b = BitVec.ofInt w (a.toInt.tdiv b.toInt) := by
    apply BitVec.eq_of_toInt_eq; rw [BitVec.toInt_sdiv, BitVec.toInt_ofInt]
  unfold divS; simp only [eq_zero_iff_toNat, allOnes_eq_ofInt, h]

theorem divU_eq {w : Nat} (a b : BitVec w) :
    divU a b = if b.toNat = 0 then BitVec.ofInt w (-1) else BitVec.ofNat w (a.toNat / b.toNat) := by
  have h : a / b = BitVec.ofNat w (a.toNat / b.toNat) := by
    rw [← BitVec.toNat_udiv, BitVec.ofNat_toNat, BitVec.setWidth_eq]
  unfold divU; simp only [eq_zero_iff_toNat, allOnes_eq_ofInt, h]

theorem remS_eq {w : Nat} (a b : BitVec w) :
    remS a b = if b.toNat = 0 then a else BitVec.ofInt w (a.toInt.tmod b.toInt) := by
  have h : a.srem b = BitVec.ofInt w (a.toInt.tmod b.toInt) := by rw [← BitVec.toInt_srem, BitVec.ofInt_toInt]
  unfold remS; simp only [eq_zero_iff_toNat, h]

theorem remU_eq {w : Nat} (a b : BitVec w) :
    remU a b = if b.toNat = 0 then a else BitVec.ofNat w (a.toNat % b.toNat) := by
  have h : a % b = BitVec.ofNat w (a.toNat % b.toNat) := by
    rw [← BitVec.toNat_umod, BitVec.ofNat_toNat, BitVec.setWidth_eq]
  unfold remU; simp only [eq_zero_iff_toNat, h]

/-! ### Wrapping arithmetic on readings -/

theorem add_eq_ofNat (a b : Word) : a + b = BitVec.ofNat 64 (a.toNat + b.toNat) := by
  simp [BitVec.ofNat_add]

theorem mul_eq_ofNat (a b : Word) : a * b = BitVec.ofNat 64 (a.toNat * b.toNat) := by
  simp [← BitVec.ofNat_mul_ofNat]

theorem and_eq_ofNat (a b : Word) : a &&& b = BitVec.ofNat 64 (a.toNat &&& b.toNat) := by
  simp [BitVec.ofNat_and]

theorem or_eq_ofNat (a b : Word) : a ||| b = BitVec.ofNat 64 (a.toNat ||| b.toNat) := by
  simp [BitVec.ofNat_or]

theorem xor_eq_ofNat (a b : Word) : a ^^^ b = BitVec.ofNat 64 (a.toNat ^^^ b.toNat) := by
  simp [BitVec.ofNat_xor]

theorem add_eq_ofInt (a b : Word) : a + b = BitVec.ofInt 64 (a.toInt + b.toInt) := by
  rw [BitVec.ofInt_add, BitVec.ofInt_toInt, BitVec.ofInt_toInt]

theorem sub_eq_ofInt (a b : Word) : a - b = BitVec.ofInt 64 (a.toInt - b.toInt) := by
  rw [sub_eq_add_neg a.toInt, BitVec.ofInt_add, BitVec.ofInt_neg, BitVec.ofInt_toInt, BitVec.ofInt_toInt, BitVec.sub_eq_add_neg]

/-- Adding a signed immediate (R173). -/
theorem add_signExtend_eq_ofInt {n : Nat} (a : Word) (i : BitVec n) :
    a + i.signExtend 64 = BitVec.ofInt 64 (a.toInt + i.toInt) := by
  rw [BitVec.ofInt_add, BitVec.ofInt_toInt, BitVec.signExtend]

theorem high_eq (p : Int) : high p = BitVec.ofInt 64 (p / 2 ^ 64) := by
  unfold high; norm_cast

/-- The high half of an unsigned product (R172). -/
theorem high_mul_natCast (m n : Nat) : high ((m : Int) * n) = BitVec.ofNat 64 (m * n / 2 ^ 64) := by
  rw [high_eq, ← BitVec.ofInt_natCast]; norm_cast

/-- The sign-extended low half of a 64-bit result depends on the exact result modulo 2^32 (R171, R172). -/
theorem sx32_ofInt (x : Int) : sx32 (BitVec.ofInt 64 x) = (BitVec.ofInt 32 x).signExtend 64 := by
  have h : (BitVec.ofInt 64 x).setWidth 32 = BitVec.ofInt 32 x := by
    apply BitVec.eq_of_toNat_eq
    simp only [BitVec.toNat_setWidth, BitVec.toNat_ofInt]
    omega
  unfold sx32; rw [h]

theorem sx32_add (a b : Word) : sx32 (a + b) = (BitVec.ofInt 32 (a.toInt + b.toInt)).signExtend 64 := by
  rw [add_eq_ofInt, sx32_ofInt]

theorem sx32_sub (a b : Word) : sx32 (a - b) = (BitVec.ofInt 32 (a.toInt - b.toInt)).signExtend 64 := by
  rw [sub_eq_ofInt, sx32_ofInt]

theorem sx32_mul (a b : Word) : sx32 (a * b) = (BitVec.ofInt 32 (a.toNat * b.toNat : Nat)).signExtend 64 := by
  rw [mul_eq_ofNat, ← BitVec.ofInt_natCast, sx32_ofInt]

theorem boolW_slt (a b : Word) : boolW (a.slt b) = if a.toInt < b.toInt then 1 else 0 := by
  simp only [boolW, BitVec.slt_iff_toInt_lt]

theorem boolW_ult (a b : Word) : boolW (a.ult b) = if a.toNat < b.toNat then 1 else 0 := by
  simp only [boolW, BitVec.ult_iff_toNat_lt]

/-- Comparing with a signed immediate (R173). -/
theorem boolW_slt_signExtend {n : Nat} (a : Word) (i : BitVec n) (h : n ≤ 64) :
    boolW (a.slt (i.signExtend 64)) = if a.toInt < i.toInt then 1 else 0 := by
  rw [boolW_slt, BitVec.toInt_signExtend_of_le h]

/-- The constant of `lui` and `auipc` is the immediate times 2^13 in 32 bits, sign-extended (R173). -/
theorem upper_eq (i : BitVec 19) : upper i = (BitVec.ofInt 32 (i.toNat * 2 ^ 13 : Nat)).signExtend 64 := by
  rw [upper, setWidth_shiftLeft_eq_ofNat, BitVec.ofInt_natCast]

/-! ### Forms on the low 32 bits -/

theorem shiftW_shiftLeft (a b : Word) :
    shiftW (fun x n => x <<< n) a b = (BitVec.ofInt 32 (a.toNat * 2 ^ (b.toNat % 32) : Nat)).signExtend 64 := by
  rw [shiftW, setWidth_shiftLeft_eq_ofNat, BitVec.ofInt_natCast]

theorem shiftW_ushiftRight (a b : Word) :
    shiftW (fun x n => x >>> n) a b =
      (BitVec.ofInt 32 (a.toNat % 2 ^ 32 / 2 ^ (b.toNat % 32) : Nat)).signExtend 64 := by
  rw [shiftW, ushiftRight_eq_ofNat, BitVec.ofInt_natCast, BitVec.toNat_setWidth]

theorem shiftW_sshiftRight (a b : Word) :
    shiftW (fun x n => x.sshiftRight n) a b =
      (BitVec.ofInt 32 ((a.setWidth 32).toInt / 2 ^ (b.toNat % 32))).signExtend 64 := by
  rw [shiftW, sshiftRight_eq_ofInt]

theorem wordOp_divS (a b : Word) :
    wordOp divS a b = if b.toNat % 2 ^ 32 = 0 then BitVec.ofInt 64 (-1)
      else (BitVec.ofInt 32 ((a.setWidth 32).toInt.tdiv (b.setWidth 32).toInt)).signExtend 64 := by
  rw [wordOp, divS_eq, BitVec.toNat_setWidth, apply_ite (BitVec.signExtend 64)]; rfl

theorem wordOp_divU (a b : Word) :
    wordOp divU a b = if b.toNat % 2 ^ 32 = 0 then BitVec.ofInt 64 (-1)
      else (BitVec.ofInt 32 (a.toNat % 2 ^ 32 / (b.toNat % 2 ^ 32) : Nat)).signExtend 64 := by
  rw [wordOp, divU_eq, BitVec.toNat_setWidth, BitVec.toNat_setWidth, apply_ite (BitVec.signExtend 64), BitVec.ofInt_natCast]; rfl

theorem wordOp_remS (a b : Word) :
    wordOp remS a b = if b.toNat % 2 ^ 32 = 0 then (BitVec.ofInt 32 (a.setWidth 32).toInt).signExtend 64
      else (BitVec.ofInt 32 ((a.setWidth 32).toInt.tmod (b.setWidth 32).toInt)).signExtend 64 := by
  rw [wordOp, remS_eq, BitVec.toNat_setWidth, apply_ite (BitVec.signExtend 64), BitVec.ofInt_toInt]

theorem wordOp_remU (a b : Word) :
    wordOp remU a b = if b.toNat % 2 ^ 32 = 0 then (BitVec.ofInt 32 (a.toNat % 2 ^ 32 : Nat)).signExtend 64
      else (BitVec.ofInt 32 (a.toNat % 2 ^ 32 % (b.toNat % 2 ^ 32) : Nat)).signExtend 64 := by
  rw [wordOp, remU_eq, ← BitVec.toNat_setWidth, ← BitVec.toNat_setWidth, apply_ite (BitVec.signExtend 64), BitVec.ofInt_natCast,
    BitVec.ofInt_natCast, BitVec.ofNat_toNat, BitVec.setWidth_eq]

/-! ### Counting bits -/

/-- A scan of `0 … n-1` runs as far as the first index that fails. -/
theorem length_takeWhile_range {n k : Nat} {p : Nat → Bool} (hk : k ≤ n) (hlt : ∀ j < k, p j = true)
    (hstop : k < n → p k = false) : ((List.range n).takeWhile p).length = k := by
  obtain ⟨m, rfl⟩ := Nat.exists_eq_add_of_le hk
  rw [List.range_add, List.takeWhile_append_of_pos (by simpa using hlt)]
  cases m with
  | zero => simp
  | succ m => simp [List.range_succ_eq_map, hstop (by omega)]

/-- Leading zeros are the zero bits above the highest one bit (R171). -/
theorem clz64_eq (v : Word) :
    clz64 v = BitVec.ofNat 64 ((List.range 64).takeWhile fun j => !v.getLsbD (63 - j)).length := by
  unfold clz64
  split
  next h => subst h; decide
  next h =>
    have hv : v.toNat ≠ 0 := fun h0 => h ((eq_zero_iff_toNat v).mpr h0)
    have hlog : Nat.log2 v.toNat < 64 := (Nat.log2_lt hv).mpr v.isLt
    rw [length_takeWhile_range (k := 63 - Nat.log2 v.toNat) (by omega)]
    · intro j hj
      have : v.toNat < 2 ^ (63 - j) := (Nat.log2_lt hv).mp (by omega)
      simp [BitVec.getLsbD, Nat.testBit_lt_two_pow this]
    · intro _
      rw [show 63 - (63 - Nat.log2 v.toNat) = Nat.log2 v.toNat by omega]
      simp [BitVec.getLsbD, Nat.testBit_log2 hv]

/-- Trailing zeros are the zero bits below the lowest one bit (R171). -/
theorem ctz64_eq (v : Word) : ctz64 v = BitVec.ofNat 64 ((List.range 64).takeWhile fun j => !v.getLsbD j).length := by
  unfold ctz64
  cases h : (List.range 64).find? fun i => v.getLsbD i with
  | none =>
    rw [length_takeWhile_range le_rfl (List.find?_range_eq_none.mp h) (by omega), Option.getD_none]
  | some k =>
    obtain ⟨hk, hmem, hlow⟩ := List.find?_range_eq_some.mp h
    have hk64 : k < 64 := List.mem_range.mp hmem
    rw [length_takeWhile_range hk64.le hlow (by simp [hk]), Option.getD_some]

theorem popc64_eq (v : Word) : popc64 v = BitVec.ofNat 64 ((List.range 64).filter fun j => v.getLsbD j).length := by
  rw [popc64, List.countP_eq_length_filter]

/-! ### Completing an integer form -/

theorem completes_opXX {s : State} {d a b : Reg} {f : Word → Word → Word} {v : Word} (h : Settled s.th [xr a, xr b])
    (hv : f (s.th.getX a) (s.th.getX b) = v) : ∃ t, done (opXX s d a b f) = .next t ∧ Done s t (s.th.setX d v) :=
  ⟨_, rfl, opXX_done h hv⟩

theorem completes_opXXFix {s : State} {l : Nat} {d a b : Reg} {f : Word → Word → Word} {v : Word}
    (h : Settled s.th [xr a, xr b]) (hv : f (s.th.getX a) (s.th.getX b) = v) :
    ∃ t, done (opXXFix s l d a b f) = .next t ∧ Done s t (s.th.setX d v) :=
  ⟨_, rfl, opXXFix_done h hv⟩

theorem completes_opX1 {s : State} {d a : Reg} {f : Word → Word} {v : Word} (h : Settled s.th [xr a])
    (hv : f (s.th.getX a) = v) : ∃ t, done (opX1 s d a f) = .next t ∧ Done s t (s.th.setX d v) :=
  ⟨_, rfl, opX1_done h hv⟩

theorem completes_retX (s : State) {d : Reg} {u v : Word} (hv : u = v) :
    ∃ t, done (retX s d u) = .next t ∧ Done s t (s.th.setX d v) :=
  ⟨_, rfl, hv ▸ done_retX d u rfl rfl rfl rfl⟩

end Sys2Proof.Machine
end

section
/-! SUPPORT. The integer, multiply and divide forms: each row of the tables of R171 to R173. -/

open Sys2Proof Sys2Proof.Machine

/-- R171 and R173, row by row. The immediates of `andi`, `ori` and `xori` agree by definition: sign extension is the word of the
signed reading. -/
theorem integerResults : IntegerResults := by
  intro i s d rs v hi hs
  cases i with
  | add => cases hi; exact completes_opXX hs (add_eq_ofNat _ _)
  | sub => cases hi; exact completes_opXX hs (sub_eq_ofInt _ _)
  | and => cases hi; exact completes_opXX hs (and_eq_ofNat _ _)
  | or => cases hi; exact completes_opXX hs (or_eq_ofNat _ _)
  | xor => cases hi; exact completes_opXX hs (xor_eq_ofNat _ _)
  | sll => cases hi; exact completes_opXX hs (shiftLeft_eq_ofNat _ _)
  | srl => cases hi; exact completes_opXX hs (ushiftRight_eq_ofNat _ _)
  | sra => cases hi; exact completes_opXX hs (sshiftRight_eq_ofInt _ _)
  | slt => cases hi; exact completes_opXX hs (boolW_slt _ _)
  | sltu => cases hi; exact completes_opXX hs (boolW_ult _ _)
  | min => cases hi; exact completes_opXX hs (if_slt_eq_min _ _)
  | max => cases hi; exact completes_opXX hs (if_slt_eq_max _ _)
  | minu => cases hi; exact completes_opXX hs (if_ult_eq_min _ _)
  | maxu => cases hi; exact completes_opXX hs (if_ult_eq_max _ _)
  | addw => cases hi; exact completes_opXX hs (sx32_add _ _)
  | subw => cases hi; exact completes_opXX hs (sx32_sub _ _)
  | sllw => cases hi; exact completes_opXX hs (shiftW_shiftLeft _ _)
  | srlw => cases hi; exact completes_opXX hs (shiftW_ushiftRight _ _)
  | sraw => cases hi; exact completes_opXX hs (shiftW_sshiftRight _ _)
  | clz => cases hi; exact completes_opX1 hs (clz64_eq _)
  | ctz => cases hi; exact completes_opX1 hs (ctz64_eq _)
  | popc => cases hi; exact completes_opX1 hs (popc64_eq _)
  | addi => cases hi; exact completes_opX1 hs (add_signExtend_eq_ofInt _ _)
  | andi => cases hi; exact completes_opX1 hs rfl
  | ori => cases hi; exact completes_opX1 hs rfl
  | xori => cases hi; exact completes_opX1 hs rfl
  | slti => cases hi; exact completes_opX1 hs (boolW_slt_signExtend _ _ (by decide))
  | slli => cases hi; exact completes_opX1 hs (shiftLeft_eq_ofNat _ _)
  | srli => cases hi; exact completes_opX1 hs (ushiftRight_eq_ofNat _ _)
  | srai => cases hi; exact completes_opX1 hs (sshiftRight_eq_ofInt _ _)
  | lui => cases hi; exact completes_retX s (upper_eq _)
  | auipc => cases hi; exact completes_retX s (congrArg _ (upper_eq _))
  | _ => cases hi

/-- R172, row by row. -/
theorem multiplyDivideResults : MultiplyDivideResults := by
  intro i s d rs v hi hs
  cases i with
  | mul => cases hi; exact completes_opXXFix hs (mul_eq_ofNat _ _)
  | mulh => cases hi; exact completes_opXXFix hs (high_eq _)
  | mulhu => cases hi; exact completes_opXXFix hs (high_mul_natCast _ _)
  | mulhsu => cases hi; exact completes_opXXFix hs (high_eq _)
  | mulw => cases hi; exact completes_opXXFix hs (sx32_mul _ _)
  | div => cases hi; exact completes_opXX hs (divS_eq _ _)
  | divu => cases hi; exact completes_opXX hs (divU_eq _ _)
  | rem => cases hi; exact completes_opXX hs (remS_eq _ _)
  | remu => cases hi; exact completes_opXX hs (remU_eq _ _)
  | divw => cases hi; exact completes_opXX hs (wordOp_divS _ _)
  | divuw => cases hi; exact completes_opXX hs (wordOp_divU _ _)
  | remw => cases hi; exact completes_opXX hs (wordOp_remS _ _)
  | remuw => cases hi; exact completes_opXX hs (wordOp_remU _ _)
  | _ => cases hi

/-- Settles O1: each result function of the model is the table's arithmetic, and the shared operand forms complete with it. -/
theorem integerForms : Obligations.IntegerForms := ⟨integerResults, multiplyDivideResults⟩

end

section
/-! SUPPORT. Element-wise vector forms: reading an element of a packed vector, the active elements and their flags, and
completing a form whose operands are ready (R206 to R209). -/

namespace Sys2Proof.Machine

/-! ### Elements -/

theorem bits_lt (v lo n : Nat) : bits v lo n < 2 ^ n := Nat.mod_lt _ (Nat.two_pow_pos n)

theorem elem_lt (v : BitVec 2048) (w k : Nat) : elem v w k < 2 ^ w := bits_lt ..

/-- Digit `k` of packed elements is the `k`th one, and 0 past the last (R102). -/
theorem bits_packNat (w : Nat) (l : List Nat) (k : Nat) : bits (packNat w l) (k * w) w = l[k]?.getD 0 % 2 ^ w := by
  induction l generalizing k with
  | nil => simp [packNat, bits]
  | cons x xs ih =>
    cases k with
    | zero => simp [packNat, bits]
    | succ k =>
      have hq : (x % 2 ^ w + 2 ^ w * packNat w xs) / 2 ^ w = packNat w xs := by
        rw [Nat.add_mul_div_left _ _ (Nat.two_pow_pos w), Nat.div_eq_of_lt (Nat.mod_lt _ (Nat.two_pow_pos w)), Nat.zero_add]
      have he : 2 ^ ((k + 1) * w) = 2 ^ w * 2 ^ (k * w) := by rw [← Nat.pow_add]; congr 1; ring
      have hb : bits (packNat w (x :: xs)) ((k + 1) * w) w = bits (packNat w xs) (k * w) w := by
        simp only [bits, packNat]; rw [he, ← Nat.div_div_eq_div_mul, hq]
      rw [hb, ih k, List.getElem?_cons_succ]

/-- A field below bit `N` does not see a cut to `N` bits. -/
theorem bits_toNat_ofNat {v lo n N : Nat} (h : lo + n ≤ N) : bits (BitVec.ofNat N v).toNat lo n = bits v lo n := by
  refine Nat.eq_of_testBit_eq fun i => ?_
  by_cases hi : i < n
  · have : lo + i < N := by omega
    simp [bits, Nat.testBit_mod_two_pow, Nat.testBit_div_two_pow, hi, Nat.add_comm i lo, this]
  · simp [bits, Nat.testBit_mod_two_pow, hi]

theorem elem_pack {w k : Nat} (l : List Nat) (h : (k + 1) * w ≤ 2048) : elem (pack w l) w k = l[k]?.getD 0 % 2 ^ w := by
  have hk : k * w + w ≤ 2048 := by rwa [← Nat.succ_mul]
  unfold elem pack
  rw [bits_toNat_ofNat hk, bits_packNat]

/-- Every element of the lanes held fits a register (R206). -/
theorem n_eq_count (t : Thread) (w : Nat) : t.n w = count t w := by
  have : t.vl * 32 ≤ 2048 := by unfold Thread.vl; omega
  exact (Nat.min_eq_left (Nat.div_le_div_right this)).symm

theorem succ_mul_le_of_lt_count {t : Thread} {w k : Nat} (h : k < count t w) : (k + 1) * w ≤ 2048 :=
  Nat.mul_le_of_le_div _ _ _ (Nat.lt_of_lt_of_le h (Nat.min_le_right ..))

theorem lane_lt_of_lt_count {t : Thread} {w k : Nat} (h : k < count t w) : lane w k < 64 := by
  have hk := succ_mul_le_of_lt_count h
  have hw : 0 < w := Nat.pos_of_ne_zero fun h0 => by simp [count, h0] at h
  rw [Nat.succ_mul] at hk
  unfold lane; omega

/-! ### Active elements -/

/-- Whether a lane is active, once the mask register has settled (R207). -/
theorem active_maskOf {s : State} {m : Mask} {rs : List Nat} (hs : Settled s.th rs) (hm : ∀ r ∈ maskSrc m, r ∈ rs)
    {g : Nat} (hg : g < 64) : active (s.maskOf m) g = on s.th m g := by
  unfold active State.maskOf on
  by_cases h0 : m = 0
  · have : bits (2 ^ 64 - 1) g 1 = 1 := by
      simpa [bits, Nat.testBit_eq_decide_div_mod_eq, hg] using Nat.testBit_two_pow_sub_one 64 g
    rw [if_pos h0, this]; simp [h0]
  · rw [if_neg h0, opX_settled hs (hm _ (by simp [maskSrc, h0]))]
    simp [h0, bits, BitVec.getLsbD, Nat.testBit_eq_decide_div_mod_eq]

/-- A destination blended from new and old elements is as R207 says, when each new element fits its width. -/
theorem written_blend {s : State} {m : Mask} {d : Reg} {w : Nat} {f : Nat → Nat} {rs : List Nat} (hs : Settled s.th rs)
    (hm : ∀ r ∈ maskSrc m, r ∈ rs) (hf : ∀ k, f k < 2 ^ w) :
    Written s.th m d w f (pack w (blend w (s.th.n w) (s.maskOf m) (s.th.getV d) f)) := by
  intro k hk
  have hn : k < s.th.n w := n_eq_count s.th w ▸ hk
  rw [elem_pack _ (succ_mul_le_of_lt_count hk)]
  simp only [blend, List.getElem?_map, List.getElem?_range hn, Option.map_some, Option.getD_some,
    active_maskOf hs hm (lane_lt_of_lt_count hk)]
  unfold lane
  split
  · exact Nat.mod_eq_of_lt (hf k)
  · exact Nat.mod_eq_of_lt (elem_lt ..)

/-- Accumulating over the elements that the mask word leaves active accumulates over those that R207 names (R110). -/
theorem foldl_active_flags {s : State} {m : Mask} {rs : List Nat} (hs : Settled s.th rs) (hm : ∀ r ∈ maskSrc m, r ∈ rs)
    (w : Nat) (g : Nat → BitVec 6) :
    ((List.range (s.th.n w)).filter fun i => active (s.maskOf m) (lane w i)).foldl (fun x i => x ||| g i) 0 =
      orFlags s.th m w g := by
  unfold orFlags
  rw [n_eq_count]
  congr 1
  exact List.filter_congr fun k hk => active_maskOf hs hm (lane_lt_of_lt_count (List.mem_range.mp hk))

theorem anyFlags_active {s : State} {m : Mask} {rs : List Nat} (hs : Settled s.th rs) (hm : ∀ r ∈ maskSrc m, r ∈ rs)
    (w : Nat) (r : Nat → Rnd) :
    anyFlags (((List.range (s.th.n w)).filter fun i => active (s.maskOf m) (lane w i)).map r) =
      orFlags s.th m w fun k => (r k).flags := by
  rw [← foldl_active_flags hs hm, anyFlags, List.foldl_map]

theorem decide_toNat_mod_two (b : Bool) : decide (b.toNat % 2 ^ 1 = 1) = b := by cases b <;> rfl

/-- Bit `L` of a compare's mask (R222). -/
theorem testBit_cmpMask (w n mask vl : Nat) (c : Nat → Bool) (L : Nat) :
    (cmpMask w n mask vl c).testBit L = (decide (L < vl) &&
      (if w = 64 then active mask (L / 2 * 2) && c (L / 2)
       else active mask L && (List.range (32 / w)).any fun j => c (L * (32 / w) + j))) := by
  have hbit (v : Nat) : v.testBit L = decide (bits v (L * 1) 1 = 1) := by
    simp [bits, Nat.testBit_eq_decide_div_mod_eq]
  unfold cmpMask
  rw [hbit, bits_packNat, List.getElem?_map]
  by_cases hL : L < vl
  · rw [List.getElem?_range hL]
    simp only [Option.map_some, Option.getD_some, hL, decide_true, Bool.true_and, List.and_any_distrib_left, ← apply_ite,
      decide_toNat_mod_two]
  · rw [List.getElem?_eq_none (by simpa using hL)]; simp [hL]

theorem maskWritten_cmpMask {s : State} {m : Mask} {rs : List Nat} (hs : Settled s.th rs) (hm : ∀ r ∈ maskSrc m, r ∈ rs)
    (w : Nat) (c : Nat → Bool) :
    MaskWritten s.th m w c (BitVec.ofNat 64 (cmpMask w (s.th.n w) (s.maskOf m) s.th.vl c)) := by
  intro L hL
  have hpair : L / 2 * 2 < 64 := by omega
  rw [BitVec.getLsbD_ofNat, testBit_cmpMask, active_maskOf hs hm hL, active_maskOf hs hm hpair]
  simp [hL]

/-! ### Registers that no stream port binds -/

theorem vsrc_settled {s : State} {k : Nat} {r : Reg} {rs : List Nat} (hp : s.th.portOf r = none) (hs : Settled s.th rs)
    (hr : vr r ∈ rs) : s.vsrc k r = s.th.getV r := by
  unfold State.vsrc; rw [hp]; exact opV_settled hs hr

theorem readGate_unbound {s : State} {r : Reg} (h : s.th.portOf r = none) (k : State) : readGate s r k = k := by
  unfold readGate; rw [h]

theorem failGate_unbound {s : State} {r : Reg} (h : s.th.portOf r = none) (hr : 24 ≤ r.val) (k : State) :
    failGate s (r.val - 24) k = k := by
  unfold failGate; rw [Thread.portOf, if_pos hr] at h; rw [h]

theorem foldr_readGate_unbound {s : State} {vs : List Reg} (h : ∀ r ∈ vs, s.th.portOf r = none) (k : State) :
    vs.foldr (fun r k => readGate s r k) k = k := by
  induction vs with
  | nil => rfl
  | cons r rs ih =>
    rw [List.foldr_cons, ih fun q hq => h q (List.mem_cons_of_mem _ hq), readGate_unbound (h r List.mem_cons_self)]

theorem mem_of_mem_dedup {r : Reg} {l : List Reg} (h : r ∈ dedup l) : r ∈ l := by
  induction l with
  | nil => exact h
  | cons q l ih =>
    unfold dedup at h
    split at h
    · exact List.mem_cons_of_mem _ (ih h)
    · exact List.mem_cons.mpr ((List.mem_cons.mp h).imp_right ih)

theorem consume_unbound {t : Thread} {r : Reg} (h : t.portOf r = none) : consume t r = t := by unfold consume; rw [h]

theorem foldl_consume_unbound {t : Thread} {l : List Reg} (h : ∀ r ∈ l, t.portOf r = none) : l.foldl consume t = t := by
  induction l with
  | nil => rfl
  | cons r l ih =>
    rw [List.foldl_cons, consume_unbound (h r List.mem_cons_self), ih fun q hq => h q (List.mem_cons_of_mem _ hq)]

theorem consumeAll_unbound {s : State} {vs : List Reg} (h : ∀ r ∈ vs, s.th.portOf r = none) : consumeAll s vs = s := by
  unfold consumeAll; rw [foldl_consume_unbound fun r hr => h r (mem_of_mem_dedup hr)]

/-- A vector instruction whose operands are ready has its effect (R141, R208, R218). -/
theorem vop_ready {s : State} {vs : List Reg} {d : Option Reg} {xs : List Nat} {m : Mask} (h : VReady s vs xs m d.toList)
    (k : State) : vop s false vs d xs m k = k := by
  obtain ⟨hg, hs, hp⟩ := h
  have hsrc : ∀ r ∈ vs, s.th.portOf r = none := fun r hr => hp r (List.mem_append_left _ hr)
  have hdst : ∀ r, d = some r → s.th.portOf r = none := fun r hr => hp r (List.mem_append_right _ (by simp [hr]))
  have hw : wrongPort s.th vs d = false := by
    have hs : (vs.any fun r => (s.th.portOf r).any fun p => p.write) = false :=
      List.any_eq_false.mpr fun r hr => by simp [hsrc r hr]
    cases d with
    | none => simp [wrongPort, hs]
    | some r => simp [wrongPort, hs, hdst r rfl]
  unfold vop
  rw [hw, Bool.or_false, attempt_vector hs hg, foldr_readGate_unbound hsrc]
  cases d with
  | none => rfl
  | some r =>
    dsimp only
    split
    · next hr => exact failGate_unbound (hdst r rfl) hr k
    · rfl

/-! ### Completing -/

/-- An interlocked result in a vector register, from a state that differs from the first in its thread alone. -/
theorem done_wrV {s s1 : State} (d : Reg) (v : BitVec 2048) (h0 : ThreadOnly s s1) (hi : s1.th.ir = s.th.ir)
    (hr : s1.th.rep = s.th.rep) (hp : s1.th.pc = s.th.pc) : Done s (retire (s1.wrV d v)) (s1.th.setV d v) := by
  have h := done_retire s ((s1.th.setV d v).forget (32 + d.val)) hi hr hp
  have e : retire (s1.wrV d v) = retire { s with th := (s1.th.setV d v).forget (32 + d.val) } := by
    unfold State.wrV; rw [h0]
  rw [e]; exact h.of_pend rfl

/-- A fixed-latency result in a vector register, likewise (R209). -/
theorem done_wrVFix {s s1 : State} (l : Nat) (d : Reg) (v : BitVec 2048) (h0 : ThreadOnly s s1) (hi : s1.th.ir = s.th.ir)
    (hr : s1.th.rep = s.th.rep) (hp : s1.th.pc = s.th.pc) : Done s (retire (s1.wrVFix l d v)) (s1.th.setV d v) := by
  unfold State.wrVFix
  split
  · exact done_wrV d v h0 hi hr hp
  · have h := done_retire s
      { (s1.th.setV d v).forget (32 + d.val) with
        pend := ⟨32 + d.val, l, s1.th.getV d, false⟩ :: ((s1.th.setV d v).forget (32 + d.val)).pend } hi hr hp
    have e : ∀ x : Thread, ({ s1 with th := x } : State) = { s with th := x } := by intro x; rw [h0]
    rw [e]; exact h.of_pend rfl

/-- A vector result whose sources and destination no port binds. -/
theorem done_vret {s s1 : State} {vs : List Reg} (lat : Option Nat) {d : Reg} (f : BitVec 2048 → BitVec 2048)
    (hv : ∀ r ∈ vs ++ [d], s1.th.portOf r = none) (h0 : ThreadOnly s s1) (hi : s1.th.ir = s.th.ir)
    (hr : s1.th.rep = s.th.rep) (hp : s1.th.pc = s.th.pc) :
    Done s (vret s1 vs lat d f) (s1.th.setV d (f (s1.th.getV d))) := by
  unfold vret vput
  rw [consumeAll_unbound fun r h => hv r (List.mem_append_left _ h), hv d (by simp)]
  cases lat with
  | none => exact done_wrV d _ h0 hi hr hp
  | some l => exact done_wrVFix l d _ h0 hi hr hp

/-- A result in an x register of a form whose vector sources no port binds. -/
theorem done_vretX {s s1 : State} {vs : List Reg} (lat : Option Nat) (d : Reg) (v : Nat)
    (hv : ∀ r ∈ vs, s1.th.portOf r = none) (h0 : ThreadOnly s s1) (hi : s1.th.ir = s.th.ir)
    (hr : s1.th.rep = s.th.rep) (hp : s1.th.pc = s.th.pc) :
    Done s (vretX s1 vs lat d v) (s1.th.setX d (BitVec.ofNat 64 v)) := by
  unfold vretX
  rw [consumeAll_unbound hv]
  cases lat with
  | none => exact done_retX d _ h0 hi hr hp
  | some l => exact done_retXFix l d _ h0 hi hr hp

/-- The instruction completes with `G` of each active element of two sources in a vector register, and their flags. -/
def MapsElements (s : State) (o : Host.Outcome State Fault Refusal) (d a b : Reg) (m : Mask) (w : Nat)
    (G : Nat → Nat → Rnd) : Prop :=
  let r (k : Nat) := G (elem (s.th.getV a) w k) (elem (s.th.getV b) w k)
  ∃ s' v, o = .next s' ∧ Written s.th m d w (fun k => (r k).bits) v ∧
    Done s s' ({ s.th with fflags := s.th.fflags ||| orFlags s.th m w fun k => (r k).flags }.setV d v)

/-- Two functions that agree on elements of width `w`, the first with results of that width. -/
def AgreeOn (w : Nat) (F G : Nat → Nat → Rnd) : Prop :=
  ∀ x y, x < 2 ^ w → y < 2 ^ w → (F x y).bits < 2 ^ w ∧ F x y = G x y

theorem AgreeOn.of_bits_lt {w : Nat} {F G : Nat → Nat → Rnd} (hG : ∀ x y, x < 2 ^ w → y < 2 ^ w → (G x y).bits < 2 ^ w)
    (h : ∀ x y, x < 2 ^ w → y < 2 ^ w → F x y = G x y) : AgreeOn w F G :=
  fun x y hx hy => ⟨h x y hx hy ▸ hG x y hx hy, h x y hx hy⟩

/-- An element-wise form maps the elements by any function that agrees with its own (R207, R209). -/
theorem mapsElements_vmap2 {s : State} (lat : Option Nat) {d a b : Reg} {m : Mask} {w : Nat} {F G : Nat → Nat → Rnd}
    (h : VReady s [a, b] [] m [d]) (hFG : AgreeOn w F G) : MapsElements s (done (vmap2 s lat d a b m w F)) d a b m w G := by
  have ⟨_, hs, hp⟩ := h
  have hm : ∀ r ∈ maskSrc m, r ∈ [a, b].map vr ++ [] ++ maskSrc m := fun r hr => List.mem_append_right _ hr
  have hG (k : Nat) := hFG _ _ (elem_lt (s.th.getV a) w k) (elem_lt (s.th.getV b) w k)
  let r (k : Nat) := G (elem (s.th.getV a) w k) (elem (s.th.getV b) w k)
  have he : vmap2 s lat d a b m w F = vret (s.flags (orFlags s.th m w fun k => (r k).flags)) [a, b] lat d fun old =>
      pack w (blend w (s.th.n w) (s.maskOf m) old fun k => (r k).bits) := by
    unfold vmap2
    rw [vop_ready h, vsrc_settled (hp a (by simp)) hs (by simp), vsrc_settled (hp b (by simp)) hs (by simp),
      anyFlags_active hs hm]
    simp only [fun k => (hG k).2, r]
  have hr (k : Nat) : (r k).bits < 2 ^ w := (congrArg Rnd.bits (hG k).2).symm.trans_lt (hG k).1
  exact ⟨_, _, congrArg done he, written_blend hs hm hr, done_vret lat _ hp rfl rfl rfl rfl⟩

/-- The instruction completes with the mask of a condition on each active element in an x register, and their flags. -/
def MasksElements (s : State) (o : Host.Outcome State Fault Refusal) (d a b : Reg) (m : Mask) (w : Nat)
    (c : Nat → Nat → Bool) (g : Nat → Nat → BitVec 6) : Prop :=
  ∃ s' v, o = .next s' ∧ MaskWritten s.th m w (fun k => c (elem (s.th.getV a) w k) (elem (s.th.getV b) w k)) v ∧
    Done s s' ({ s.th with
      fflags := s.th.fflags ||| orFlags s.th m w fun k => g (elem (s.th.getV a) w k) (elem (s.th.getV b) w k) }.setX d v)

/-- A compare masks the elements by any condition and flags that agree with its own (R222). -/
theorem masksElements_vcmp2 {s : State} (lat : Nat) {d a b : Reg} {m : Mask} {w : Nat} {F : Nat → Nat → Bool × BitVec 6}
    {c : Nat → Nat → Bool} {g : Nat → Nat → BitVec 6} (h : VReady s [a, b] [] m [])
    (hF : ∀ x y, x < 2 ^ w → y < 2 ^ w → F x y = (c x y, g x y)) :
    MasksElements s (done (vcmp2 s lat d a b m w F)) d a b m w c g := by
  have ⟨_, hs, hp⟩ := h
  have hm : ∀ r ∈ maskSrc m, r ∈ [a, b].map vr ++ [] ++ maskSrc m := fun r hr => List.mem_append_right _ hr
  refine ⟨_, _, rfl, maskWritten_cmpMask hs hm w _, ?_⟩
  unfold vcmp2
  rw [vop_ready h, vsrc_settled (hp a (by simp)) hs (by simp), vsrc_settled (hp b (by simp)) hs (by simp),
    foldl_active_flags hs hm]
  simp only [fun k => hF _ _ (elem_lt (s.th.getV a) w k) (elem_lt (s.th.getV b) w k)]
  exact done_vretX (some lat) d _ (fun r hr => hp r (List.mem_append_left _ hr)) rfl rfl rfl rfl

/-- A form with one source reads it twice. -/
theorem VReady.twice {s : State} {a : Reg} {xs : List Nat} {m : Mask} {d : List Reg} (h : VReady s [a] xs m d) :
    VReady s [a, a] xs m d := by
  obtain ⟨hg, hs, hp⟩ := h
  exact ⟨hg, hs.mono (by simp), by simpa using hp⟩

end Sys2Proof.Machine
end

section
/-! SUPPORT. Vector integer forms: an element's reading as an integer of its type, and each result function of R221 as the
table's arithmetic on these readings. -/

namespace Sys2Proof.Machine

/-! ### Readings -/

theorem signed_eq_toInt {w x : Nat} (hw : 0 < w) : signed x w = (BitVec.ofNat w x).toInt := by
  have h2 := Nat.two_pow_pred_mul_two hw
  have hc : (x : Int) % 2 ^ w = (x % 2 ^ w : Nat) := by simp
  rw [signed, BitVec.toInt_eq_toNat_cond, BitVec.toNat_ofNat, hc]
  split <;> split <;> omega

theorem unsigned_eq_ofInt (v : Int) (w : Nat) : unsigned v w = (BitVec.ofInt w v).toNat := (BitVec.toNat_ofInt ..).symm

theorem unsigned_lt (v : Int) (w : Nat) : unsigned v w < 2 ^ w := by rw [unsigned_eq_ofInt]; exact BitVec.isLt _

end Sys2Proof.Machine

namespace Sys2Proof

open Machine

theorem IT.bits_pos (t : IT) : 0 < t.bits := by cases t <;> decide

/-- An element as the table of R221 reads it: in two's complement for a signed type. -/
def IT.read (t : IT) (x : Nat) : Int := if t.signed then (BitVec.ofNat t.bits x).toInt else x

theorem IT.int_eq (t : IT) {x : Nat} (hx : x < 2 ^ t.bits) : t.int x = t.read x := by
  unfold IT.int IT.read
  rw [signed_eq_toInt t.bits_pos, Nat.mod_eq_of_lt hx]

theorem IT.unsigned_int (t : IT) {x : Nat} (hx : x < 2 ^ t.bits) : unsigned (t.int x) t.bits = x := by
  rw [t.int_eq hx, unsigned_eq_ofInt, IT.read]
  split
  · rw [BitVec.ofInt_toInt, BitVec.toNat_ofNat, Nat.mod_eq_of_lt hx]
  · rw [BitVec.ofInt_natCast, BitVec.toNat_ofNat, Nat.mod_eq_of_lt hx]

theorem IT.int_eq_zero_iff (t : IT) {x : Nat} (hx : x < 2 ^ t.bits) : t.int x = 0 ↔ x = 0 := by
  constructor
  · intro h
    rw [← t.unsigned_int hx, h]; simp [unsigned]
  · rintro rfl
    rw [t.int_eq hx]; simp [IT.read]

/-- The bounds of a type, as the table of R221 writes them. -/
def IT.least (t : IT) : Int := if t.signed then -2 ^ (t.bits - 1) else 0
def IT.most (t : IT) : Int := if t.signed then 2 ^ (t.bits - 1) - 1 else 2 ^ t.bits - 1

theorem IT.lo_eq (t : IT) : t.lo = t.least := by simp [IT.lo, IT.least]

theorem IT.hi_eq (t : IT) : t.hi = t.most := by simp [IT.hi, IT.most]

theorem IT.lo_le_hi (t : IT) : t.lo ≤ t.hi := by cases t <;> decide

end Sys2Proof

namespace Sys2Proof.Machine

/-! ### Result functions -/

theorem unsigned_min (t : IT) {x y : Nat} (hx : x < 2 ^ t.bits) (hy : y < 2 ^ t.bits) :
    unsigned (min (t.int x) (t.int y)) t.bits = if t.read x ≤ t.read y then x else y := by
  rw [min_def, ← t.int_eq hx, ← t.int_eq hy]
  split
  · exact t.unsigned_int hx
  · exact t.unsigned_int hy

theorem unsigned_max (t : IT) {x y : Nat} (hx : x < 2 ^ t.bits) (hy : y < 2 ^ t.bits) :
    unsigned (max (t.int x) (t.int y)) t.bits = if t.read x ≤ t.read y then y else x := by
  rw [max_def, ← t.int_eq hx, ← t.int_eq hy]
  split
  · exact t.unsigned_int hy
  · exact t.unsigned_int hx

/-- The high half of a product (R221). -/
theorem unsigned_high (t : IT) {x y : Nat} (hx : x < 2 ^ t.bits) (hy : y < 2 ^ t.bits) :
    unsigned (t.int x * t.int y / (2 ^ t.bits : Nat)) t.bits =
      (BitVec.ofInt t.bits (t.read x * t.read y / 2 ^ t.bits)).toNat := by
  rw [unsigned_eq_ofInt, t.int_eq hx, t.int_eq hy, Nat.cast_pow, Nat.cast_ofNat]

/-- Dividing by zero gives all ones, in a signed type as -1 (R172, R221). -/
theorem unsigned_quot (t : IT) {x y : Nat} (hx : x < 2 ^ t.bits) (hy : y < 2 ^ t.bits) :
    unsigned (quot t (t.int x) (t.int y)) t.bits =
      if y = 0 then 2 ^ t.bits - 1 else (BitVec.ofInt t.bits ((t.read x).tdiv (t.read y))).toNat := by
  simp only [quot, t.int_eq_zero_iff hy]
  split
  · cases t <;> decide
  · rw [unsigned_eq_ofInt, t.int_eq hx, t.int_eq hy]

theorem unsigned_remn (t : IT) {x y : Nat} (hx : x < 2 ^ t.bits) (hy : y < 2 ^ t.bits) :
    unsigned (remn (t.int x) (t.int y)) t.bits =
      if y = 0 then x else (BitVec.ofInt t.bits ((t.read x).tmod (t.read y))).toNat := by
  simp only [remn, t.int_eq_zero_iff hy]
  split
  · exact t.unsigned_int hx
  · rw [unsigned_eq_ofInt, t.int_eq hx, t.int_eq hy]

/-! ### Completing -/

/-- An element's result and whether it was clamped, with its flag (R221). -/
def satRnd (r : Nat × Bool) : Rnd := ⟨r.1, if r.2 then fSAT else 0⟩

/-- An integer form gives `f` of the elements (R221). -/
theorem mapsElements_vint {s : State} (lat : Option Nat) {d a b : Reg} {m : Mask} {t : IT} {g : Int → Int → Int}
    {f : Nat → Nat → Nat} (h : VReady s [a, b] [] m [d])
    (hf : ∀ x y, x < 2 ^ t.bits → y < 2 ^ t.bits → unsigned (g (t.int x) (t.int y)) t.bits = f x y) :
    MapsElements s (done (vint s lat d a b m t g)) d a b m t.bits fun x y => satRnd (f x y, false) :=
  mapsElements_vmap2 lat h fun x y hx hy => ⟨unsigned_lt .., by rw [hf x y hx hy]; rfl⟩

/-- A form that wraps an operation on the elements' readings (R221). -/
theorem mapsElements_vint_wrap {s : State} (lat : Option Nat) {d a b : Reg} {m : Mask} {t : IT} {g : Int → Int → Int}
    (h : VReady s [a, b] [] m [d]) :
    MapsElements s (done (vint s lat d a b m t g)) d a b m t.bits fun x y =>
      satRnd ((BitVec.ofInt t.bits (g (t.read x) (t.read y))).toNat, false) :=
  mapsElements_vint lat h fun x y hx hy => by rw [unsigned_eq_ofInt, t.int_eq hx, t.int_eq hy]

/-- A form on the bits of the elements, whose results fit the width. -/
theorem mapsElements_vbits {s : State} {d a b : Reg} {m : Mask} {t : IT} {g f : Nat → Nat → Nat}
    (h : VReady s [a, b] [] m [d]) (hf : ∀ x y, x < 2 ^ t.bits → y < 2 ^ t.bits → g x y % 2 ^ t.bits = f x y) :
    MapsElements s (done (vbits s d a b m t g)) d a b m t.bits fun x y => satRnd (f x y, false) :=
  mapsElements_vmap2 _ h fun x y hx hy => ⟨Nat.mod_lt _ (Nat.two_pow_pos _), by rw [hf x y hx hy]; rfl⟩

/-- A right shift divides the reading, so it is arithmetic for a signed type and logical otherwise (R221). -/
theorem agreeOn_vsr (t : IT) :
    AgreeOn t.bits (fun x y => ⟨unsigned (t.int x / (2 ^ (y % t.bits) : Nat)) t.bits, 0⟩) fun x y =>
      satRnd ((BitVec.ofInt t.bits (t.read x / 2 ^ (y % t.bits))).toNat, false) := by
  intro x y hx hy
  refine ⟨unsigned_lt .., ?_⟩
  dsimp only
  rw [unsigned_eq_ofInt, t.int_eq hx, Nat.cast_pow, Nat.cast_ofNat]; rfl

/-- An integer clamped to the range of a type, and whether it was (R221). -/
def clampTo (t : IT) (v : Int) : Nat × Bool :=
  if v < t.least then ((BitVec.ofInt t.bits t.least).toNat, true)
  else if t.most < v then ((BitVec.ofInt t.bits t.most).toNat, true)
  else ((BitVec.ofInt t.bits v).toNat, false)

theorem clampTo_eq (t : IT) (v : Int) :
    (⟨unsigned (max t.lo (min t.hi v)) t.bits, flagIf (max t.lo (min t.hi v) ≠ v) fSAT⟩ : Rnd) = satRnd (clampTo t v) := by
  have hle := t.lo_le_hi
  rw [clampTo, ← t.lo_eq, ← t.hi_eq, ← unsigned_eq_ofInt, ← unsigned_eq_ofInt, ← unsigned_eq_ofInt]
  split
  · next hlo =>
    have : max t.lo (min t.hi v) = t.lo := by omega
    rw [this]; simp [flagIf, satRnd, hlo.ne']
  · next hlo =>
    split
    · next hhi =>
      have : max t.lo (min t.hi v) = t.hi := by omega
      rw [this]; simp [flagIf, satRnd, hhi.ne]
    · next hhi =>
      have : max t.lo (min t.hi v) = v := by omega
      rw [this]; simp [flagIf, satRnd]

theorem mapsElements_vsat {s : State} {d a b : Reg} {m : Mask} {t : IT} {g : Int → Int → Int}
    (h : VReady s [a, b] [] m [d]) :
    MapsElements s (done (vsat s d a b m t g)) d a b m t.bits fun x y => satRnd (clampTo t (g (t.read x) (t.read y))) :=
  mapsElements_vmap2 _ h fun x y hx hy => ⟨unsigned_lt .., by rw [clampTo_eq, t.int_eq hx, t.int_eq hy]⟩

end Sys2Proof.Machine
end

section
/-! SUPPORT. The vector integer forms, row by row (R221). -/

open Sys2Proof Sys2Proof.Machine

/-- Settles O26: each row's function of the model's readings is the table's, and the element-wise forms complete with it. -/
theorem vectorIntegerResults : Obligations.VectorIntegerResults := by
  intro i s d a b m t f hi hs
  cases i with
  | vadd => cases hi; exact mapsElements_vint_wrap _ hs
  | vsub => cases hi; exact mapsElements_vint_wrap _ hs
  | vmul => cases hi; exact mapsElements_vint_wrap _ hs
  | vmulh => cases hi; exact mapsElements_vint (g := fun x y => x * y / (2 ^ t.bits : Nat)) _ hs fun x y => unsigned_high t
  | vmin => cases hi; exact mapsElements_vint _ hs fun x y => unsigned_min t
  | vmax => cases hi; exact mapsElements_vint _ hs fun x y => unsigned_max t
  | vadds => cases hi; exact mapsElements_vsat hs
  | vsubs => cases hi; exact mapsElements_vsat hs
  | vand => cases hi; exact mapsElements_vbits hs fun x y hx hy => Nat.mod_eq_of_lt (Nat.and_lt_two_pow x hy)
  | vor => cases hi; exact mapsElements_vbits hs fun x y hx hy => Nat.mod_eq_of_lt (Nat.or_lt_two_pow hx hy)
  | vxor => cases hi; exact mapsElements_vbits hs fun x y hx hy => Nat.mod_eq_of_lt (Nat.xor_lt_two_pow hx hy)
  | vsll => cases hi; exact mapsElements_vbits hs fun x y hx hy => rfl
  | vsr => cases hi; exact mapsElements_vmap2 _ hs (agreeOn_vsr t)
  | vdiv => cases hi; exact mapsElements_vint _ hs fun x y => unsigned_quot t
  | vrem => cases hi; exact mapsElements_vint _ hs fun x y => unsigned_remn t
  | _ => cases hi

end

section
/-! SUPPORT. Vector compares, minimum, maximum and sign forms: each result function of R222 and R224 as the table's. -/

namespace Sys2Proof.Machine

/-! ### Selections and signs -/

/-- A result of R224: a NaN among the elements gives the canonical one, with NV for a signalling one, and `v` otherwise. -/
def nanOr (f : Fmt) (x y v : Nat) : Rnd :=
  if (f.val x).isNan || (f.val y).isNan then
    ⟨f.canon, if (f.val x).isSig || (f.val y).isSig then fNV else 0⟩
  else ⟨v, 0⟩

theorem canon_lt (f : Fmt) : f.canon < 2 ^ f.width := by cases f <;> decide

theorem nanOr_bits_lt {f : Fmt} {x y v : Nat} (hv : v < 2 ^ f.width) : (nanOr f x y v).bits < 2 ^ f.width := by
  unfold nanOr
  split
  · exact canon_lt f
  · exact hv

/-- A minimum selects the first element where it is below the second, a maximum where it is not. -/
theorem minMax_eq (f : Fmt) (isMax : Bool) {x y : Nat} (hx : x < 2 ^ f.width) (hy : y < 2 ^ f.width) :
    minMax f isMax x y = nanOr f x y (if belowV (f.val x) (f.val y) != isMax then x else y) := by
  unfold minMax nanOr flagIf
  rw [Nat.mod_eq_of_lt hx, Nat.mod_eq_of_lt hy]
  dsimp only
  split
  · rfl
  · split <;> rfl

theorem agreeOn_vfmin (f : Fmt) : AgreeOn f.width (fun x y => minMax f false x y) fun x y =>
    nanOr f x y (if belowV (f.val x) (f.val y) then x else y) := by
  refine .of_bits_lt (fun x y hx hy => nanOr_bits_lt (by split <;> assumption)) fun x y hx hy => ?_
  rw [minMax_eq f false hx hy, Bool.bne_false]

theorem agreeOn_vfmax (f : Fmt) : AgreeOn f.width (fun x y => minMax f true x y) fun x y =>
    nanOr f x y (if belowV (f.val x) (f.val y) then y else x) := by
  refine .of_bits_lt (fun x y hx hy => nanOr_bits_lt (by split <;> assumption)) fun x y hx hy => ?_
  rw [minMax_eq f true hx hy]
  cases belowV (f.val x) (f.val y) <;> rfl

theorem width_pos (f : Fmt) : 0 < f.width := by cases f <;> decide

/-- Flipping the sign bit, which is the top one. -/
theorem flipTop_eq (f : Fmt) {x : Nat} (hx : x < 2 ^ f.width) :
    (x + 2 ^ (f.width - 1)) % 2 ^ f.width =
      if x < 2 ^ (f.width - 1) then x + 2 ^ (f.width - 1) else x - 2 ^ (f.width - 1) := by
  have h2 := Nat.two_pow_pred_mul_two (width_pos f)
  split
  · exact Nat.mod_eq_of_lt (by omega)
  · rw [Nat.mod_eq_sub_mod (by omega), Nat.mod_eq_of_lt (by omega)]; omega

/-- A sign operation as the table of R224 has it. -/
theorem signOp_eq (f : Fmt) (neg : Bool) (x : Nat) :
    signOp f neg x = nanOr f x x
      (if neg then (x + 2 ^ (f.width - 1)) % 2 ^ f.width else x % 2 ^ (f.width - 1)) := by
  simp [signOp, nanOr, flagIf]

theorem agreeOn_vfabs (f : Fmt) :
    AgreeOn f.width (fun x _ => signOp f false x) fun x _ => nanOr f x x (x % 2 ^ (f.width - 1)) :=
  .of_bits_lt (fun _ _ hx _ => nanOr_bits_lt (Nat.lt_of_le_of_lt (Nat.mod_le ..) hx)) fun x _ _ _ => signOp_eq f false x

theorem agreeOn_vfneg (f : Fmt) :
    AgreeOn f.width (fun x _ => signOp f true x) fun x _ => nanOr f x x
      (if x < 2 ^ (f.width - 1) then x + 2 ^ (f.width - 1) else x - 2 ^ (f.width - 1)) := by
  refine .of_bits_lt (fun x _ hx _ => nanOr_bits_lt ?_) fun x _ hx _ => ?_
  · rw [← flipTop_eq f hx]; exact Nat.mod_lt _ (Nat.two_pow_pos _)
  · rw [← flipTop_eq f hx]; exact signOp_eq f true x

/-! ### Compares -/

theorem masksElements_int {s : State} (lat : Nat) {d a b : Reg} {m : Mask} {t : IT} {p : Int → Int → Prop}
    [∀ x y, Decidable (p x y)] (h : VReady s [a, b] [] m []) :
    MasksElements s (done (vcmp2 s lat d a b m t.bits fun x y => (decide (p (t.int x) (t.int y)), 0))) d a b m t.bits
      (fun x y => decide (p (t.read x) (t.read y))) fun _ _ => 0 :=
  masksElements_vcmp2 lat h fun x y hx hy => by simp only [t.int_eq hx, t.int_eq hy]

/-- A floating-point compare is the table's by definition (R175, R224). -/
theorem masksElements_fp {s : State} (lat op : Nat) {d a b : Reg} {m : Mask} {f : Fmt} (h : VReady s [a, b] [] m []) :
    MasksElements s (done (vcmp2 s lat d a b m f.width fun x y => cmpFp f op x y)) d a b m f.width
      (fun x y => (cmpFp f op x y).1) fun x y => (cmpFp f op x y).2 :=
  masksElements_vcmp2 lat h fun _ _ _ _ => rfl

end Sys2Proof.Machine
end

section
/-! SUPPORT. The vector compares, selections and sign forms, row by row (R222, R224). -/

open Sys2Proof Sys2Proof.Machine

theorem vectorCompares : VectorCompares := by
  intro i s d a b m w c g hi hs
  cases i with
  | vceq => cases hi; exact masksElements_int 2 (p := (· = ·)) hs
  | vcne => cases hi; exact masksElements_int 2 (p := (· ≠ ·)) hs
  | vclt => cases hi; exact masksElements_int 2 (p := (· < ·)) hs
  | vcge => cases hi; exact masksElements_int 2 (p := fun x y => y ≤ x) hs
  | vcle => cases hi; exact masksElements_int 2 (p := (· ≤ ·)) hs
  | vcgt => cases hi; exact masksElements_int 2 (p := fun x y => y < x) hs
  | vfeq => cases hi; exact masksElements_fp 4 0 hs
  | vflt => cases hi; exact masksElements_fp 4 1 hs
  | vfle => cases hi; exact masksElements_fp 4 2 hs
  | vfun => cases hi; exact masksElements_fp 4 3 hs
  | _ => cases hi

theorem vectorSelections : VectorSelections := by
  intro i s d a b vs m ty f hi hs
  cases i with
  | vfmin => cases hi; exact mapsElements_vmap2 _ hs (agreeOn_vfmin _)
  | vfmax => cases hi; exact mapsElements_vmap2 _ hs (agreeOn_vfmax _)
  | vfabs => cases hi; exact mapsElements_vmap2 _ hs.twice (agreeOn_vfabs _)
  | vfneg => cases hi; exact mapsElements_vmap2 _ hs.twice (agreeOn_vfneg _)
  | _ => cases hi

/-- Settles O29: the compares through their masks, and the selections through the elements' results. -/
theorem vectorComparesAndSelections : Obligations.VectorComparesAndSelections := ⟨vectorCompares, vectorSelections⟩

end
